-- ==== Sys2Proof/Word.lean ====
section
/-! DEFINITION. The words the board handles (R103, R165) and the type of its keyed tables. -/

namespace Sys2Proof

/-- One byte of a frame or of a layout image (R160, R169). -/
abbrev Byte := BitVec 8

/-- A reading of the yard clock, in milliseconds modulo 2^32 (R103). -/
abbrev Instant := BitVec 32

/-- A table with one entry for each number (section, point, track, channel, pair or byte address), held as the (number, entry) pairs whose
entry is not the one an unlisted number reads as. A layout image is such a table of bytes (`Host.Cell` pairs). -/
abbrev Table (α : Type) := List (Nat × α)

end Sys2Proof
end

