-- ==== Sys2Proof/Config.lean ====
section
/-! DEFINITION. The sizes the spec fixes, and the values it leaves open. A value left open is an opaque constant: nothing can be proved of it. -/

namespace Sys2Proof.Config

/-- The cut table has 48 slots (R21). -/
def cutSlots : Nat := 48
/-- At most 24 cuts are in the tree (R53, R151). -/
def maxInTree : Nat := 24
/-- An occupant list holds at most 4 cuts (R82). -/
def maxOccupants : Nat := 4
/-- A leader has at most 3 followers (R54). -/
def maxFollowers : Nat := 3
/-- A diversion list holds at most 4 entries (R32). -/
def maxDiversions : Nat := 4
/-- The first cut number the board gives itself (R22). -/
def firstUnlisted : Nat := 61440
/-- A layout image is 2,304 bytes, 9 pages of two halves (R166, R169). -/
def imageLength : Nat := 2304
/-- The commit timer, in milliseconds (R157). -/
def commitTime : Nat := 3000
/-- More than 20 milliseconds between two bytes of a frame break it (R160). -/
def byteGap : Nat := 20

/-- FREE VALUE (log 6). The slot byte that STATUS shows beside the last commit result NONE: R168 gives the byte and no slot belongs to NONE. -/
opaque slotWhenNone : Instant → Byte
/-- FREE VALUE (log 6). The generation bytes that STATUS shows beside a presence byte of 0: R168 states a value for instants only. -/
opaque generationWhenAbsent : Instant → BitVec 16
/-- FREE VALUE (log 6). The budget in force that the image of a point not in use shows: R147 lists what such an image shows, and no budget. -/
opaque budgetWhenUnused : Nat → Instant → BitVec 16

end Sys2Proof.Config
end

