-- ==== Sys2Proof/Syntax.lean ====
section
/-! DEFINITION. The commands: one constructor for each row of spec/opcode_table.json. A request is a complete frame with a good check and
carries the body bytes of that frame (R160, R164); a field event names its line; a timer's expiry names the timer's owner. -/

namespace Sys2Proof

/-- The two positions of a point (00_scope, Numbering). -/
inductive Position where
  | normal
  | reverse
  deriving DecidableEq, Repr

/-- The commands. -/
inductive Instr where
  /-- ENTER, code 10h (R37, R38). -/
  | enter (body : List Byte)
  /-- AMEND, code 11h (R39 to R42). -/
  | amend (body : List Byte)
  /-- WITHDRAW, code 12h (R43). -/
  | withdraw (body : List Byte)
  /-- QUERY, code 13h (R44). -/
  | query (body : List Byte)
  /-- LIST, code 14h (R45). -/
  | list (body : List Byte)
  /-- COLLECT, code 15h (R46). -/
  | collect (body : List Byte)
  /-- ABANDON, code 16h (R47). -/
  | abandon (body : List Byte)
  /-- TRACK SET, code 20h (R79). -/
  | trackSet (body : List Byte)
  /-- TRACK READ, code 21h (R80). -/
  | trackRead (body : List Byte)
  /-- SECTION READ, code 28h (R102). -/
  | sectionRead (body : List Byte)
  /-- POINT MODE, code 30h (R144). -/
  | pointMode (body : List Byte)
  /-- POINT THROW, code 31h (R145). -/
  | pointThrow (body : List Byte)
  /-- POINT RESET, code 32h (R146). -/
  | pointReset (body : List Byte)
  /-- POINT READ, code 33h (R147). -/
  | pointRead (body : List Byte)
  /-- RUN, code 40h (R149). -/
  | run (body : List Byte)
  /-- RESET, code 41h (R154). -/
  | warmReset (body : List Byte)
  /-- LAYOUT LOAD, code 50h (R156). -/
  | layoutLoad (body : List Byte)
  /-- LAYOUT WRITE, code 51h (R156, R166). -/
  | layoutWrite (body : List Byte)
  /-- LAYOUT COMMIT, code 52h (R157). -/
  | layoutCommit (body : List Byte)
  /-- LAYOUT SELECT, code 53h (R159). -/
  | layoutSelect (body : List Byte)
  /-- LAYOUT READ, code 54h (R156, R166). -/
  | layoutRead (body : List Byte)
  /-- STATUS, code 60h (R173). -/
  | status (body : List Byte)
  /-- CLEAR FLAGS, code 61h (R172). -/
  | clearFlags (body : List Byte)
  /-- ENABLE FLAGS, code 62h (R172). -/
  | enableFlags (body : List Byte)
  /-- A complete good frame whose code is in no row of R164 (R162). -/
  | unknownCode (code : Byte) (body : List Byte)
  /-- A complete frame whose check disagrees (R160). -/
  | frameBadCheck
  /-- More than 20 ms between two bytes of a frame, by the yard clock; `next` is the byte that ends the gap (R160). -/
  | interByteGap (next : Byte)
  /-- A complete good frame while a request is in hand (R163). -/
  | requestHeld (code : Byte) (body : List Byte)
  /-- The last byte of the answer in hand has been sent (R163). -/
  | answerSent
  /-- Power-on (R153). -/
  | powerOn
  /-- The reset line (R153). -/
  | resetLine
  /-- One axle passes the crest wheel detector (R49). -/
  | axlePulse
  /-- The separation timer runs out (R59, R60). -/
  | separation
  /-- The input of a channel goes from clear to occupied (R85 to R89, R2). -/
  | sectionOccupied (channel : Nat)
  /-- The input of a channel goes from occupied to clear (R90 to R93, R2). -/
  | sectionClear (channel : Nat)
  /-- The proving timer of a section runs out (R94). -/
  | provingTimerExpiry (sec : Nat)
  /-- The stall deadline of a cut passes (R98). -/
  | stallDeadlineExpiry (cut : Nat)
  /-- The stand timer of a stalled cut runs out (R104). -/
  | standTimerExpiry (cut : Nat)
  /-- The last-moment timer of a cut runs out (R124, R130). -/
  | lastMomentExpiry (cut : Nat)
  /-- One input of a detection pair goes on or off (R134). -/
  | detectionChange (pair : Nat) (input : Position) (on : Bool)
  /-- The throw limit timer of a point runs out (R138, R141). -/
  | throwLimitExpiry (point : Nat)
  /-- The settle timer of a point runs out (R139). -/
  | settleTimerExpiry (point : Nat)
  /-- The idle timer of a point runs out (R108). -/
  | idleTimerExpiry (point : Nat)
  /-- Programming of a slot completes; `readsBack` says whether the slot reads back as it was programmed (R157). -/
  | commitComplete (readsBack : Bool)
  /-- The commit timer runs out (R157). -/
  | commitTimerExpiry
  /-- A byte with a good stop bit reaches the hunting receiver: A5h starts a frame (R160). -/
  | startByte (byte : Byte)
  /-- The length byte of a frame arrives, 0 or above 250 (R160). -/
  | badLengthByte (byte : Byte)
  /-- A byte arrives with a bad stop bit (R160). -/
  | badStopBit
  deriving DecidableEq, Repr

end Sys2Proof
end

