-- ==== Sys2Proof/WellFormed.lean ====
section
/-! DEFINITION. Which commands can arrive: a body fits a frame, a byte is the one its row is about, a number names something the board has. -/

namespace Sys2Proof

/-- The request codes of R164. -/
def requestCodes : List Byte :=
  [0x10#8, 0x11#8, 0x12#8, 0x13#8, 0x14#8, 0x15#8, 0x16#8, 0x20#8, 0x21#8, 0x28#8, 0x30#8, 0x31#8, 0x32#8, 0x33#8, 0x40#8, 0x41#8,
   0x50#8, 0x51#8, 0x52#8, 0x53#8, 0x54#8, 0x60#8, 0x61#8, 0x62#8]

/-- A frame's length byte counts the code and the body and is at most 250 (R160). -/
def bodyFits (body : List Byte) : Bool := body.length ≤ 249

/-- Numbers of sections and channels (00_scope, Numbering). -/
def channelNumber (n : Nat) : Bool := 1 ≤ n && n ≤ 128
/-- Numbers of points (00_scope, Numbering). -/
def pointNumber (n : Nat) : Bool := 1 ≤ n && n ≤ 63
/-- Numbers of detection pairs (00_scope, Numbering). -/
def pairNumber (n : Nat) : Bool := 1 ≤ n && n ≤ 64
/-- Numbers of cuts (00_scope, Numbering). -/
def cutNumber (n : Nat) : Bool := 1 ≤ n && n ≤ 65535

/-- Whether a command is one that can arrive at the board. -/
def Instr.wf : Instr → Bool
  | .enter b | .amend b | .withdraw b | .query b | .list b | .collect b | .abandon b => bodyFits b
  | .trackSet b | .trackRead b | .sectionRead b => bodyFits b
  | .pointMode b | .pointThrow b | .pointReset b | .pointRead b => bodyFits b
  | .run b | .warmReset b => bodyFits b
  | .layoutLoad b | .layoutWrite b | .layoutCommit b | .layoutSelect b | .layoutRead b => bodyFits b
  | .status b | .clearFlags b | .enableFlags b => bodyFits b
  | .unknownCode c b => !requestCodes.contains c && bodyFits b
  | .requestHeld _ b => bodyFits b
  | .frameBadCheck | .interByteGap _ | .answerSent | .powerOn | .resetLine | .axlePulse | .separation => true
  | .sectionOccupied c | .sectionClear c => channelNumber c
  | .provingTimerExpiry x => channelNumber x
  | .stallDeadlineExpiry n | .standTimerExpiry n | .lastMomentExpiry n => cutNumber n
  | .detectionChange d _ _ => pairNumber d
  | .throwLimitExpiry p | .settleTimerExpiry p | .idleTimerExpiry p => pointNumber p
  | .commitComplete _ | .commitTimerExpiry | .badStopBit => true
  | .startByte b => b == 0xA5#8
  | .badLengthByte b => b == 0#8 || 250 < b.toNat

end Sys2Proof
end

