-- ==== Sys2Proof/Decode.lean ====
section
/-! DEFINITION. The commands that words of spec/opcode_table.json spell: none, since no row of the table gives bits. -/

namespace Sys2Proof

/-- No row of the table gives its command any bits, so no word spells a command. How a frame's bytes name a request is
`Sys2Proof.Machine.serveFrame`, from R162 and R164. -/
def decodeTableWord (_nbits _w : Nat) : Option Instr := none

end Sys2Proof
end

