-- ==== Sys2Proof/Machine/State.lean ====
section
/-! DEFINITION. Everything the spec says the board holds, as plain data, and its value after power-on (R153). -/

namespace Sys2Proof.Machine

/-- R148. -/
inductive RunState where
  | halted
  | standby
  | running
  deriving DecidableEq, Repr

/-- The seven states of a record (R27). -/
inductive CutState where
  | pending
  | releasing
  | rolling
  | stalled
  | joined
  | settled
  | lost
  deriving DecidableEq, Repr

/-- How a record came into the table (R23); a remnant carries its parent's number. -/
inductive Origin where
  | listed
  | noList
  | standbyRelease
  | remnant (parent : Nat)
  deriving DecidableEq, Repr

/-- Why the assigned track was chosen (R23). -/
inductive AssignReason where
  | requested
  | alternate
  | defaultFull
  | defaultNoTrack
  | defaultJoin
  | defaultUnlisted
  | diverted
  deriving DecidableEq, Repr

/-- An assigned track with its reason: the two are present together (R23). -/
structure Assignment where
  track : Nat
  reason : AssignReason
  deriving DecidableEq, Repr

/-- Why a cut was sent off its plan at a point (R32). -/
inductive DivertReason where
  | catchup
  | blocked
  | manual
  | pointFault
  | tooLate
  | misroute
  deriving DecidableEq, Repr

/-- One entry of a diversion list (R32). -/
structure Diversion where
  point : Nat
  reason : DivertReason
  deriving DecidableEq, Repr

/-- Why the board lost a cut (R23). -/
inductive LostReason where
  | unproven
  | abandoned
  | halted
  | overcrowded
  | overload
  | noDetection
  | leaderLost
  deriving DecidableEq, Repr

/-- The nine marks of R31. -/
inductive Mark where
  | short
  | overcount
  | speedClamped
  | lateSettle
  | movingPoint
  | foul
  | closedUp
  | misroute
  | overfill
  deriving DecidableEq, Repr

/-- A record's joined list (R23, R29): a leader's followers in joining order, or a follower's leader. -/
inductive JoinedList where
  | leader (followers : List Nat)
  | follower (leader : Nat)
  deriving DecidableEq, Repr

/-- The last-moment timer of R115. -/
inductive LastMomentTimer where
  | stopped
  | running (expiry : Instant)
  | suspended
  deriving DecidableEq, Repr

/-- The stand timer of a STALLED cut (R104). -/
inductive StandTimer where
  | stopped
  | running (expiry : Instant)
  | ranOut
  deriving DecidableEq, Repr

/-- A cut record: the fields of R23, then what other blocks hold for the cut and the image does not show. -/
structure Record where
  number : Nat
  state : CutState
  origin : Origin
  /-- none is OPEN -/
  requested : Option Nat
  assigned : Option Assignment
  declaredLength : Nat
  declaredAxles : Option Nat
  measuredAxles : Nat
  releaseSeq : Option (BitVec 16)
  head : Option Nat
  tail : Option Nat
  headEntry : Option Instant
  speed : Option Nat
  watch : Option Nat
  lastMoment : Option Instant
  stallDeadline : Option Instant
  diversions : List Diversion
  more : Bool
  joined : Option JoinedList
  /-- bits 0..8 in the order of R165 -/
  marks : BitVec 9
  outcome : Option Nat
  lostReason : Option LostReason
  unseen : Bool
  /-- the timed marker of the head entry time (R83) -/
  timed : Bool
  /-- R52; used until the first head entry -/
  firstAxle : Instant
  standTimer : StandTimer
  timer : LastMomentTimer
  /-- R115 -/
  unplannedBelow : Option Nat
  deriving DecidableEq, Repr

/-- R48. -/
inductive CrestState where
  | idle
  | counting
  deriving DecidableEq, Repr

/-- R66. -/
inductive TrackSetting where
  | opened
  | closed
  deriving DecidableEq, Repr

/-- What the Track Table holds for a track (R66); `committed` is the exact running total of R69. -/
structure TrackEntry where
  fill : Nat
  committed : Nat
  setting : TrackSetting
  deriving DecidableEq, Repr

/-- A track entry after power-on (R66). -/
def TrackEntry.initial : TrackEntry := { fill := 0, committed := 0, setting := .closed }

/-- What the Occupancy Tracker holds for a section beside its input (R82). -/
structure SectionEntry where
  /-- front first -/
  occupants : List Nat
  unexplained : Bool
  unproven : Bool
  proving : Option Instant
  deriving DecidableEq, Repr

/-- A section entry after power-on (R84). -/
def SectionEntry.initial : SectionEntry := { occupants := [], unexplained := false, unproven := false, proving := none }

/-- One claim of a claim queue (R114). -/
structure Claim where
  cut : Nat
  position : Position
  spent : Bool
  deriving DecidableEq, Repr

/-- The states of a point (R133). -/
inductive PointState where
  | unsupervised
  | atRest
  | throwing
  | settling
  | fault
  deriving DecidableEq, Repr

/-- R133. -/
inductive PointMode where
  | auto
  | manual
  deriving DecidableEq, Repr

/-- What the Point Drivers hold for a point (R133). The state SET is `atRest`. -/
structure PointEntry where
  state : PointState
  mode : PointMode
  target : Option Position
  drive : Option Position
  throwLimit : Option Instant
  settleTimer : Option Instant
  lastSettled : Instant
  idleTimer : Option Instant
  /-- the idle timer has run out since the last-settled time was set (R108) -/
  stood : Bool
  deriving DecidableEq, Repr

/-- A point entry after power-on (R133). -/
def PointEntry.initial : PointEntry :=
  { state := .unsupervised, mode := .auto, target := none, drive := none, throwLimit := none, settleTimer := none, lastSettled := 0
    idleTimer := none, stood := false }

/-- The two inputs of a detection pair (R5). -/
structure DetectionPair where
  normal : Bool
  reverse : Bool
  deriving DecidableEq, Repr

/-- A detection pair with neither input on. -/
def DetectionPair.off : DetectionPair := { normal := false, reverse := false }

/-- A section's path: the sections from section 1 down to it (R19). -/
structure SectionWay where
  sec : Nat
  path : List Nat
  deriving DecidableEq, Repr

/-- A track's path and route (R19). -/
structure TrackWay where
  track : Nat
  path : List Nat
  route : List (Nat × Position)
  deriving DecidableEq, Repr

/-- What the board derives from a layout that has passed its checks (R19, R20). -/
structure Tree where
  sections : List SectionWay
  tracks : List TrackWay
  deriving DecidableEq, Repr

/-- What a layout slot holds when it has been programmed: the header and the image (R155). -/
structure SlotContents where
  name : List Byte
  generation : BitVec 16
  length : Nat
  check : BitVec 16
  image : Table Byte
  deriving DecidableEq, Repr

/-- The commit under way while the store is COMMITTING (R157). -/
structure Commit where
  slot : Nat
  contents : SlotContents
  timer : Instant
  deriving DecidableEq, Repr

/-- R155. -/
inductive CommitResult where
  | none
  | done (slot : Nat)
  | failed (slot : Nat)
  deriving DecidableEq, Repr

/-- The link receiver (R160); the bytes of the partial frame stand in the order they came, start byte first, and `arrived` is the instant at which
the last of them came. -/
inductive Receiver where
  | hunting
  | collecting (bytes : List Byte) (arrived : Instant)
  deriving DecidableEq, Repr

/-- The answer being sent for the request in hand (R162, R163): its code, and its body, outcome byte first. -/
structure Answer where
  code : Byte
  body : List Byte
  deriving DecidableEq, Repr

/-- The board. -/
structure State where
  /-- the commands waiting, first in first out (the model's own field) -/
  pending : List Instr
  /- Link Interface -/
  receiver : Receiver
  inHand : Option Answer
  held : Option Byte
  /- Cut Table -/
  records : List Record
  queue : List Nat
  seqCounter : BitVec 16
  unlistedCounter : Nat
  /- Crest Counter -/
  crest : CrestState
  crestCut : Option Nat
  target : Option Nat
  separation : Option Instant
  remnantDue : Option Nat
  /- Track Table -/
  tracks : Table TrackEntry
  /- Occupancy Tracker: the channels that are occupied, and the section entries -/
  channels : Table Bool
  sections : Table SectionEntry
  /- Point Arbiter -/
  claims : Table (List Claim)
  /- Point Drivers -/
  detections : Table DetectionPair
  points : Table PointEntry
  /- Run Control -/
  runState : RunState
  clock : Instant
  inTree : Nat
  humpPermit : Bool
  tree : Tree
  /- Layout Store -/
  active : Option (Table Byte)
  activeGeneration : Option (BitVec 16)
  working : Table Byte
  slots : Table (Option SlotContents)
  activeSlot : Nat
  commit : Option Commit
  lastCommit : CommitResult
  /- Attention Unit -/
  flags : BitVec 11
  enables : BitVec 11
  attentionLine : Bool
  deriving DecidableEq, Repr

/-- Why a step stops. -/
inductive Fault where
  /-- Raised by SECTION_OCCUPIED and SECTION_CLEAR for a channel outside 1..128: the board has no such input. Safe. -/
  | noSuchChannel (channel : Nat)
  /-- Raised by DETECTION_CHANGE for a pair outside 1..64: the board has no such inputs. Safe. -/
  | noSuchDetectionPair (pair : Nat)
  deriving DecidableEq, Repr

/-- Why a command has no meaning. -/
inductive Refusal where
  /-- Raised by exec for a command without a meaning yet. No command of this model raises it. Safe. -/
  | notModelled (mnemonic : String)
  deriving DecidableEq, Repr

/-- The board after power-on (R153) when no slot was ever written (log 3) and no field input is on (log 4). -/
def State.reset : State :=
  { pending := []
    receiver := .hunting, inHand := none, held := none
    records := [], queue := [], seqCounter := 0, unlistedCounter := Config.firstUnlisted
    crest := .idle, crestCut := none, target := none, separation := none, remnantDue := none
    tracks := []
    channels := [], sections := []
    claims := []
    detections := [], points := []
    runState := .halted, clock := 0, inTree := 0, humpPermit := false, tree := { sections := [], tracks := [] }
    active := none, activeGeneration := none, working := [], slots := [], activeSlot := 0, commit := none, lastCommit := .none
    flags := 0, enables := 2047, attentionLine := false }

end Sys2Proof.Machine
end

