-- ==== Sys2Proof/Machine/Memory.lean ====
section
/-! DEFINITION. The keyed tables in their canonical form, big-endian bytes (R165), and the link check (R161). -/

namespace Sys2Proof.Machine

/-- The entry of number `k`; `d` is what an unlisted number reads as. -/
def Table.read {α : Type} (d : α) : Table α → Nat → α
  | [], _ => d
  | (j, v) :: t, k => if j = k then v else Table.read d t k

/-- Put a cell in front of the first larger number. -/
def Table.insert {α : Type} (k : Nat) (v : α) : Table α → Table α
  | [] => [(k, v)]
  | (j, w) :: t => if k < j then (k, v) :: (j, w) :: t else (j, w) :: Table.insert k v t

/-- Give number `k` the entry `v`; an entry that an unlisted number reads as is not listed. -/
def Table.write {α : Type} [DecidableEq α] (d : α) (t : Table α) (k : Nat) (v : α) : Table α :=
  let others := t.filter (fun c => c.1 != k)
  if v = d then others else Table.insert k v others

/-- Change every listed entry; `f` keeps what an unlisted number reads as. -/
def Table.update {α : Type} [DecidableEq α] (d : α) (f : α → α) (t : Table α) : Table α :=
  (t.map (fun c => (c.1, f c.2))).filter (fun c => c.2 != d)

/-- The numbers rise strictly. -/
def Table.rising {α : Type} : Table α → Bool
  | [] => true
  | c :: t => t.all (fun e => c.1 < e.1) && Table.rising t

/-- The canonical form: rising numbers, and no entry equal to what an unlisted number reads as. -/
def Table.wf {α : Type} [DecidableEq α] (d : α) (t : Table α) : Bool :=
  Table.rising t && t.all (fun c => c.2 != d)

/-- A layout image, whose unlisted bytes are 0 (R153: a working copy with no layout is all zero bytes). -/
abbrev Image := Table Byte

/-- One byte of an image. -/
def Image.byte (m : Image) (a : Nat) : Byte := Table.read 0#8 m a

/-- Write consecutive bytes from address `a` on. -/
def Image.writeBytes (m : Image) (a : Nat) : List Byte → Image
  | [] => m
  | b :: bs => Image.writeBytes (Table.write 0#8 m a b) (a + 1) bs

/-- `n` consecutive bytes from address `a` on. -/
def Image.readBytes (m : Image) (a n : Nat) : List Byte := (List.range' a n).map (Image.byte m)

/-- A one-byte field as a number. -/
def Image.num (m : Image) (a : Nat) : Nat := (Image.byte m a).toNat

/-- A two-byte field as a number, high byte first (R165, R169). -/
def Image.num2 (m : Image) (a : Nat) : Nat := Image.num m a * 256 + Image.num m (a + 1)

/-- One byte of a body. -/
def byte1 (n : Nat) : List Byte := [BitVec.ofNat 8 n]
/-- Two bytes of a body, high byte first (R165). -/
def byte2 (n : Nat) : List Byte := [BitVec.ofNat 8 (n / 256), BitVec.ofNat 8 n]
/-- An instant in a body: four bytes, high byte first (R165). -/
def byte4 (x : Instant) : List Byte := byte2 (x.toNat / 65536) ++ byte2 (x.toNat % 65536)
/-- A switch in a body (R165). -/
def byteBool (b : Bool) : List Byte := [if b then 1#8 else 0#8]
/-- A number that may be absent: 0 stands for it (R165). -/
def byteOpt (n : Option Nat) : List Byte := byte1 (n.getD 0)
/-- The two-byte number that two bytes of a body stand for (R165). -/
def numOf2 (hi lo : Byte) : Nat := hi.toNat * 256 + lo.toNat

/-- One bit of the check: x^16 + x^12 + x^5 + 1, most significant bit first (R161). -/
def crcBit (crc : BitVec 16) (bit : Bool) : BitVec 16 :=
  if crc.msb != bit then (crc <<< 1) ^^^ 0x1021#16 else crc <<< 1

/-- One byte of the check, most significant bit first (R161). -/
def crcByte (crc : BitVec 16) (b : Byte) : BitVec 16 :=
  [7, 6, 5, 4, 3, 2, 1, 0].foldl (fun c i => crcBit c (b.getLsbD i)) crc

/-- The 16-bit check over some bytes, with its initial value FFFFh (R161). -/
def crc (bytes : List Byte) : BitVec 16 := bytes.foldl crcByte 0xFFFF#16

/-- The check of the first `n` bytes of an image (R155, R161). -/
def Image.check (m : Image) (n : Nat) : BitVec 16 := crc (Image.readBytes m 0 n)

/-- The header check of a slot (R155); a slot never written or erased holds nothing that could pass it. -/
def headerCheck : Option SlotContents → Bool
  | none => false
  | some c => c.length == Config.imageLength && c.check == Image.check c.image c.length

/-- A is after B: A − B modulo 2^32, read as a signed number, is above 0 (00_scope, R103). -/
def after (a b : Instant) : Bool := 0 < (a - b).toInt

/-- A timer set to `at` has run out at `now`: the clock has reached the instant (R103). -/
def due (now timer : Instant) : Bool := !after timer now

/-- `now` plus a duration in milliseconds, modulo 2^32. -/
def later (now : Instant) (ms : Nat) : Instant := now + BitVec.ofNat 32 ms

end Sys2Proof.Machine
end

