-- ==== Sys2Proof/Machine/Layout.lean ====
section
/-! DEFINITION. The layout image read as sections, points, tracks and settings (R1 to R9, R169), the walk and the layout checks
(R10 to R18), and the relations drawn from the tree (R19, R20). An entry not in use stands for nothing; a board with no active layout reads
as a layout with nothing in use. -/

namespace Sys2Proof.Machine

/-- The numbers of sections, points and tracks (00_scope, Numbering). -/
def sectionNumbers : List Nat := List.range' 1 128
def pointNumbers : List Nat := List.range' 1 63
def trackNumbers : List Nat := List.range' 1 64

/-- How a cut leaves a section (R2). -/
inductive Link where
  | next (sec : Nat)
  | switch (point : Nat)
  deriving DecidableEq, Repr

/-- Where a branch leads (R3). -/
inductive Target where
  | sec (x : Nat)
  | track (t : Nat)
  deriving DecidableEq, Repr

/-- The other position. -/
def otherPosition : Position → Position
  | .normal => .reverse
  | .reverse => .normal

/-! ### Entries (R169) -/

def sectionBase (x : Nat) : Nat := (x - 1) * 6
def pointBase (p : Nat) : Nat := 768 + (p - 1) * 14
def trackBase (t : Nat) : Nat := 1650 + (t - 1) * 6
def settingsBase : Nat := 2034
def leadBase : Nat := 2054

/-- The section is in use; any in-use byte but 0 counts (R169). -/
def sectionUsed (m : Image) (x : Nat) : Bool := 1 ≤ x && x ≤ 128 && Image.num m (sectionBase x) != 0
def sectionLength (m : Image) (x : Nat) : Nat := Image.num2 m (sectionBase x + 1)
def sectionChannel (m : Image) (x : Nat) : Nat := Image.num m (sectionBase x + 3)
/-- A link kind other than 1 or 2 is read as naming a section outside 1..128 (R169). -/
def sectionLink (m : Image) (x : Nat) : Link :=
  match Image.num m (sectionBase x + 4) with
  | 1 => .next (Image.num m (sectionBase x + 5))
  | 2 => .switch (Image.num m (sectionBase x + 5))
  | _ => .next 0

def pointUsed (m : Image) (p : Nat) : Bool := 1 ≤ p && p ≤ 63 && Image.num m (pointBase p) != 0
def switchSection (m : Image) (p : Nat) : Nat := Image.num m (pointBase p + 1)
/-- The address of a branch's kind, target and fallback (R169). -/
def branchBase (p : Nat) : Position → Nat
  | .normal => pointBase p + 2
  | .reverse => pointBase p + 5
/-- A branch kind other than 1 or 2 is read as naming a section outside 1..128 (R169). -/
def branchTarget (m : Image) (p : Nat) (b : Position) : Target :=
  match Image.num m (branchBase p b) with
  | 1 => .sec (Image.num m (branchBase p b + 1))
  | 2 => .track (Image.num m (branchBase p b + 1))
  | _ => .sec 0
def fallbackField (m : Image) (p : Nat) (b : Position) : Nat := Image.num m (branchBase p b + 2)
/-- The branch fallback track: the track itself for a branch that names one (R4). -/
def fallbackTrack (m : Image) (p : Nat) (b : Position) : Nat :=
  match branchTarget m p b with
  | .track t => t
  | .sec _ => fallbackField m p b
def throwBudget (m : Image) (p : Nat) : Nat := Image.num2 m (pointBase p + 8)
def coldBudget (m : Image) (p : Nat) : Nat := Image.num2 m (pointBase p + 10)
def drivePair (m : Image) (p : Nat) : Nat := Image.num m (pointBase p + 12)
def detectionPair (m : Image) (p : Nat) : Nat := Image.num m (pointBase p + 13)

def trackUsed (m : Image) (t : Nat) : Bool := 1 ≤ t && t ≤ 64 && Image.num m (trackBase t) != 0
/-- Capacity, near margin and alternate of a track not in use are absent and read 0 (R80, R168). -/
def capacity (m : Image) (t : Nat) : Nat := if trackUsed m t then Image.num2 m (trackBase t + 1) else 0
def nearMargin (m : Image) (t : Nat) : Nat := if trackUsed m t then Image.num2 m (trackBase t + 3) else 0
/-- 0 is none (R169). -/
def alternateTrack (m : Image) (t : Nat) : Nat := if trackUsed m t then Image.num m (trackBase t + 5) else 0

/-! ### Global settings (R7, R8, R169) -/

def defaultTrack (m : Image) : Nat := Image.num m settingsBase
def releaseSpeed (m : Image) : Nat := Image.num2 m (settingsBase + 1)
def couplingAllowance (m : Image) : Nat := Image.num m (settingsBase + 3)
def separationGap (m : Image) : Nat := Image.num2 m (settingsBase + 4)
def permitLimit (m : Image) : Nat := Image.num m (settingsBase + 6)
def stallMinimum (m : Image) : Nat := Image.num2 m (settingsBase + 7)
def provingInterval (m : Image) : Nat := Image.num2 m (settingsBase + 9)
/-- In seconds; 0 is off. -/
def coldIdle (m : Image) : Nat := Image.num2 m (settingsBase + 11)
def settleTime (m : Image) : Nat := Image.num2 m (settingsBase + 13)
/-- 1 LEADER, 2 REHUMP. -/
def joinPolicy (m : Image) : Nat := Image.num m (settingsBase + 15)
def unlistedLength (m : Image) : Nat := Image.num2 m (settingsBase + 16)
def crestOffset (m : Image) : Nat := Image.num2 m (settingsBase + 18)
/-- The lead margin, in milliseconds, at a speed (R8). -/
def leadMargin (m : Image) (speed : Nat) : Nat := Image.num m (leadBase + (speed - 10) / 50) * 10

/-! ### What names what -/

/-- The section in use that names a channel. -/
def sectionOfChannel (m : Image) (c : Nat) : Option Nat :=
  sectionNumbers.find? (fun x => sectionUsed m x && sectionChannel m x == c)
/-- The point in use that names a detection pair. -/
def pointOfPair (m : Image) (d : Nat) : Option Nat :=
  pointNumbers.find? (fun p => pointUsed m p && detectionPair m p == d)
/-- The point whose switch section a section in use is (R2). -/
def pointOfSection (m : Image) (x : Nat) : Option Nat :=
  if sectionUsed m x then
    match sectionLink m x with
    | .switch p => if pointUsed m p then some p else none
    | .next _ => none
  else none
/-- The branch of a point that names a section. -/
def branchTo (m : Image) (p x : Nat) : Option Position :=
  if branchTarget m p .normal = .sec x then some .normal
  else if branchTarget m p .reverse = .sec x then some .reverse
  else none

/-! ### The walk (R11) -/

/-- A section the walk is about to arrive at, with its path from section 1 and the route along it. -/
structure Arrival where
  sec : Nat
  path : List Nat
  route : List (Nat × Position)
  deriving DecidableEq, Repr

/-- What the walk has found: the sections arrived at, each time; the sections it went on from; the branches it followed; the tracks it
arrived at, each time. -/
structure Walk where
  arrivals : List Nat
  sections : List SectionWay
  branches : List (Nat × Position)
  tracks : List TrackWay
  deriving DecidableEq, Repr

/-- Follow one branch: on to a section, or to the end at a track. -/
def followBranch (m : Image) (p : Nat) (b : Position) (path : List Nat) (route : List (Nat × Position)) :
    List Arrival × List TrackWay :=
  match branchTarget m p b with
  | .sec x => ([{ sec := x, path := path, route := route ++ [(p, b)] }], [])
  | .track t => ([], [{ track := t, path := path, route := route ++ [(p, b)] }])

/-- The walk from some arrivals on. It does not go on past a section already reached or a section that is not in use, nor through the
branches of a point that is out of range or not in use. -/
def walkFrom (m : Image) : Nat → List Arrival → Walk → Walk
  | 0, _, w => w
  | _ + 1, [], w => w
  | fuel + 1, a :: rest, w =>
    let w1 := { w with arrivals := w.arrivals ++ [a.sec] }
    if w.sections.any (fun e => e.sec == a.sec) || !sectionUsed m a.sec then walkFrom m fuel rest w1
    else
      let path := a.path ++ [a.sec]
      let w2 := { w1 with sections := w1.sections ++ [{ sec := a.sec, path := path }] }
      match sectionLink m a.sec with
      | .next x => walkFrom m fuel ({ sec := x, path := path, route := a.route } :: rest) w2
      | .switch p =>
        if !pointUsed m p then walkFrom m fuel rest w2
        else
          let n := followBranch m p .normal path a.route
          let r := followBranch m p .reverse path a.route
          walkFrom m fuel (n.1 ++ r.1 ++ rest)
            { w2 with branches := w2.branches ++ [(p, .normal), (p, .reverse)], tracks := w2.tracks ++ n.2 ++ r.2 }

/-- The whole walk: one arrival at section 1, and at most two more for each of the 128 sections it goes on from. -/
def walk (m : Image) : Walk :=
  walkFrom m 258 [{ sec := 1, path := [], route := [] }] { arrivals := [], sections := [], branches := [], tracks := [] }

/-! ### The relations (R19, R20) -/

/-- The relations derived from a layout that passes its checks. -/
def deriveTree (m : Image) : Tree := { sections := (walk m).sections, tracks := (walk m).tracks }

/-- The path of a section (R19); empty for a section the tree does not hold. -/
def Tree.sectionPath (g : Tree) (x : Nat) : List Nat :=
  match g.sections.find? (fun e => e.sec == x) with
  | some e => e.path
  | none => []
/-- The path of a track (R19). -/
def Tree.trackPath (g : Tree) (t : Nat) : List Nat :=
  match g.tracks.find? (fun e => e.track == t) with
  | some e => e.path
  | none => []
/-- The route of a track (R19). -/
def Tree.route (g : Tree) (t : Nat) : List (Nat × Position) :=
  match g.tracks.find? (fun e => e.track == t) with
  | some e => e.route
  | none => []
/-- The root point: the first pair of every route (R19). -/
def Tree.rootPoint (g : Tree) : Option Nat :=
  match g.tracks with
  | [] => none
  | e :: _ => e.route.head?.map Prod.fst
/-- The section upstream of a section; none is the crest (R20). -/
def Tree.upstream (g : Tree) (x : Nat) : Option Nat := (g.sectionPath x).dropLast.getLast?
/-- The last switch section of a track's route (R19). -/
def Tree.lastSwitch (g : Tree) (t : Nat) : Option Nat := (g.trackPath t).getLast?
/-- A track lies below a section (R20). -/
def Tree.trackBelow (g : Tree) (t x : Nat) : Bool := (g.trackPath t).contains x
/-- A section lies below a section, or is it (R20). -/
def Tree.sectionBelow (g : Tree) (y x : Nat) : Bool := (g.sectionPath y).contains x

/-! ### The checks -/

/-- The codes of R10, in their order. -/
inductive CheckCode where
  | tree
  | switch
  | track
  | fallback
  | channel
  | range
  | default
  | none
  deriving DecidableEq, Repr

/-- No number stands twice in a list. -/
def allDifferent (l : List Nat) : Bool := l.all (fun n => l.count n == 1)

/-- TREE (R12). -/
def treeFails (m : Image) (w : Walk) : Bool :=
  !sectionUsed m 1
    || w.arrivals.any (fun x => !sectionUsed m x)
    || (sectionNumbers.filter (sectionUsed m)).any (fun x => !w.arrivals.contains x)
    || !allDifferent w.arrivals

/-- SWITCH (R13). -/
def switchFails (m : Image) : Bool :=
  let points := pointNumbers.filter (pointUsed m)
  let sections := sectionNumbers.filter (sectionUsed m)
  let linked := sections.filterMap (fun x => match sectionLink m x with | .switch p => some p | .next _ => none)
  points.any (fun p => !sectionUsed m (switchSection m p) || sectionLink m (switchSection m p) != .switch p)
    || !allDifferent (points.map (switchSection m))
    || linked.any (fun p => !pointUsed m p)
    || !allDifferent linked

/-- TRACK (R14). -/
def trackFails (m : Image) (w : Walk) : Bool :=
  let reached := w.tracks.map TrackWay.track
  reached.any (fun t => !trackUsed m t)
    || (trackNumbers.filter (trackUsed m)).any (fun t => reached.count t != 1)

/-- FALLBACK (R15). -/
def fallbackFails (m : Image) (w : Walk) : Bool :=
  let tree : Tree := { sections := w.sections, tracks := w.tracks }
  w.branches.any (fun pb =>
    match branchTarget m pb.1 pb.2 with
    | .track _ => false
    | .sec x =>
      let f := fallbackField m pb.1 pb.2
      !trackUsed m f || !tree.trackBelow f x)

/-- CHANNEL (R16). -/
def channelFails (m : Image) : Bool :=
  let points := pointNumbers.filter (pointUsed m)
  !allDifferent ((sectionNumbers.filter (sectionUsed m)).map (sectionChannel m))
    || !allDifferent (points.map (drivePair m))
    || !allDifferent (points.map (detectionPair m))

/-- A value outside its range. -/
def outside (lo hi n : Nat) : Bool := n < lo || hi < n

/-- RANGE for a section entry in use (R2, R17, R169). -/
def sectionRangeFails (m : Image) (x : Nat) : Bool :=
  Image.num m (sectionBase x) != 1 || outside 10 2000 (sectionLength m x) || outside 1 128 (sectionChannel m x)

/-- RANGE for a point entry in use (R3, R17, R169). -/
def pointRangeFails (m : Image) (p : Nat) : Bool :=
  Image.num m (pointBase p) != 1 || outside 200 5000 (throwBudget m p) || outside (throwBudget m p) 8000 (coldBudget m p)
    || outside 1 64 (drivePair m p) || outside 1 64 (detectionPair m p)

/-- RANGE for a track entry in use (R6, R17, R169). -/
def trackRangeFails (m : Image) (t : Nat) : Bool :=
  Image.num m (trackBase t) != 1 || outside 100 20000 (capacity m t) || outside 0 5000 (nearMargin m t)
    || (alternateTrack m t != 0 && !trackUsed m (alternateTrack m t))

/-- RANGE for the global settings (R7, R17). A lead table entry is one byte and cannot be out of range (R8). -/
def settingsRangeFails (m : Image) : Bool :=
  outside 10 1500 (releaseSpeed m) || outside 0 30 (couplingAllowance m) || outside 200 5000 (separationGap m)
    || outside 4 16 (permitLimit m) || outside 2000 60000 (stallMinimum m) || outside 500 10000 (provingInterval m)
    || outside 0 3600 (coldIdle m) || outside 0 1000 (settleTime m) || outside 1 2 (joinPolicy m)
    || outside 50 4000 (unlistedLength m) || outside 0 500 (crestOffset m)

/-- RANGE (R17). -/
def rangeFails (m : Image) : Bool :=
  (sectionNumbers.filter (sectionUsed m)).any (sectionRangeFails m)
    || (pointNumbers.filter (pointUsed m)).any (pointRangeFails m)
    || (trackNumbers.filter (trackUsed m)).any (trackRangeFails m)
    || settingsRangeFails m

/-- DEFAULT (R18). -/
def defaultFails (m : Image) (w : Walk) : Bool :=
  !trackUsed m (defaultTrack m) || !(w.tracks.map TrackWay.track).contains (defaultTrack m)

/-- The checks of an image: the first code whose check fails (R10). -/
def imageCheck (m : Image) : Option CheckCode :=
  let w := walk m
  if treeFails m w then some .tree
  else if switchFails m then some .switch
  else if trackFails m w then some .track
  else if fallbackFails m w then some .fallback
  else if channelFails m then some .channel
  else if rangeFails m then some .range
  else if defaultFails m w then some .default
  else none

/-- The outcome of the layout checks; none is a pass (R10). -/
def layoutCheck : Option Image → Option CheckCode
  | none => some .none
  | some m => imageCheck m

end Sys2Proof.Machine
end

