-- ==== Sys2Proof/Machine/Flags.lean ====
section
/-! DEFINITION. The attention flags (R170, R171), the marks of a record (R31, R165), and their bits (R165). -/

namespace Sys2Proof.Machine

/-- The eleven causes (R170). -/
inductive Cause where
  | cutChanged
  | needsTrack
  | diverted
  | lost
  | stall
  | crest
  | pointFault
  | sectionCause
  | trackNear
  | run
  | store
  deriving DecidableEq, Repr

/-- The bit of a cause in the flags and the enables (R165). -/
def causeBit : Cause → BitVec 11
  | .cutChanged => 0x001
  | .needsTrack => 0x002
  | .diverted => 0x004
  | .lost => 0x008
  | .stall => 0x010
  | .crest => 0x020
  | .pointFault => 0x040
  | .sectionCause => 0x080
  | .trackNear => 0x100
  | .run => 0x200
  | .store => 0x400

/-- Latch the flag of a cause; one already set stays set (R170). -/
def latch (c : Cause) (s : State) : State := { s with flags := s.flags ||| causeBit c }

/-- A flag is latched. -/
def latched (c : Cause) (s : State) : Bool := s.flags &&& causeBit c != 0

/-- Latch the flag of a cause when a condition holds. -/
def latchIf (b : Bool) (c : Cause) (s : State) : State := if b then latch c s else s

/-- The attention line is asserted while some flag is both latched and enabled (R171). -/
def attentionCondition (s : State) : Bool := s.flags &&& s.enables != 0

/-- The bit of a mark (R165). -/
def markBit : Mark → BitVec 9
  | .short => 0x001
  | .overcount => 0x002
  | .speedClamped => 0x004
  | .lateSettle => 0x008
  | .movingPoint => 0x010
  | .foul => 0x020
  | .closedUp => 0x040
  | .misroute => 0x080
  | .overfill => 0x100

/-- A record carries a mark. -/
def hasMark (r : Record) (m : Mark) : Bool := r.marks &&& markBit m != 0

/-- Add a mark; one already present stays (R31). -/
def withMark (m : Mark) (r : Record) : Record := { r with marks := r.marks ||| markBit m }

end Sys2Proof.Machine
end

