-- ==== Sys2Proof/Machine/Ops.lean ====
section
/-! DEFINITION. The named operations over records, tracks, sections and points that every command's meaning uses. -/

namespace Sys2Proof.Machine

/-- The active layout; a board with none reads as one with nothing in use (R1, R18). -/
def State.layout (s : State) : Image := s.active.getD []

/-- The board is out of HALTED (R148). -/
def State.supervised (s : State) : Bool := s.runState != .halted

/-! ### Records (R21 to R33) -/

/-- The in-tree states (R27). -/
def CutState.inTree : CutState → Bool
  | .releasing | .rolling | .stalled => true
  | .pending | .joined | .settled | .lost => false

/-- The record that carries a cut number. -/
def State.record (s : State) (n : Nat) : Option Record := s.records.find? (fun r => r.number == n)

/-- The record is in a given state. -/
def State.isIn (s : State) (n : Nat) (c : CutState) : Bool :=
  match s.record n with
  | some r => r.state == c
  | none => false

/-- The record is in the tree. -/
def State.isInTree (s : State) (n : Nat) : Bool :=
  match s.record n with
  | some r => r.state.inTree
  | none => false

/-- What the record image shows of a record, its unseen mark apart (R33, R167): the fields it does not show are blanked. -/
def Record.shown (r : Record) : Record :=
  { r with
    unseen := false, timed := false, firstAxle := 0, standTimer := .stopped, timer := .stopped, unplannedBelow := none }

/-- The record after a change: its unseen mark is set when a shown field is altered (R33). -/
def Record.changed (f : Record → Record) (r : Record) : Record :=
  if (f r).shown = r.shown then f r else { f r with unseen := true }

/-- The Cut Table changes a record at a block's request; CUT_CHANGED latches when a shown field is altered (R33). -/
def changeRecord (n : Nat) (f : Record → Record) (s : State) : State :=
  latchIf (s.records.any (fun r => r.number == n && decide ((f r).shown ≠ r.shown))) .cutChanged
    { s with records := s.records.map (fun r => if r.number = n then Record.changed f r else r) }

/-- A new record comes into a slot; its creation is a change (R21, R33). -/
def addRecord (r : Record) (s : State) : State :=
  latch .cutChanged { s with records := s.records ++ [{ r with unseen := true }] }

/-- The slot of a record becomes FREE (R21). -/
def freeRecord (n : Nat) (s : State) : State := { s with records := s.records.filter (fun r => r.number != n) }

/-- The count of FREE slots (R21). -/
def State.freeSlots (s : State) : Nat := Config.cutSlots - s.records.length

/-- The place of a cut in the humping queue, from 1 at its head; 0 when it is not there (R38, R44). -/
def queuePlace (n : Nat) : List Nat → Nat
  | [] => 0
  | m :: q => if m = n then 1 else match queuePlace n q with
    | 0 => 0
    | k + 1 => k + 2

/-- Put a cut in the humping queue directly in front of another (R38). -/
def queueBefore (n x : Nat) : List Nat → List Nat
  | [] => [n]
  | m :: q => if m = x then n :: m :: q else m :: queueBefore n x q

/-- A record's age (R26). -/
def State.age (s : State) (n : Nat) : Nat :=
  match s.record n with
  | some r => (s.seqCounter - r.releaseSeq.getD 0).toNat
  | none => 0

/-- One cut is earlier than another: the larger age, then the smaller number (R26). -/
def State.earlier (s : State) (a b : Nat) : Bool := s.age b < s.age a || (s.age a == s.age b && a < b)

/-- Put a cut at its place by release sequence, earliest first (R26). -/
def insertCut (s : State) (n : Nat) : List Nat → List Nat
  | [] => [n]
  | m :: l => if s.earlier n m then n :: m :: l else m :: insertCut s n l

/-- Cut numbers in release-sequence order, earliest first (R26, R45). -/
def sortCuts (s : State) (l : List Nat) : List Nat := l.foldl (fun acc n => insertCut s n acc) []

/-- Add a mark to a record (R31). -/
def addMark (m : Mark) (n : Nat) (s : State) : State := changeRecord n (withMark m) s

/-- Add a mark when a condition holds. -/
def addMarkIf (b : Bool) (m : Mark) (n : Nat) (s : State) : State := if b then addMark m n s else s

/-- A diversion entry at the back of a record's list, or the "more" mark when it holds 4 (R32). -/
def withDiversion (p : Nat) (why : DivertReason) (r : Record) : Record :=
  if r.diversions.length < Config.maxDiversions then { r with diversions := r.diversions ++ [{ point := p, reason := why }] }
  else { r with more := true }

/-- Add a diversion entry to a record (R32). -/
def addDiversion (p : Nat) (why : DivertReason) (n : Nat) (s : State) : State := changeRecord n (withDiversion p why) s

/-- A MISROUTE mark and its diversion entry (R87, R91, R92). -/
def addMisroute (p : Nat) (why : DivertReason) (n : Nat) (s : State) : State := addDiversion p why n (addMark .misroute n s)

/-- The followers named by a joined list (R29). -/
def Record.followers (r : Record) : List Nat :=
  match r.joined with
  | some (.leader l) => l
  | _ => []

/-- The followers of a cut that are still JOINED (R30). -/
def State.joinedFollowers (s : State) (n : Nat) : List Nat :=
  match s.record n with
  | some r => r.followers.filter (fun m => s.isIn m .joined)
  | none => []

/-- Change each of some records. -/
def changeRecords (l : List Nat) (f : Record → Record) (s : State) : State := l.foldl (fun s n => changeRecord n f s) s

/-- The effective length of one record (R24). -/
def State.effective (s : State) (n : Nat) : Nat :=
  match s.record n with
  | some r => r.declaredLength + couplingAllowance s.layout
  | none => 0

/-- The effective length of the group a cut leads (R24). -/
def State.groupLength (s : State) (n : Nat) : Nat :=
  ((n :: s.joinedFollowers n).map s.effective).sum

/-- The assigned track of a cut. -/
def State.assignedTrack (s : State) (n : Nat) : Option Nat := (s.record n).bind (fun r => r.assigned.map Assignment.track)

/-- A record that leaves the in-tree states drops what it had for being in the tree (R28, R83, R115). -/
def Record.left (r : Record) : Record :=
  { r with
    head := none, tail := none, headEntry := none, watch := none, lastMoment := none, stallDeadline := none
    timed := false, firstAxle := 0, standTimer := .stopped, timer := .stopped, unplannedBelow := none }

/-! ### Tracks (R66 to R72, R76 to R78) -/

def State.track (s : State) (t : Nat) : TrackEntry := Table.read TrackEntry.initial s.tracks t

/-- The committed length shown and used: the running total, capped (R69). -/
def State.committedLength (s : State) (t : Nat) : Nat := min (s.track t).committed 65535

/-- The free length of a track (R67). -/
def State.freeLength (s : State) (t : Nat) : Nat := capacity s.layout t - (s.track t).fill - s.committedLength t

/-- R66. -/
inductive TrackCondition where
  | opened
  | near
  | closed
  deriving DecidableEq, Repr

/-- The condition of a track (R67). -/
def State.trackCondition (s : State) (t : Nat) : TrackCondition :=
  if (s.track t).setting = .closed ∨ trackUsed s.layout t = false then .closed
  else if s.freeLength t < nearMargin s.layout t then .near
  else .opened

/-- A track can take a length (R68). -/
def State.canTake (s : State) (t len : Nat) : Bool := s.trackCondition t != .closed && decide (len ≤ s.freeLength t)

/-- Change a track entry and reckon its condition again; TRACK_NEAR latches for a passage from OPEN to NEAR (R67). -/
def changeTrack (t : Nat) (f : TrackEntry → TrackEntry) (s : State) : State :=
  let s' := { s with tracks := Table.write TrackEntry.initial s.tracks t (f (s.track t)) }
  latchIf (s.trackCondition t == .opened && s'.trackCondition t == .near) .trackNear s'

/-- Commit a length to a track (R69). -/
def commitLength (t len : Nat) (s : State) : State := changeTrack t (fun e => { e with committed := e.committed + len }) s

/-- Take a length off a track's committed length (R69, R78). -/
def releaseLength (t len : Nat) (s : State) : State := changeTrack t (fun e => { e with committed := e.committed - len }) s

/-- Take a group's length off its assigned track, if it has one (R78). -/
def releaseFrom (t : Option Nat) (len : Nat) (s : State) : State :=
  match t with
  | some t => releaseLength t len s
  | none => s

/-- A settled group's length leaves the committed length of its assigned track and joins the fill of its outcome track (R77). -/
def settleLength (assigned : Option Nat) (outcome len : Nat) (s : State) : State :=
  if assigned = some outcome then
    changeTrack outcome (fun e => { e with committed := e.committed - len, fill := min (e.fill + len) 65535 }) s
  else
    changeTrack outcome (fun e => { e with fill := min (e.fill + len) 65535 }) (releaseFrom assigned len s)

/-- Set the track and reason of a cut and of each JOINED follower (R29). -/
def setAssignment (n : Nat) (a : Assignment) (s : State) : State :=
  changeRecords (n :: s.joinedFollowers n) (fun r => { r with assigned := some a }) s

/-- Assign a track to a cut that has none: the group's length is committed, with OVERFILL when the track could not take it (R70, R72). -/
def assignTrack (n t : Nat) (why : AssignReason) (s : State) : State :=
  addMarkIf (!s.canTake t (s.groupLength n)) .overfill n
    (commitLength t (s.groupLength n) (setAssignment n { track := t, reason := why } s))

/-- The alternate chain after a track just looked at (R71): `seen` holds the tracks looked at. -/
def alternateChain (s : State) (len : Nat) : Nat → Nat → List Nat → Option Nat
  | 0, _, _ => none
  | hops + 1, t, seen =>
    let a := alternateTrack s.layout t
    if a = 0 ∨ seen.contains a = true then none
    else if s.canTake a len then some a
    else alternateChain s len hops a (a :: seen)

/-- The track and reason that the release assignment gives a cut of a given length asking for a track (R70). -/
def releaseChoice (s : State) (t len : Nat) : Assignment :=
  if trackUsed s.layout t && s.canTake t len then { track := t, reason := .requested }
  else
    match (if trackUsed s.layout t then alternateChain s len 3 t [t] else none) with
    | some a => { track := a, reason := .alternate }
    | none => { track := defaultTrack s.layout, reason := .defaultFull }

/-- The release assignment of a cut asking for a track (R70, R74). -/
def releaseAssignment (n t : Nat) (s : State) : State :=
  let a := releaseChoice s t (s.groupLength n)
  assignTrack n a.track a.reason s

/-- A reassignment of an assigned cut to a new track (R76). When the cut already has the track, only the reason changes. -/
def reassign (n t : Nat) (why : AssignReason) (s : State) : State :=
  if s.assignedTrack n = some t then setAssignment n { track := t, reason := why } s
  else
    addMarkIf (!s.canTake t (s.groupLength n)) .overfill n
      (commitLength t (s.groupLength n)
        (releaseFrom (s.assignedTrack n) (s.groupLength n) (setAssignment n { track := t, reason := why } s)))

/-! ### Sections (R82 to R84) -/

def State.section (s : State) (x : Nat) : SectionEntry := Table.read SectionEntry.initial s.sections x

def changeSection (x : Nat) (f : SectionEntry → SectionEntry) (s : State) : State :=
  { s with sections := Table.write SectionEntry.initial s.sections x (f (s.section x)) }

/-- The last level received on a channel. -/
def State.channel (s : State) (c : Nat) : Bool := Table.read false s.channels c

/-- The input of a section in use (R82); a section not in use has none. -/
def State.sectionInput (s : State) (x : Nat) : Bool := sectionUsed s.layout x && s.channel (sectionChannel s.layout x)

/-- The shown states of a section (R82). -/
inductive SectionShown where
  | clear
  | occupied
  | unexplained
  | unproven
  deriving DecidableEq, Repr

/-- The shown state of a section (R82); a section not in use is CLEAR (R2). -/
def State.shownState (s : State) (x : Nat) : SectionShown :=
  if sectionUsed s.layout x then
    if s.sectionInput x then (if (s.section x).unexplained then .unexplained else .occupied)
    else (if (s.section x).unproven then .unproven else .clear)
  else .clear

/-- The sections in whose occupant lists a cut stands: its span (R83). -/
def State.spanOf (s : State) (n : Nat) : List Nat :=
  (s.sections.filter (fun c => c.2.occupants.contains n)).map Prod.fst

/-- A cut leaves a section's list; an UNPROVEN section whose list is then empty becomes CLEAR (R93, R96). -/
def SectionEntry.without (n : Nat) (e : SectionEntry) : SectionEntry :=
  let l := e.occupants.filter (fun m => m != n)
  if e.unproven && l.isEmpty then { e with occupants := l, unproven := false, proving := none } else { e with occupants := l }

/-- A cut leaves the lists of some sections. -/
def leaveSections (l : List Nat) (n : Nat) (s : State) : State :=
  l.foldl (fun s x => changeSection x (SectionEntry.without n) s) s

/-- A cut is put in a section's list at its place by release sequence; a list holds each cut at most once (R82). -/
def enterSection (x n : Nat) (s : State) : State :=
  changeSection x (fun e => if e.occupants.contains n then e else { e with occupants := insertCut s n e.occupants }) s

/-! ### Points (R133 to R136) -/

def State.point (s : State) (p : Nat) : PointEntry := Table.read PointEntry.initial s.points p

def changePoint (p : Nat) (f : PointEntry → PointEntry) (s : State) : State :=
  { s with points := Table.write PointEntry.initial s.points p (f (s.point p)) }

/-- R133. -/
inductive Detected where
  | none
  | at (position : Position)
  | both
  deriving DecidableEq, Repr

/-- The detected position that a detection pair gives (R134). -/
def DetectionPair.detected (d : DetectionPair) : Detected :=
  match d.normal, d.reverse with
  | false, false => .none
  | true, false => .at .normal
  | false, true => .at .reverse
  | true, true => .both

/-- The last levels received on a detection pair. -/
def State.pair (s : State) (d : Nat) : DetectionPair := Table.read DetectionPair.off s.detections d

/-- The detected position of a point; one not in use has no pair to read (R133, R134). -/
def State.detected (s : State) (p : Nat) : Detected :=
  if pointUsed s.layout p then (s.pair (detectionPair s.layout p)).detected else .none

/-- The position of a point that has detection (R134). -/
def State.detection (s : State) (p : Nat) : Option Position :=
  match s.detected p with
  | .at x => some x
  | .none | .both => none

/-- The shown state of the switch section locks the point (R82). -/
def State.locked (s : State) (p : Nat) : Bool := pointUsed s.layout p && s.shownState (switchSection s.layout p) != .clear

/-- A point has stood (R108). -/
def State.hasStood (s : State) (p : Nat) : Bool := coldIdle s.layout != 0 && (s.point p).stood

/-- The budget in force of a point (R108). -/
def State.budget (s : State) (p : Nat) : Nat := if s.hasStood p then coldBudget s.layout p else throwBudget s.layout p

/-- The idle timer of a point whose last-settled time is set to now (R108). -/
def State.idleFromNow (s : State) : Option Instant :=
  if coldIdle s.layout = 0 then none else some (later s.clock (coldIdle s.layout * 1000))

/-- A point comes SET: the target is absent, the last-settled time is now, the idle timer starts (R139). -/
def becomeSet (p : Nat) (s : State) : State :=
  changePoint p (fun e => { e with
    state := .atRest, target := none, drive := none, throwLimit := none, settleTimer := none
    lastSettled := s.clock, idleTimer := s.idleFromNow, stood := false }) s

/-- A point becomes FAULT with its drive off and its timers of a throw stopped, and POINT_FAULT latches (R137, R138, R139, R140). The idle
timer and last-settled time are kept (R140). -/
def becomeFault (p : Nat) (s : State) : State :=
  latch .pointFault
    (changePoint p (fun e => { e with state := .fault, target := none, drive := none, throwLimit := none, settleTimer := none }) s)

/-- The throw in flight at a FAULT point ends: drive off, limit stopped, target absent (R140, R141). -/
def endFlight (p : Nat) (s : State) : State :=
  changePoint p (fun e => { e with target := none, drive := none, throwLimit := none }) s

/-- A point home in its target starts to settle, or comes SET at once when the settle time is 0 (R137, R146). -/
def startSettle (p : Nat) (x : Position) (s : State) : State :=
  if settleTime s.layout = 0 then becomeSet p s
  else changePoint p (fun e => { e with
    state := .settling, target := some x, drive := none, throwLimit := none
    settleTimer := some (later s.clock (settleTime s.layout)) }) s

/-- A throw starts (R136): the limit is twice the budget in force, read before the point ceases to have stood. -/
def startThrow (p : Nat) (x : Position) (s : State) : State :=
  changePoint p (fun e => { e with
    state := .throwing, target := some x, drive := some x, throwLimit := some (later s.clock (2 * s.budget p))
    idleTimer := none, stood := false }) s

/-! ### Outputs -/

/-- The condition of HUMP PERMIT (R65). -/
def permitCondition (s : State) : Bool :=
  s.runState == .running
    && (match s.queue with
        | [] => false
        | n :: _ => (match s.record n with
            | some r => r.requested.isSome || s.crest == .idle
            | none => false))
    && decide (s.inTree < permitLimit s.layout)

/-- HUMP PERMIT and the attention line are taken afresh at the end of the change (R65, R171). -/
def finish (s : State) : State := { s with humpPermit := permitCondition s, attentionLine := attentionCondition s }

/-- The outputs of a drive pair: on toward the drive of the point in use that names it, else off (R5, R133). -/
def State.driveOutput (s : State) (pair : Nat) : Option Position :=
  match pointNumbers.find? (fun p => pointUsed s.layout p && drivePair s.layout p == pair) with
  | some p => (s.point p).drive
  | none => none

end Sys2Proof.Machine
end

