-- ==== Sys2Proof/Machine/Arithmetic.lean ====
section
/-! DEFINITION. The throw-in-time arithmetic (R103 to R111): speed, distance, arrival, need, last moment and stall limit. -/

namespace Sys2Proof.Machine

/-- The speed measured over a section of a length from an entry time, and whether it was clamped (R104). -/
def measureSpeed (length : Nat) (t0 now : Instant) : Nat × Bool :=
  let dt := max 1 (now - t0).toNat
  let raw := length * 10000 / dt
  if raw < 10 then (10, true) else if 1500 < raw then (1500, true) else (raw, false)

/-- The reckoning path of a cut (R105): the path of its track, or of the root point's switch section while it has none. -/
def State.reckoningPath (s : State) (r : Record) : List Nat :=
  match r.assigned with
  | some a => s.tree.trackPath a.track
  | none =>
    match s.tree.rootPoint with
    | some p => s.tree.sectionPath (switchSection s.layout p)
    | none => []

/-- The distance of a cut's head from a point, in dm (R105). -/
def State.distance (s : State) (r : Record) (p : Nat) : Nat :=
  let path := s.reckoningPath r
  let ahead := match r.head with
    | some h => path.dropWhile (fun x => x != h)
    | none => path
  let run := ((ahead.takeWhile (fun x => x != switchSection s.layout p)).map (sectionLength s.layout)).sum
  min 65535 (run + if r.head.isNone then crestOffset s.layout else 0)

/-- The instant a cut is reckoned from: its head entry time, or its first-axle time while its head is in no section (R106). -/
def Record.reference (r : Record) : Instant := if r.head.isNone then r.firstAxle else r.headEntry.getD 0

/-- The speed the arithmetic uses; a cut in the tree always has one (R104). -/
def Record.speedNow (r : Record) : Nat := r.speed.getD 0

/-- The arrival time of a cut at a point, in ms (R106). -/
def State.arrivalTime (s : State) (r : Record) (p : Nat) : Nat := min 65535 (s.distance r p * 10000 / r.speedNow)

/-- The deadline of a cut at a point (R106). -/
def State.deadline (s : State) (r : Record) (p : Nat) : Instant := later r.reference (s.arrivalTime r p)

/-- The need of a throw of a point for a cut, in ms (R107). -/
def State.need (s : State) (r : Record) (p : Nat) : Nat := s.budget p + settleTime s.layout + leadMargin s.layout r.speedNow

/-- The last moment of a cut at a point (R109). -/
def State.lastMomentAt (s : State) (r : Record) (p : Nat) : Instant := s.deadline r p - BitVec.ofNat 32 (s.need r p)

/-- The section is the last switch section of the cut's route (R19). -/
def State.isLastSwitch (s : State) (n x : Nat) : Bool :=
  match s.assignedTrack n with
  | some t => s.tree.lastSwitch t == some x
  | none => false

/-- The stall limit of a cut whose head is credited with a section, at a speed (R111). -/
def State.stallLimit (s : State) (n x speed : Nat) : Nat :=
  let len := sectionLength s.layout x + if s.isLastSwitch n x then s.groupLength n else 0
  max (stallMinimum s.layout) (3 * (len * 10000 / speed))

end Sys2Proof.Machine
end

