-- ==== Sys2Proof/Machine/Arbiter.lean ====
section
/-! DEFINITION. The Point Arbiter: claim queues, the throw decision, watch points, diversion and replanning (R114 to R131). -/

namespace Sys2Proof.Machine

/-! ### Claim queues (R114 to R118) -/

/-- The claim queue of a point. -/
def State.claimsAt (s : State) (p : Nat) : List Claim := Table.read [] s.claims p

def setClaims (p : Nat) (l : List Claim) (s : State) : State := { s with claims := Table.write [] s.claims p l }

/-- A cut's claim at a point. -/
def State.claimOf (s : State) (p n : Nat) : Option Claim := (s.claimsAt p).find? (fun c => c.cut == n)

/-- The claims ahead of a cut's claim in a point's queue (R114). -/
def State.claimsAhead (s : State) (p n : Nat) : List Claim := (s.claimsAt p).takeWhile (fun c => c.cut != n)

/-- The points at which a cut holds a claim. -/
def State.claimedPoints (s : State) (n : Nat) : List Nat :=
  (s.claims.filter (fun c => c.2.any (fun k => k.cut == n))).map Prod.fst

/-- The points at which a cut holds the head claim. -/
def State.headClaimPoints (s : State) (n : Nat) : List Nat :=
  (s.claims.filter (fun c => (c.2.head?.map Claim.cut) == some n)).map Prod.fst

/-- Put a claim at its place by release sequence (R114). -/
def insertClaim (s : State) (c : Claim) : List Claim → List Claim
  | [] => [c]
  | d :: l => if s.earlier c.cut d.cut then c :: d :: l else d :: insertClaim s c l

/-- Withdraw a cut's claims at some points (R117). -/
def withdrawAt (l : List Nat) (n : Nat) (s : State) : State :=
  l.foldl (fun s p => setClaims p ((s.claimsAt p).filter (fun c => c.cut != n)) s) s

/-- Withdraw all of a cut's claims (R117). -/
def withdrawAll (n : Nat) (s : State) : State := withdrawAt (s.claimedPoints n) n s

/-- Give a cut's claim at a point a position and a spent marker, where it stands. -/
def rewriteClaim (p n : Nat) (f : Claim → Claim) (s : State) : State :=
  setClaims p ((s.claimsAt p).map (fun c => if c.cut = n then f c else c)) s

/-- The point's switch section is at or below the head section; any point, while the head section is none (R116, R122). -/
def State.atOrBelowHead (s : State) (r : Record) (p : Nat) : Bool :=
  match r.head with
  | none => true
  | some h => s.tree.sectionBelow (switchSection s.layout p) h

/-- Bring a cut's claim at one point of its route in line with the route (R116, R118): a claim held takes the position; otherwise one is
inserted unspent, unless the point lies above the head. -/
def claimOnRoute (n : Nat) (r : Record) (s : State) (pb : Nat × Position) : State :=
  if (s.claimOf pb.1 n).isSome then rewriteClaim pb.1 n (fun c => { c with position := pb.2 }) s
  else if s.atOrBelowHead r pb.1 then
    setClaims pb.1 (insertClaim s { cut := n, position := pb.2, spent := false } (s.claimsAt pb.1)) s
  else s

/-- The claims of a cut are inserted (R116) or redone (R118) for the route of its assigned track: claims off the route are withdrawn, those
on it take its positions, missing ones at or below the head are inserted, and the unplanned-below mark is dropped. -/
def redoClaims (n : Nat) (s : State) : State :=
  match s.record n with
  | none => s
  | some r =>
    match r.assigned with
    | none => s
    | some a =>
      let route := s.tree.route a.track
      let off := (s.claimedPoints n).filter (fun p => !(route.map Prod.fst).contains p)
      route.foldl (claimOnRoute n r) (changeRecord n (fun r => { r with unplannedBelow := none }) (withdrawAt off n s))

/-! ### Lined points, throw decisions and watch points (R119 to R123) -/

/-- The point is lined for the cut (R119). -/
def State.lined (s : State) (p n : Nat) : Bool :=
  match s.claimOf p n with
  | none => false
  | some c =>
    (s.point p).state == .atRest && s.detected p == .at c.position
      && (s.claimsAhead p n).all (fun d => d.position == c.position)

/-- The conditions of the throw decision at a point (R120): the position to throw to when all hold. -/
def throwWanted (p : Nat) (s : State) : Option Position :=
  match s.claimsAt p with
  | [] => none
  | c :: _ =>
    match s.record c.cut with
    | none => none
    | some r =>
      if s.supervised && s.detected p != .at c.position && (s.point p).state == .atRest && (s.point p).mode == .auto
          && pointUsed s.layout p && !s.locked p && !after s.clock (s.lastMomentAt r p)
      then some c.position else none

/-- The throw decision at a point (R120). -/
def throwDecision (p : Nat) (s : State) : State :=
  match throwWanted p s with
  | some x => startThrow p x s
  | none => s

/-- The watch point of a cut (R122, R130). DESIGN CHOICE (log 30): of a cut marked unplanned-below R126 says that it has no watch point until it is
replanned, and R122 that the watch may move up to a point that is no longer lined; R122 is followed, and the mark is not read here. -/
def State.watchPoint (s : State) (r : Record) : Option Nat :=
  match r.assigned with
  | none => s.tree.rootPoint
  | some a =>
    ((s.tree.route a.track).find? (fun pb =>
      (match s.claimOf pb.1 r.number with
        | some c => !c.spent
        | none => false)
      && s.atOrBelowHead r pb.1 && !s.lined pb.1 r.number)).map Prod.fst

/-- The record of a cut watched at a point, or at none (R109, R122): the timer runs out 1 ms after the last moment. -/
def Record.watching (s : State) (w : Option Nat) (r : Record) : Record :=
  match w with
  | none => { r with watch := none, lastMoment := none, timer := .stopped }
  | some p => { r with watch := some p, lastMoment := some (s.lastMomentAt r p), timer := .running (later (s.lastMomentAt r p) 1) }

/-- The last-moment timer of an in-tree cut has run out (R103). -/
def lastMomentDue (s : State) (r : Record) : Bool :=
  match r.timer with
  | .running t => r.state.inTree && due s.clock t
  | .stopped | .suspended => false

/-- A last-moment timer that has been set to an instant already come runs out at once: its expiry is the next command taken (R103, R122).
Where one change sets several such timers, the order of their expiries is the model's choice (log 2). -/
def expireAtOnce (n : Nat) (s : State) : State :=
  match s.record n with
  | none => s
  | some r => if lastMomentDue s r then { s with pending := .lastMomentExpiry n :: s.pending } else s

/-- A cut's watch point is chosen afresh and its timer set (R122); not while it is STALLED (R123). -/
def chooseWatch (n : Nat) (s : State) : State :=
  match s.record n with
  | none => s
  | some r =>
    if r.state = .releasing ∨ r.state = .rolling then expireAtOnce n (changeRecord n (Record.watching s (s.watchPoint r)) s) else s

/-! ### What follows a change (R116, R117, R118, R120, R122, R142) -/

/-- The head claim of a point, as a throw decision reads it. -/
def State.headClaim (s : State) (p : Nat) : Option (Nat × Position) := ((s.claimsAt p).head?).map (fun c => (c.cut, c.position))

/-- The points at which a change from `old` to `s` calls for the throw decision (R120): the head claim has changed, the switch section
has become CLEAR, or the point has become SET. -/
def decisionDue (old s : State) (p : Nat) : Bool :=
  old.headClaim p != s.headClaim p
    || (old.locked p && !s.locked p)
    || ((old.point p).state != .atRest && (s.point p).state == .atRest)

/-- The claims ahead of a cut, as the lined condition reads them. -/
def State.aheadOf (s : State) (p n : Nat) : List (Nat × Position) := (s.claimsAhead p n).map (fun c => (c.cut, c.position))

/-- A point's last-settled time was set in the change from `old` to `s` (R142). -/
def settledAnew (old s : State) (p : Nat) : Bool :=
  (old.point p).lastSettled != (s.point p).lastSettled
    || ((old.point p).state != .atRest && (s.point p).state == .atRest)

/-- The change from `old` to `s` calls for a cut's watch point to be chosen afresh (R122): at a point where it holds a claim, a claim ahead
was inserted, withdrawn or given a new position, or the point has changed state or detected position; or its watch point's last-settled time
was set (R142). -/
def watchDue (old s : State) (n : Nat) : Bool :=
  (s.claimedPoints n).any (fun p =>
      old.aheadOf p n != s.aheadOf p n || (old.point p).state != (s.point p).state || old.detected p != s.detected p)
    || (match (s.record n).bind Record.watch with
      | some p => settledAnew old s p
      | none => false)

/-- The throw decisions a change calls for, and those at some further points. -/
def takeDecisions (old : State) (points : List Nat) (s : State) : State :=
  (pointNumbers.filter (fun p => points.contains p || decisionDue old s p)).foldl (fun s p => throwDecision p s) s

/-- The watch points a change calls to be chosen afresh, and those of some further cuts. -/
def takeWatches (old : State) (cuts : List Nat) (s : State) : State :=
  ((s.records.map Record.number).filter (fun n => cuts.contains n || watchDue old s n)).foldl (fun s n => chooseWatch n s) s

/-- What the arbiter does at the end of a change from `old`: throw decisions first, then watch points (R116, R117, R118, R142). `points` and
`cuts` are those the event itself names. -/
def followUp (old : State) (points cuts : List Nat) (s : State) : State := takeWatches old cuts (takeDecisions old points s)

/-- The follow-up of a head credit or a change of route of a cut: throw decisions also at every point where it holds the head claim (R120),
and its own watch point chosen afresh (R122). -/
def followCut (old : State) (n : Nat) (s : State) : State := followUp old (s.headClaimPoints n) [n] s

/-! ### Last-moment expiry (R124 to R127, R130) -/

/-- The expected position of a point for a cut (R124). -/
def State.expectedPosition (s : State) (p n : Nat) : Option Position :=
  match (s.claimsAhead p n).getLast? with
  | some c => some c.position
  | none =>
    if (s.point p).state = .throwing ∨ (s.point p).state = .settling then (s.point p).target
    else s.detection p

/-- The reason of a diversion (R125). -/
def State.divertReason (s : State) (p n : Nat) : DivertReason :=
  if (s.claimsAhead p n).isEmpty = false then .catchup
  else if s.locked p then .blocked
  else if (s.point p).mode = .manual then .manual
  else if (s.point p).state = .fault then .pointFault
  else .tooLate

/-- The track a cut is replanned to from a branch (R127); none when its track is kept. -/
def State.replanTrack (s : State) (n p : Nat) (b : Position) : Option Nat :=
  match branchTarget s.layout p b with
  | .sec x =>
    match s.assignedTrack n with
    | some t => if s.tree.trackBelow t x then none else some (fallbackTrack s.layout p b)
    | none => some (fallbackTrack s.layout p b)
  | .track t => if s.assignedTrack n = some t then none else some t

/-- A cut is replanned from a branch of a point (R127): its track is kept or changed, and its claims are redone. -/
def replan (n p : Nat) (b : Position) (s : State) : State :=
  match s.replanTrack n p b with
  | none => redoClaims n s
  | some t => redoClaims n (reassign n t .diverted s)

/-- The points whose switch sections lie below a point's switch section (R126). -/
def State.pointsBelow (s : State) (p : Nat) (l : List Nat) : List Nat :=
  l.filter (fun q => q != p && s.tree.sectionBelow (switchSection s.layout q) (switchSection s.layout p))

/-- A diversion entry, and DIVERTED (R126). -/
def noteDiversion (n p : Nat) (s : State) : State := latch .diverted (addDiversion p (s.divertReason p n) n s)

/-- A cut is diverted at a point toward its known expected position (R126): the claim takes that position, spent, and the cut is replanned. -/
def divertTo (n p : Nat) (x : Position) (s : State) : State :=
  replan n p x (rewriteClaim p n (fun c => { c with position := x, spent := true }) (noteDiversion n p s))

/-- A cut is diverted at a point whose expected position is unknown (R126): the claim is spent, the claims below are withdrawn, and the cut
is marked unplanned-below. -/
def divertUnknown (n p : Nat) (s : State) : State :=
  changeRecord n (fun r => { r with unplannedBelow := some p })
    (withdrawAt (s.pointsBelow p (s.claimedPoints n)) n
      (rewriteClaim p n (fun c => { c with spent := true }) (noteDiversion n p s)))

/-- A concession (R124): the claim is spent. -/
def concede (n p : Nat) (s : State) : State := rewriteClaim p n (fun c => { c with spent := true }) s

/-- The last-moment timer of an assigned cut runs out at its watch point (R124): a concession, or a diversion. -/
def expireAt (n p : Nat) (s : State) : State :=
  match s.claimOf p n with
  | none => followUp s [] [n] s
  | some c =>
    match s.expectedPosition p n with
    | some x => if x = c.position then followUp s [] [n] (concede n p s) else followCut s n (divertTo n p x s)
    | none => followUp s [] [n] (divertUnknown n p s)

/-- The last-moment timer of a cut waiting for its track runs out: the default track, DEFAULT_NO_TRACK (R75, R130). -/
def expireWaiting (n : Nat) (s : State) : State :=
  followCut s n (redoClaims n (assignTrack n (defaultTrack s.layout) .defaultNoTrack s))

/-- What a last-moment expiry does to a cut (R124, R130). -/
def lastMomentExpires (n : Nat) (r : Record) (s : State) : State :=
  match r.assigned, r.watch with
  | none, _ => expireWaiting n s
  | some _, some p => expireAt n p s
  | some _, none => followUp s [] [n] s

end Sys2Proof.Machine
end

