-- ==== Sys2Proof/Machine/Tracker.lean ====
section
/-! DEFINITION. The Occupancy Tracker: entrants, credits, closing up, settlement, loss and stalls (R82 to R101), and what the Point Drivers
make of an occupied switch section (R141). -/

namespace Sys2Proof.Machine

/-! ### Leaving the tree (R28, R30, R78, R92, R96) -/

/-- A record becomes LOST (R28). -/
def Record.lose (why : LostReason) (r : Record) : Record := { r.left with state := .lost, lostReason := some why }

/-- A record becomes SETTLED (R28). -/
def Record.settle (t : Nat) (r : Record) : Record := { r.left with state := .settled, outcome := some t }

/-- The in-tree count falls by one (R28, R151). -/
def leaveTree (s : State) : State := { s with inTree := s.inTree - 1 }

/-- The in-tree count rises by one (R28, R151). -/
def joinTree (s : State) : State := { s with inTree := s.inTree + 1 }

/-- An in-tree cut becomes LOST with its followers: claims withdrawn, occupant lists left, committed length released (R28, R30, R78, R96).
The throw decisions and watch points that follow are the caller's. -/
def loseCut (why : LostReason) (n : Nat) (s : State) : State :=
  if s.isInTree n then
    let track := s.assignedTrack n
    let len := s.groupLength n
    let followers := s.joinedFollowers n
    let s1 := latch .lost (leaveTree (changeRecord n (Record.lose why) s))
    let s2 := changeRecords followers (Record.lose .leaderLost) s1
    releaseFrom track len (leaveSections (s2.spanOf n) n (withdrawAll n s2))
  else s

/-- Each of some cuts becomes LOST. -/
def loseCuts (why : LostReason) (l : List Nat) (s : State) : State := l.foldl (fun s n => loseCut why n s) s

/-- A cut and its followers are settled on the track that a branch of a point names (R92, R30, R77). -/
def settleCut (p t n : Nat) (s : State) : State :=
  if s.isInTree n then
    let track := s.assignedTrack n
    let len := s.groupLength n
    let followers := s.joinedFollowers n
    let s0 := if track.isSome && track != some t then addMisroute p .misroute n s else s
    let s1 := leaveTree (changeRecord n (Record.settle t) s0)
    let s2 := changeRecords followers (Record.settle t) s1
    settleLength track t len (leaveSections (s2.spanOf n) n (withdrawAll n s2))
  else s

/-! ### Head credits (R85 to R87, R91, R97, R99) -/

/-- The entrant of a newly occupied section (R85). -/
def State.entrant (s : State) (x : Nat) : Option Nat :=
  if x = 1 then
    (sortCuts s ((s.records.filter (fun r => r.state.inTree && r.head.isNone)).map Record.number)).head?
  else
    match s.tree.upstream x with
    | none => none
    | some u =>
      (s.section u).occupants.find? (fun n => match s.record n with
        | some r => r.head == some u
        | none => false)

/-- The state of a cut after a head credit: a STALLED one resumes (R99). -/
def State.resumed (s : State) (r : Record) : CutState :=
  if r.state = .stalled then (if s.crest = .counting ∧ s.crestCut = some r.number then .releasing else .rolling) else r.state

/-- The speed a cut takes at an entry, and whether the measurement was clamped (R104). DESIGN CHOICE (log 29): of a STALLED cut with an untimed head
entry time whose stand timer has run out, R104 says both that the speed is 10 with the mark and that no speed is measured; the speed is kept. -/
def State.entrySpeed (s : State) (r : Record) : Option Nat × Bool :=
  match r.timed, r.head, r.headEntry with
  | true, some h, some t0 =>
    if r.standTimer = .ranOut then (some 10, true)
    else
      let v := measureSpeed (sectionLength s.layout h) t0 s.clock
      (some v.1, v.2)
  | _, _, _ => (r.speed, false)

/-- The record of a cut whose head is credited with a section (R86, R91): `tail` is its new tail section, `speed` its speed from now on. -/
def Record.credit (s : State) (x tail : Nat) (speed : Option Nat) (timed : Bool) (r : Record) : Record :=
  { r with
    head := some x, tail := some tail, headEntry := some s.clock, timed := timed, speed := speed
    stallDeadline := some (later s.clock (s.stallLimit r.number x (speed.getD 0)))
    state := s.resumed r, standTimer := .stopped }

/-- A point at which a comparison of R87 or R91 disagrees with the branch: detection, then claim. -/
def State.misrouted (s : State) (p n : Nat) (b : Position) : Bool :=
  (match s.detection p with
    | some x => x != b
    | none => false)
  || (match s.claimOf p n with
    | some c => c.position != b
    | none => false)

/-- Points whose switch sections are among some sections. -/
def State.pointsIn (s : State) (l : List Nat) : List Nat := l.filterMap (pointOfSection s.layout)

/-- The way an entrant went out of a switch section is compared with the point and its claim (R87), and the cut is replanned from the branch
when they disagree or when it is marked unplanned-below at the point (R128, R129). -/
def checkBranch (n u x : Nat) (s : State) : State :=
  match pointOfSection s.layout u with
  | none => s
  | some p =>
    match branchTo s.layout p x with
    | none => s
    | some b =>
      let wrong := s.misrouted p n b
      let s1 := if wrong then addMisroute p (if (s.detection p).isSome then .misroute else .pointFault) n s else s
      if wrong || ((s.record n).bind Record.unplannedBelow) == some p then replan n p b s1 else s1

/-- Section X becomes occupied while UNPROVEN: the mark and timer are cleared, its occupants stay (R88). -/
def endHold (x : Nat) (s : State) : State :=
  changeSection x (fun e => if e.unproven then { e with unproven := false, proving := none } else e) s

/-- The entrant is put in X's list and its record credited (R86, steps 2 to 5): `held` says that it was found in an UNPROVEN section, so
that its span is cut back to X. -/
def creditHead (n x : Nat) (held : Bool) (r : Record) (s : State) : State :=
  let back := if held then (s.spanOf n).filter (fun y => y != x) else []
  let v := s.entrySpeed r
  let tail := if held then x else r.tail.getD x
  let s1 := leaveSections back n (enterSection x n s)
  let s2 := changeRecord n (Record.credit s x tail v.1 true) s1
  addMarkIf v.2 .speedClamped n s2

/-- An entrant with room in X's list is credited with X (R86): the credit, the misroute check, then the claims its span left. -/
def creditEntry (n x : Nat) (s : State) : State :=
  match s.record n with
  | none => s
  | some r =>
    match r.head with
    | none => endHold x (creditHead n x false r s)
    | some u =>
      let held := s.shownState u == .unproven
      let back := if held then (s.spanOf n).filter (fun y => y != x) else []
      withdrawAt (s.pointsIn back) n (checkBranch n u x (endHold x (creditHead n x held r s)))

/-- What the Point Drivers make of the occupation of the switch section of a point (R141); the entrant's mark goes on its record. -/
def wheelsOnPoint (p : Nat) (entrant : Option Nat) (s : State) : State :=
  match (s.point p).state with
  | .throwing =>
    let s1 := latch .pointFault (changePoint p (fun e => { e with state := .fault }) s)
    match entrant with
    | some n => addMark .movingPoint n s1
    | none => s1
  | .settling =>
    let s1 := becomeSet p s
    match entrant with
    | some n => addMark .lateSettle n s1
    | none => s1
  | .atRest | .fault | .unsupervised => s

/-- The Point Drivers are told of an occupied section, if it is the switch section of a point (R89). -/
def tellDrivers (x : Nat) (entrant : Option Nat) (s : State) : State :=
  match pointOfSection s.layout x with
  | some p => wheelsOnPoint p entrant s
  | none => s

/-- No entrant: X is its own occupants showing again if it was UNPROVEN, else it is UNEXPLAINED and SECTION latches (R88). -/
def unexplainedEntry (x : Nat) (s : State) : State :=
  if (s.section x).unproven then endHold x s
  else latch .sectionCause (changeSection x (fun e => { e with unexplained := true }) s)

/-- Section X has become occupied in STANDBY or RUNNING (R85 to R89, R101); the channel already shows it. `old` is the state before. -/
def sectionEntered (old : State) (x : Nat) (s : State) : State :=
  match s.entrant x with
  | none => followUp old [] [] (tellDrivers x none (unexplainedEntry x s))
  | some n =>
    if Config.maxOccupants ≤ (s.section x).occupants.length then
      followUp old [] [] (tellDrivers x none (endHold x (loseCut .overcrowded n s)))
    else followCut old n (tellDrivers x (some n) (creditEntry n x s))

/-! ### Clearing (R90 to R93) -/

/-- The section of a cut's span that follows U on the way down (R90): the one nearest to U among those below it that hold the cut. -/
def State.nextOfSpan (s : State) (n u : Nat) : Option Nat :=
  ((s.spanOf n).filter (fun y => y != u && s.tree.sectionBelow y u)).foldl (fun best y => match best with
    | none => some y
    | some z => if (s.tree.sectionPath y).length < (s.tree.sectionPath z).length then some y else some z) none

/-- The sections a cut leaves when U clears behind its head (R90): U, and those of its span that lie behind its new tail section. -/
def State.leftBehind (s : State) (n u : Nat) : List Nat :=
  u :: match s.nextOfSpan n u with
    | some y => (s.spanOf n).filter (fun z => z != u && z != y && !s.tree.sectionBelow z y)
    | none => []

/-- An occupant whose head has gone on leaves the clearing section, and its tail is the next section of its span (R90); its claims at the points
it has left behind are withdrawn (R117). DEDUCED (log 28): where the section lies in the middle of the span and clears before the one behind it,
the cut leaves the lists behind its new tail too, since it stands only in lists from its tail to its head (R82, R83). -/
def drawOut (u : Nat) (s : State) (n : Nat) : State :=
  let back := s.leftBehind n u
  withdrawAt (s.pointsIn back) n (changeRecord n (fun r => { r with tail := s.nextOfSpan n u }) (leaveSections back n s))

/-- The way out of a clearing section (R91): none when the point there has no detection. -/
def State.wayOut (s : State) (u : Nat) : Option Target :=
  match pointOfSection s.layout u with
  | none =>
    match sectionLink s.layout u with
    | .next x => some (.sec x)
    | .switch _ => none
  | some p => (s.detection p).map (branchTarget s.layout p)

/-- A branch of the point names a track. -/
def trackBranch (m : Image) (p : Nat) : Bool :=
  match branchTarget m p .normal, branchTarget m p .reverse with
  | .sec _, .sec _ => false
  | _, _ => true

/-- An occupant of U is closed up into the occupied section D (R91). -/
def closeUp (u d : Nat) (s : State) (n : Nat) : State :=
  if Config.maxOccupants ≤ (s.section d).occupants.length then loseCut .overcrowded n s
  else
    let back := (s.spanOf n).filter (fun y => y != d)
    let point := pointOfSection s.layout u
    let branch := point.bind s.detection
    let wrong := match point, branch with
      | some p, some b => (match s.claimOf p n with
          | some c => c.position != b
          | none => false)
      | _, _ => false
    let unplanned := point.isSome && ((s.record n).bind Record.unplannedBelow) == point
    let s1 := leaveSections back n (enterSection d n s)
    let s2 := addMark .closedUp n (changeRecord n (fun r => Record.credit s d d r.speed false r) s1)
    let s3 := withdrawAt (s.pointsIn back) n s2
    match point, branch with
    | some p, some b =>
      let s4 := if wrong then addMisroute p .misroute n s3 else s3
      if wrong || unplanned then replan n p b s4 else s4
    | _, _ => s3

/-- U is held UNPROVEN for the proving interval (R93). -/
def holdUnproven (u : Nat) (s : State) : State :=
  changeSection u (fun e => { e with unproven := true, proving := some (later s.clock (provingInterval s.layout)) }) s

/-- What becomes of the occupants whose head section is the clearing section (R91, R92, R93). -/
def dealWithHeld (u : Nat) (l : List Nat) (s : State) : State :=
  match s.wayOut u with
  | some (.sec d) => if s.sectionInput d then l.foldl (closeUp u d) s else holdUnproven u s
  | some (.track t) => l.foldl (fun s n => settleCut ((pointOfSection s.layout u).getD 0) t n s) s
  | none =>
    match pointOfSection s.layout u with
    | some p => if trackBranch s.layout p then loseCuts .noDetection l s else holdUnproven u s
    | none => holdUnproven u s

/-- The head of a cut is in a section. -/
def State.headIn (s : State) (u n : Nat) : Bool := ((s.record n).bind Record.head) == some u

/-- The cuts whose heads were credited between two states: their own watch points and throw decisions are taken (R101, R120, R122). -/
def followCuts (old : State) (l : List Nat) (s : State) : State := followUp old (l.flatMap s.headClaimPoints) l s

/-- Section U has become clear in STANDBY or RUNNING (R90 to R93, R101); the channel already shows it. `old` is the state before. -/
def sectionLeft (old : State) (u : Nat) (s : State) : State :=
  let occupants := (s.section u).occupants
  let held := occupants.filter (s.headIn u)
  let gone := occupants.filter (fun n => !s.headIn u n)
  let s1 := gone.foldl (drawOut u) (changeSection u (fun e => { e with unexplained := false }) s)
  let s2 := if held.isEmpty then s1 else dealWithHeld u held s1
  followCuts old (held.filter (fun n => !s2.headIn u n)) s2

/-! ### Stalls and proving timers (R94, R98) -/

/-- The proving timer of a section runs out (R94). -/
def provingExpires (x : Nat) (s : State) : State :=
  followUp s [] []
    (latch .sectionCause
      (changeSection x (fun e => { e with unproven := false, proving := none }) (loseCuts .unproven (s.section x).occupants s)))

/-- A cut becomes STALLED (R98): its stall deadline goes, its last-moment timer is suspended, its stand timer starts (R104). -/
def Record.stall (r : Record) : Record :=
  { r with
    state := .stalled, stallDeadline := none, timer := .suspended
    standTimer := .running (later (r.headEntry.getD 0) 0x7FFFFFFF) }

/-- A cut's stall deadline passes (R98). -/
def stallPasses (n : Nat) (r : Record) (s : State) : State :=
  let foul := match r.head with
    | some h => s.isLastSwitch n h
    | none => false
  latch .stall (addMarkIf foul .foul n (changeRecord n Record.stall s))

end Sys2Proof.Machine
end

