-- ==== Sys2Proof/Machine/Operands.lean ====
section
/-! DEFINITION. The request bodies: every operand form of R164 and R165. A parser answers none for a body whose length is not the one the table
gives for the code (R162). Values are checked by the owners, not here. -/

namespace Sys2Proof.Machine

/-- ENTER's body; `beforePresent` is the switch as sent. -/
structure EnterBody where
  cut : Nat
  track : Nat
  length : Nat
  axles : Nat
  beforePresent : Nat
  before : Nat
  deriving DecidableEq, Repr

def parseEnter : List Byte → Option EnterBody
  | [c1, c0, t, l1, l0, a, p, b1, b0] =>
    some { cut := numOf2 c1 c0, track := t.toNat, length := numOf2 l1 l0, axles := a.toNat, beforePresent := p.toNat, before := numOf2 b1 b0 }
  | _ => none

/-- AMEND's body: the cut, the field mask, then the fields. -/
structure AmendBody where
  cut : Nat
  mask : Byte
  track : Nat
  length : Nat
  axles : Nat
  deriving DecidableEq, Repr

def parseAmend : List Byte → Option AmendBody
  | [c1, c0, m, t, l1, l0, a] => some { cut := numOf2 c1 c0, mask := m, track := t.toNat, length := numOf2 l1 l0, axles := a.toNat }
  | _ => none

/-- The field mask names the track, the length, the axles (R165). -/
def AmendBody.namesTrack (q : AmendBody) : Bool := q.mask.getLsbD 0
def AmendBody.namesLength (q : AmendBody) : Bool := q.mask.getLsbD 1
def AmendBody.namesAxles (q : AmendBody) : Bool := q.mask.getLsbD 2

/-- A body that names one cut (WITHDRAW, QUERY, COLLECT, ABANDON). -/
def parseCut : List Byte → Option Nat
  | [c1, c0] => some (numOf2 c1 c0)
  | _ => none

/-- LIST's body: the state set and the unseen switch. -/
structure ListBody where
  states : Byte
  unseenOnly : Nat
  deriving DecidableEq, Repr

def parseList : List Byte → Option ListBody
  | [m, u] => some { states := m, unseenOnly := u.toNat }
  | _ => none

/-- TRACK SET's body. -/
structure TrackSetBody where
  track : Nat
  fill : Nat
  setting : Nat
  deriving DecidableEq, Repr

def parseTrackSet : List Byte → Option TrackSetBody
  | [t, f1, f0, x] => some { track := t.toNat, fill := numOf2 f1 f0, setting := x.toNat }
  | _ => none

/-- A body of one byte that names an item (TRACK READ, SECTION READ, POINT RESET, POINT READ, LAYOUT SELECT). -/
def parseItem : List Byte → Option Nat
  | [x] => some x.toNat
  | _ => none

/-- A body of an item and a value (POINT MODE, POINT THROW, RUN). -/
structure ItemValue where
  item : Nat
  value : Nat
  deriving DecidableEq, Repr

def parseItemValue : List Byte → Option ItemValue
  | [x, v] => some { item := x.toNat, value := v.toNat }
  | _ => none

/-- An empty body (RESET, LAYOUT LOAD, STATUS). -/
def parseEmpty : List Byte → Option Unit
  | [] => some ()
  | _ => none

/-- LAYOUT WRITE's body: page, half, 128 bytes. -/
structure WriteBody where
  page : Nat
  half : Nat
  data : List Byte
  deriving DecidableEq, Repr

def parseWrite : List Byte → Option WriteBody
  | p :: h :: data => if data.length = 128 then some { page := p.toNat, half := h.toNat, data := data } else none
  | _ => none

/-- LAYOUT COMMIT's body: slot and 8 name characters. -/
structure CommitBody where
  slot : Nat
  name : List Byte
  deriving DecidableEq, Repr

def parseCommit : List Byte → Option CommitBody
  | x :: name => if name.length = 8 then some { slot := x.toNat, name := name } else none
  | _ => none

/-- LAYOUT READ's body: source (0 ACTIVE, 1 WORKING), page, half. -/
structure ReadBody where
  source : Nat
  page : Nat
  half : Nat
  deriving DecidableEq, Repr

def parseRead : List Byte → Option ReadBody
  | [x, p, h] => some { source := x.toNat, page := p.toNat, half := h.toNat }
  | _ => none

/-- A mask of flags, two bytes (CLEAR FLAGS, ENABLE FLAGS). -/
def parseMask : List Byte → Option Nat
  | [m1, m0] => some (numOf2 m1 m0)
  | _ => none

/-! ### Codings (R165) -/

/-- A position byte. -/
def positionOf : Nat → Option Position
  | 1 => some .normal
  | 2 => some .reverse
  | _ => none

/-- A mode byte. -/
def modeOf : Nat → Option PointMode
  | 0 => some .auto
  | 1 => some .manual
  | _ => none

/-- A setting byte. -/
def settingOf : Nat → Option TrackSetting
  | 0 => some .closed
  | 1 => some .opened
  | _ => none

/-- A run target byte. -/
def runTargetOf : Nat → Option RunState
  | 0 => some .halted
  | 1 => some .standby
  | 2 => some .running
  | _ => none

/-- A requested track byte: 0 is OPEN. -/
def requestedOf (t : Nat) : Option Nat := if t = 0 then none else some t

/-- A requested track is OPEN or a track in use (R37). -/
def trackValueOk (m : Image) (t : Nat) : Bool := t == 0 || trackUsed m t
/-- A declared length in its range (R37). -/
def lengthValueOk (n : Nat) : Bool := 50 ≤ n && n ≤ 4000
/-- Declared axles in their range (R37). -/
def axlesValueOk (n : Nat) : Bool := 2 ≤ n && n ≤ 120

end Sys2Proof.Machine
end

