-- ==== Sys2Proof/Machine/Images.lean ====
section
/-! DEFINITION. The images that answers carry (R165, R167, R168). -/

namespace Sys2Proof.Machine

def positionCode : Position → Nat
  | .normal => 1
  | .reverse => 2

def stateCode : CutState → Nat
  | .pending => 1
  | .releasing => 2
  | .rolling => 3
  | .stalled => 4
  | .joined => 5
  | .settled => 6
  | .lost => 7

def originCode : Origin → Nat
  | .listed => 0
  | .noList => 1
  | .standbyRelease => 2
  | .remnant _ => 3

def originParent : Origin → Nat
  | .remnant n => n
  | .listed | .noList | .standbyRelease => 0

def assignReasonCode : AssignReason → Nat
  | .requested => 1
  | .alternate => 2
  | .defaultFull => 3
  | .defaultNoTrack => 4
  | .defaultJoin => 5
  | .defaultUnlisted => 6
  | .diverted => 7

def divertReasonCode : DivertReason → Nat
  | .catchup => 1
  | .blocked => 2
  | .manual => 3
  | .pointFault => 4
  | .tooLate => 5
  | .misroute => 6

def lostReasonCode : LostReason → Nat
  | .unproven => 1
  | .abandoned => 2
  | .halted => 3
  | .overcrowded => 4
  | .overload => 5
  | .noDetection => 6
  | .leaderLost => 7

/-- A list of numbers padded with zeros to a length. -/
def padTo (n : Nat) (l : List Nat) : List Nat := l ++ List.replicate (n - l.length) 0

/-- An instant beside a presence bit: 0 when absent (R167, R168). -/
def byteInstant (x : Option Instant) : List Byte := byte4 (x.getD 0)

/-- The presence byte of a record image (R167). -/
def presence (r : Record) : Nat :=
  r.releaseSeq.isSome.toNat + 2 * r.headEntry.isSome.toNat + 4 * r.lastMoment.isSome.toNat + 8 * r.stallDeadline.isSome.toNat

/-- The joined role, count and numbers of a record image (R167). -/
def joinedBytes : Option JoinedList → List Byte
  | none => byte1 0 ++ byte1 0 ++ (padTo 3 []).flatMap byte2
  | some (.leader l) => byte1 1 ++ byte1 l.length ++ (padTo 3 l).flatMap byte2
  | some (.follower n) => byte1 2 ++ byte1 1 ++ (padTo 3 [n]).flatMap byte2

/-- The diversion count and the four entries of a record image (R167). -/
def diversionBytes (r : Record) : List Byte :=
  byte1 (r.diversions.length + if r.more then 0x80 else 0)
    ++ (padTo 8 (r.diversions.flatMap (fun d => [d.point, divertReasonCode d.reason]))).flatMap byte1

/-- The record image (R167): `unseen` is the unseen mark as it stood before the request, `place` the place in the humping queue. -/
def recordImage (r : Record) (unseen : Bool) (place : Nat) : List Byte :=
  byte2 r.number ++ byte1 (stateCode r.state) ++ byte1 (originCode r.origin) ++ byte2 (originParent r.origin)
    ++ byteOpt r.requested ++ byteOpt (r.assigned.map Assignment.track)
    ++ byteOpt (r.assigned.map (fun a => assignReasonCode a.reason))
    ++ byte2 r.declaredLength ++ byteOpt r.declaredAxles ++ byte1 r.measuredAxles ++ byte1 (presence r)
    ++ byte2 (r.releaseSeq.getD 0).toNat ++ byteOpt r.head ++ byteOpt r.tail ++ byteInstant r.headEntry
    ++ byte2 (r.speed.getD 0) ++ byteOpt r.watch ++ byteInstant r.lastMoment ++ byteInstant r.stallDeadline
    ++ byte2 r.marks.toNat ++ diversionBytes r ++ joinedBytes r.joined
    ++ byteOpt r.outcome ++ byteOpt (r.lostReason.map lostReasonCode) ++ byteBool unseen ++ byte1 place

/-- The image of the record that carries a number, as the board stands. -/
def State.recordImageOf (s : State) (n : Nat) (unseen : Bool) : List Byte :=
  match s.record n with
  | some r => recordImage r unseen (if r.state = .pending then queuePlace n s.queue else 0)
  | none => []

/-- The unseen mark of the record that carries a number. -/
def State.unseenOf (s : State) (n : Nat) : Bool :=
  match s.record n with
  | some r => r.unseen
  | none => false

def runStateCode : RunState → Nat
  | .halted => 0
  | .standby => 1
  | .running => 2

def commitResultBytes (now : Instant) : CommitResult → List Byte
  | .none => byte1 0 ++ [Config.slotWhenNone now]
  | .done x => byte1 1 ++ byte1 x
  | .failed x => byte1 2 ++ byte1 x

def generationBytes (now : Instant) : Option (BitVec 16) → List Byte
  | some g => byte1 1 ++ byte2 g.toNat
  | none => byte1 0 ++ byte2 (Config.generationWhenAbsent now).toNat

/-- The count of records in a state. -/
def State.countIn (s : State) (c : CutState) : Nat := (s.records.filter (fun r => r.state == c)).length

def State.countFault (s : State) : Nat :=
  (pointNumbers.filter (fun p => pointUsed s.layout p && (s.point p).state == .fault)).length

def State.countShown (s : State) (x : SectionShown) : Nat :=
  (sectionNumbers.filter (fun n => sectionUsed s.layout n && s.shownState n == x)).length

def State.countNear (s : State) : Nat :=
  (trackNumbers.filter (fun t => trackUsed s.layout t && s.trackCondition t == .near)).length

/-- The flags, then the enables (R165, R172). -/
def flagBytes (s : State) : List Byte := byte2 s.flags.toNat ++ byte2 s.enables.toNat

/-- The status image, 25 bytes (R168, R173). -/
def statusImage (s : State) : List Byte :=
  flagBytes s ++ byte1 (runStateCode s.runState) ++ byte1 (if s.crest = .counting then 1 else 0)
    ++ byte1 (s.countIn .pending) ++ byte1 s.inTree ++ byte1 (s.countIn .lost) ++ byte1 (s.countIn .settled)
    ++ byte1 s.countFault ++ byte1 (s.countShown .unexplained) ++ byte1 (s.countShown .unproven) ++ byte1 s.countNear
    ++ byteBool s.commit.isSome ++ commitResultBytes s.clock s.lastCommit ++ byte1 s.activeSlot
    ++ generationBytes s.clock s.activeGeneration ++ byte4 s.clock

def pointStateCode : PointState → Nat
  | .unsupervised => 0
  | .atRest => 1
  | .throwing => 2
  | .settling => 3
  | .fault => 4

def detectedCode : Detected → Nat
  | .none => 0
  | .at .normal => 1
  | .at .reverse => 2
  | .both => 3

def claimBytes (c : Claim) : List Byte := byte2 c.cut ++ byte1 (positionCode c.position + if c.spent then 0x80 else 0)

/-- The budget in force that a point image shows (R147, R168). -/
def State.budgetShown (s : State) (p : Nat) : Nat :=
  if pointUsed s.layout p then s.budget p else (Config.budgetWhenUnused p s.clock).toNat

/-- The point image, 26 bytes plus 3 per claim (R147, R168). A point not in use shows UNSUPERVISED, NONE, the drive off, no switch section and
no claim, whatever its entry holds. -/
def pointImage (s : State) (p : Nat) : List Byte :=
  let used := pointUsed s.layout p
  let e := s.point p
  let claims := if used then s.claimsAt p else []
  byte1 p ++ byteBool used ++ byte1 (if used then switchSection s.layout p else 0)
    ++ byte1 (if used then pointStateCode e.state else 0) ++ byte1 (if e.mode = .manual then 1 else 0)
    ++ byte1 (detectedCode (s.detected p)) ++ byteOpt (e.target.map positionCode)
    ++ byteOpt ((if used then e.drive else none).map positionCode)
    ++ byte1 (e.throwLimit.isSome.toNat + 2 * e.settleTimer.isSome.toNat) ++ byteInstant e.throwLimit ++ byteInstant e.settleTimer
    ++ byte4 e.lastSettled ++ byteBool (s.hasStood p) ++ byte2 (s.budgetShown p) ++ byteBool (s.locked p)
    ++ byte1 claims.length ++ claims.flatMap claimBytes

def shownCode : SectionShown → Nat
  | .clear => 0
  | .occupied => 1
  | .unexplained => 2
  | .unproven => 3

/-- The input that a section image shows (R102): for a section not in use, the channel of its own number, if no section in use names it. -/
def State.inputShown (s : State) (x : Nat) : Bool :=
  if sectionUsed s.layout x then s.sectionInput x else (sectionOfChannel s.layout x).isNone && s.channel x

/-- The section image, 12 bytes plus 2 per occupant (R102, R168). -/
def sectionImage (s : State) (x : Nat) : List Byte :=
  let used := sectionUsed s.layout x
  let e := if used then s.section x else SectionEntry.initial
  let proving := if s.shownState x = .unproven then e.proving else none
  let point := pointOfSection s.layout x
  byte1 x ++ byteBool used ++ byteBool (s.inputShown x) ++ byte1 (shownCode (s.shownState x))
    ++ byteOpt point ++ byteBool (point.isSome && s.shownState x != .clear)
    ++ byteBool proving.isSome ++ byteInstant proving ++ byte1 e.occupants.length ++ e.occupants.flatMap byte2

def conditionCode : TrackCondition → Nat
  | .opened => 0
  | .near => 1
  | .closed => 2

/-- The track image, 15 bytes (R80, R168). -/
def trackImage (s : State) (t : Nat) : List Byte :=
  byte1 t ++ byteBool (trackUsed s.layout t) ++ byte2 (capacity s.layout t) ++ byte2 (nearMargin s.layout t)
    ++ byte1 (alternateTrack s.layout t) ++ byte2 (s.track t).fill ++ byte2 (s.committedLength t)
    ++ byteBool ((s.track t).setting == .opened) ++ byte2 (s.freeLength t) ++ byte1 (conditionCode (s.trackCondition t))

end Sys2Proof.Machine
end

