-- ==== Sys2Proof/Machine/Answers.lean ====
section
/-! DEFINITION. How a request is taken and answered by the Link Interface (R160 to R163, R158). -/

namespace Sys2Proof.Machine

/-- The outcome of a request (R162). -/
inductive ReplyCode where
  | accepted
  | badFormat
  | badValue
  | notFound
  | duplicate
  | tableFull
  | wrongState
  | runState
  | tooLate
  | cannotTake
  | notAllowed
  | busy
  | inTree
  | checkFailed
  deriving DecidableEq, Repr

def replyByte : ReplyCode → Byte
  | .accepted => 0x00
  | .badFormat => 0x01
  | .badValue => 0x02
  | .notFound => 0x03
  | .duplicate => 0x04
  | .tableFull => 0x05
  | .wrongState => 0x06
  | .runState => 0x07
  | .tooLate => 0x08
  | .cannotTake => 0x09
  | .notAllowed => 0x0A
  | .busy => 0x0B
  | .inTree => 0x0C
  | .checkFailed => 0x0D

/-- The byte of a check code (R162). -/
def checkByte : CheckCode → Byte
  | .tree => 1
  | .switch => 2
  | .track => 3
  | .fallback => 4
  | .channel => 5
  | .range => 6
  | .default => 7
  | .none => 8

/-- What an owner makes of a request: the board after it, and the answer's body, outcome byte first. -/
abbrev Owned := State × List Byte

/-- A refusal changes nothing (R36, R162). -/
def refuse (c : ReplyCode) (s : State) : Owned := (s, [replyByte c])

/-- An acceptance with the answer's further bytes. -/
def accept (body : List Byte) (s : State) : Owned := (s, replyByte .accepted :: body)

/-- The code of an answer: the request's with 80h added, but for a code at or above 80h the code itself (R162). -/
def answerCode (code : Byte) : Byte := if code.toNat < 0x80 then code + 0x80#8 else code

/-- The frame of an answer on the wire (R160, R161). -/
def frameBytes (code : Byte) (body : List Byte) : List Byte :=
  let counted := BitVec.ofNat 8 (body.length + 1) :: code :: body
  0xA5#8 :: counted ++ byte2 (crc counted).toNat

/-- The request with a code is in hand, its answer being sent (R162, R163). -/
def answering (code : Byte) (body : List Byte) (s : State) : State := { s with inHand := some { code := answerCode code, body := body } }

/-- A good frame completes while a request is in hand: held, or discarded when one is held already (R163). -/
def holdFrame (code : Byte) (s : State) : State := if s.held.isSome then s else { s with held := some code }

/-- STATUS, the only request answered while the store is COMMITTING (R158). -/
def statusCode : Byte := 0x60#8

/-- A complete good frame is taken (R162, R163): held while a request is in hand; BUSY while the store is COMMITTING, but for STATUS;
BAD_FORMAT when its body does not parse; else handed to its owner. -/
def takeRequest {α : Type} (code : Byte) (body : Option α) (owner : α → State → Owned) (s0 : State) : State :=
  let s := { s0 with receiver := .hunting }
  if s.inHand.isSome then holdFrame code s
  else if s.commit.isSome && code != statusCode then answering code [replyByte .busy] s
  else
    match body with
    | none => answering code [replyByte .badFormat] s
    | some q => answering code (owner q s).2 (owner q s).1

end Sys2Proof.Machine
end

