-- ==== Sys2Proof/Machine/ControlRequests.lean ====
section
/-! DEFINITION. Run control: RUN and RESET, entry to STANDBY and the halt (R148 to R154), and the flag requests and STATUS (R172, R173). -/

namespace Sys2Proof.Machine

/-! ### The halt (R152) -/

/-- The in-tree cuts. -/
def State.inTreeCuts (s : State) : List Nat := (s.records.filter (fun r => r.state.inTree)).map Record.number

/-- A section entry with its marks clear and its proving timer stopped (R84, R152). -/
def SectionEntry.quiet (e : SectionEntry) : SectionEntry := { e with unexplained := false, unproven := false, proving := none }

/-- A point in HALTED (R135): mode, last-settled time and whether it has stood are kept. -/
def PointEntry.unsupervise (e : PointEntry) : PointEntry :=
  { e with state := .unsupervised, target := none, drive := none, throwLimit := none, settleTimer := none, idleTimer := none }

/-- The Crest Counter goes to IDLE and clears remnant-due (R48). -/
def crestQuiet (s : State) : State :=
  { s with crest := .idle, crestCut := none, target := none, separation := none, remnantDue := none }

/-- The move to HALTED, plain or forced (R152). No throw decision is taken (R114). -/
def halt (s : State) : State :=
  let s1 := loseCuts .halted s.inTreeCuts s
  let s2 := crestQuiet s1
  { s2 with
    sections := Table.update SectionEntry.initial SectionEntry.quiet s2.sections
    points := Table.update PointEntry.initial PointEntry.unsupervise s2.points
    runState := .halted }

/-! ### Entry to STANDBY (R84, R135, R150) -/

/-- The tracker reads a section in use (R84). -/
def readSection (s : State) (x : Nat) : State :=
  changeSection x (fun e => { e with unexplained := s.sectionInput x, unproven := false, proving := none }) s

/-- The Point Drivers read a point in use (R135). -/
def readPoint (s : State) (p : Nat) : State :=
  changePoint p (fun e => { e with
    state := if (s.detection p).isSome then .atRest else .fault
    target := none, drive := none, throwLimit := none, settleTimer := none
    lastSettled := s.clock, idleTimer := s.idleFromNow, stood := false }) s

/-- The move from HALTED to STANDBY, the checks having passed (R150). -/
def enterStandby (s : State) : State :=
  let sections := sectionNumbers.filter (sectionUsed s.layout)
  let points := pointNumbers.filter (pointUsed s.layout)
  let s1 := { s with tree := deriveTree s.layout, runState := .standby }
  let s2 := latchIf (sections.any s.sectionInput) .sectionCause (sections.foldl readSection s1)
  latchIf (points.any (fun p => (s.detection p).isNone)) .pointFault (points.foldl readPoint s2)

/-! ### RUN (R149) -/

/-- FORCE is a switch, and is read only when the target is HALTED (R149, R165). -/
def runValuesOk (q : ItemValue) : Bool := q.item != 0 || q.value ≤ 1

/-- An accepted RUN answers the run state. -/
def runAccepted (s : State) : Owned := accept (byte1 (runStateCode s.runState)) s

def runRequest (q : ItemValue) (s : State) : Owned :=
  match runTargetOf q.item with
  | none => refuse .badValue s
  | some x =>
    if runValuesOk q = false then refuse .badValue s
    else if x = s.runState then runAccepted s
    else
      match s.runState, x with
      | .halted, .running => refuse .runState s
      | .halted, _ =>
        match layoutCheck s.active with
        | some c => (latch .run s, [replyByte .checkFailed, checkByte c])
        | none => runAccepted (enterStandby s)
      | _, .halted => if s.inTree > 0 ∧ q.value = 0 then refuse .inTree s else runAccepted (halt s)
      | _, y => runAccepted { s with runState := y }

def execRun (body : List Byte) (s : State) : Host.Outcome State Fault Refusal :=
  .next (finish (takeRequest 0x40#8 (parseItemValue body) runRequest s))

/-! ### RESET (R154) -/

/-- A track entry with nothing committed (R78, R154). -/
def TrackEntry.uncommitted (e : TrackEntry) : TrackEntry := { e with committed := 0 }

/-- The warm reset (R154). -/
def warmReset (s : State) : State :=
  let s1 := halt s
  { s1 with
    records := [], queue := [], flags := 0
    tracks := Table.update TrackEntry.initial TrackEntry.uncommitted s1.tracks }

def resetRequest (_ : Unit) (s : State) : Owned := accept [] (warmReset s)

def execWarmReset (body : List Byte) (s : State) : Host.Outcome State Fault Refusal :=
  .next (finish (takeRequest 0x41#8 (parseEmpty body) resetRequest s))

/-! ### STATUS, CLEAR FLAGS, ENABLE FLAGS (R172, R173) -/

def statusRequest (_ : Unit) (s : State) : Owned := accept (statusImage s) s

def execStatus (body : List Byte) (s : State) : Host.Outcome State Fault Refusal :=
  .next (finish (takeRequest statusCode (parseEmpty body) statusRequest s))

/-- A mask names only the eleven flags (R165, R172). -/
def maskOk (m : Nat) : Bool := m < 2048

def clearFlagsRequest (m : Nat) (s : State) : Owned :=
  if maskOk m = false then refuse .badValue s
  else
    let s' := { s with flags := s.flags &&& ~~~(BitVec.ofNat 11 m) }
    accept (flagBytes s') s'

def execClearFlags (body : List Byte) (s : State) : Host.Outcome State Fault Refusal :=
  .next (finish (takeRequest 0x61#8 (parseMask body) clearFlagsRequest s))

def enableFlagsRequest (m : Nat) (s : State) : Owned :=
  if maskOk m = false then refuse .badValue s
  else
    let s' := { s with enables := BitVec.ofNat 11 m }
    accept (flagBytes s') s'

def execEnableFlags (body : List Byte) (s : State) : Host.Outcome State Fault Refusal :=
  .next (finish (takeRequest 0x62#8 (parseMask body) enableFlagsRequest s))

end Sys2Proof.Machine
end

