-- ==== Sys2Proof/Machine/CrestEvents.lean ====
section
/-! DEFINITION. The Crest Counter: axle pulses, release, joins and separation (R48 to R64). -/

namespace Sys2Proof.Machine

/-! ### Release (R50 to R53) -/

/-- The next unlisted number no record carries, from a counter value on (R22). -/
def freeNumber (s : State) : Nat → Nat → Nat
  | 0, c => c
  | k + 1, c => if (s.record c).isSome then freeNumber s k (if c = 65535 then Config.firstUnlisted else c + 1) else c

/-- The number the next unlisted record takes (R22): at most 48 numbers are carried. -/
def State.nextUnlisted (s : State) : Nat := freeNumber s (s.records.length + 1) s.unlistedCounter

/-- The counter after a number has been taken (R22). -/
def afterUnlisted (n : Nat) : Nat := if n = 65535 then Config.firstUnlisted else n + 1

/-- An unlisted record as it is created (R51); its state is set by the release in the same change. -/
def unlistedRecord (n : Nat) (o : Origin) (s : State) : Record :=
  { number := n, state := .pending, origin := o, requested := some (defaultTrack s.layout), assigned := none
    declaredLength := unlistedLength s.layout, declaredAxles := none, measuredAxles := 0, releaseSeq := none
    head := none, tail := none, headEntry := none, speed := none, watch := none, lastMoment := none, stallDeadline := none
    diversions := [], more := false, joined := none, marks := 0, outcome := none, lostReason := none, unseen := true
    timed := false, firstAxle := 0, standTimer := .stopped, timer := .stopped, unplannedBelow := none }

/-- A record takes the release sequence counter's value (R25). -/
def Record.sequenced (s : State) (r : Record) : Record := { r with releaseSeq := some s.seqCounter }

/-- The release sequence counter advances (R25). -/
def nextSequence (s : State) : State := { s with seqCounter := s.seqCounter + 1 }

/-- The record of a cut released at its first axle (R52). -/
def Record.released (s : State) (r : Record) : Record :=
  { r.sequenced s with
    state := .releasing, measuredAxles := 1, speed := some (releaseSpeed s.layout), firstAxle := s.clock }

/-- The record of a cut for which the tree is full (R53). -/
def Record.overloaded (s : State) (r : Record) : Record :=
  { r.sequenced s with state := .lost, lostReason := some .overload, measuredAxles := 1 }

/-- The track of a cut at its release (R52, R70, R73): `r` is its record as it was chosen. -/
def assignAtRelease (n : Nat) (r : Record) (s : State) : State :=
  match r.origin with
  | .listed =>
    match r.requested with
    | some t => releaseAssignment n t s
    | none => latch .needsTrack s
  | .noList | .standbyRelease | .remnant _ => assignTrack n (defaultTrack s.layout) .defaultUnlisted s

/-- The chosen record is released, or made LOST OVERLOAD when 24 cuts are in the tree (R52, R53). `old` is the state before the pulse. -/
def releaseCut (old : State) (n : Nat) (s : State) : State :=
  match s.record n with
  | none => s
  | some r =>
    if s.inTree < Config.maxInTree then
      followCut old n (redoClaims n (assignAtRelease n r (joinTree (nextSequence (changeRecord n (Record.released s) s)))))
    else latch .lost (nextSequence (changeRecord n (Record.overloaded s) s))

/-- The Crest Counter counts a group whose crest cut and counting target are the record released, or none (R50, R62). -/
def startGroup (n : Option Nat) (s : State) : State := { s with crest := .counting, crestCut := n, target := n }

/-- An unlisted record is created and released, or the group is counted untracked when no slot is free (R51). -/
def releaseUnlisted (old : State) (o : Origin) (s : State) : State :=
  if s.freeSlots = 0 then startGroup none (latch .crest s)
  else
    let n := s.nextUnlisted
    let s1 := addRecord (unlistedRecord n o s) { s with unlistedCounter := afterUnlisted n }
    startGroup (some n) (releaseCut old n s1)

/-- The first axle of a group (R50). -/
def firstAxle (s : State) : State :=
  let s1 := latchIf (s.runState == .standby) .run s
  match s1.remnantDue with
  | some parent => releaseUnlisted s (.remnant parent) { s1 with remnantDue := none }
  | none =>
    if s1.runState = .standby then releaseUnlisted s .standbyRelease s1
    else
      match s1.queue with
      | [] => releaseUnlisted s .noList s1
      | n :: rest => startGroup (some n) (releaseCut s n { s1 with queue := rest })

/-! ### Counting and joins (R54 to R58) -/

/-- A pulse is counted on a record, up to 255 (R49). -/
def countAxle (n : Nat) (s : State) : State := changeRecord n (fun r => { r with measuredAxles := min 255 (r.measuredAxles + 1) }) s

/-- A join is possible with this crest cut and this queue head (R54). -/
def joinPair (s : State) : Option (Nat × Nat) :=
  match s.crestCut, s.queue with
  | some c, n :: _ =>
    match s.record c with
    | some r => if s.runState = .running ∧ r.followers.length < Config.maxFollowers then some (c, n) else none
    | none => none
  | _, _ => none

/-- The record of a follower as it is joined to a leader (R29, R55). -/
def Record.joinedTo (s : State) (c : Nat) (r : Record) : Record :=
  { r.sequenced s with
    state := .joined, measuredAxles := 1, joined := some (.follower c), assigned := (s.record c).bind Record.assigned }

/-- The record of a leader that gains a follower (R29). -/
def Record.withFollower (n : Nat) (r : Record) : Record := { r with joined := some (.leader (r.followers ++ [n])) }

/-- A follower's length goes to the leader's track (R56, and R57 where the default track does not lie below the head). -/
def commitFollower (c n t : Nat) (s : State) : State :=
  addMarkIf (!s.canTake t (s.effective n)) .overfill c (commitLength t (s.effective n) s)

/-- The leader and its followers are sent to the default track (R57): the group before the join leaves its old track. -/
def rehumpGroup (c n a : Nat) (s : State) : State :=
  let d := defaultTrack s.layout
  let s1 := setAssignment c { track := d, reason := .defaultJoin } s
  if a = d then commitFollower c n d s1
  else
    addMarkIf (!s.canTake d (s.groupLength c)) .overfill c
      (commitLength d (s.groupLength c) (releaseLength a (s.groupLength c - s.effective n) s1))

/-- The group's track after a join to an in-tree crest cut (R56, R57); the join itself has been recorded. `old` is the state before the pulse. -/
def joinPolicyTrack (old : State) (c n : Nat) (s : State) : State :=
  match s.record c with
  | none => s
  | some r =>
    if joinPolicy s.layout = 2 then
      match r.assigned with
      | none => followCut old c (redoClaims c (assignTrack c (defaultTrack s.layout) .defaultJoin s))
      | some a =>
        if s.tree.trackBelow (defaultTrack s.layout) (r.head.getD 1) then
          followCut old c (redoClaims c (rehumpGroup c n a.track s))
        else commitFollower c n a.track s
    else
      match r.assigned with
      | none => s
      | some a => commitFollower c n a.track s

/-- A follower joined to a crest cut that has left the tree goes its way (R58). -/
def joinOutcome (c n : Nat) (s : State) : State :=
  match s.record c with
  | none => s
  | some r =>
    match r.state with
    | .lost => latch .lost (changeRecord n (Record.lose .leaderLost) s)
    | .settled => changeRecord n (Record.settle (r.outcome.getD 0)) s
    | .pending | .releasing | .rolling | .stalled | .joined => s

/-- The queue head is joined to the crest cut (R55). -/
def joinCut (c n : Nat) (s : State) : State :=
  let s1 := latch .crest
    (changeRecord c (Record.withFollower n)
      (nextSequence (changeRecord n (Record.joinedTo s c) { s with queue := s.queue.drop 1, target := some n })))
  if s.isInTree c then joinPolicyTrack s c n s1 else joinOutcome c n s1

/-- A pulse taken while COUNTING (R54, R62). -/
def countPulse (s : State) : State :=
  match s.target with
  | none => s
  | some n =>
    match s.record n with
    | none => s
    | some r =>
      match r.declaredAxles with
      | none => countAxle n s
      | some d =>
        if r.measuredAxles < d then countAxle n s
        else
          match joinPair s with
          | some cn => joinCut cn.1 cn.2 s
          | none => addMark .overcount n (countAxle n s)

/-- An axle pulse in STANDBY or RUNNING (R49): the separation timer restarts, then the pulse is dealt with by the crest state. -/
def takePulse (s : State) : State :=
  let s1 := { s with separation := some (later s.clock (separationGap s.layout)) }
  match s1.crest with
  | .idle => firstAxle s1
  | .counting => countPulse s1

def execAxlePulse (s : State) : Host.Outcome State Fault Refusal :=
  if s.supervised then .next (finish (takePulse s)) else .next s

/-! ### Separation (R59, R60) -/

/-- The counting target is a listed record that fell short (R59). -/
def State.shortTarget (s : State) : Option Nat :=
  match s.target with
  | none => none
  | some n =>
    match s.record n with
    | none => none
    | some r =>
      match r.declaredAxles with
      | none => none
      | some d => if r.measuredAxles < d then some n else none

/-- The SHORT test (R59). -/
def shortTest (s : State) : State :=
  match s.shortTarget with
  | some n => latch .crest (addMark .short n { s with remnantDue := some n })
  | none => s

/-- The crest cut becomes ROLLING if it is RELEASING (R60). -/
def letGo (s : State) : State :=
  match s.crestCut with
  | some c => changeRecord c (fun r => if r.state = .releasing then { r with state := .rolling } else r) s
  | none => s

/-- The group has separated (R59, R60). -/
def separate (s : State) : State := { letGo (shortTest s) with crest := .idle, crestCut := none, target := none, separation := none }

def execSeparation (s : State) : Host.Outcome State Fault Refusal :=
  match s.separation with
  | none => .next s
  | some t => if s.crest = .counting ∧ due s.clock t = true then .next (finish (separate s)) else .next s

end Sys2Proof.Machine
end

