-- ==== Sys2Proof/Machine/CutRequests.lean ====
section
/-! DEFINITION. The requests against cut records: ENTER, AMEND, WITHDRAW, QUERY, LIST, COLLECT, ABANDON (R36 to R47). -/

namespace Sys2Proof.Machine

/-! ### ENTER (R37, R38) -/

/-- ENTER's values are in their ranges (R37, step 2). -/
def enterValuesOk (q : EnterBody) (s : State) : Bool :=
  1 ≤ q.cut && q.cut ≤ 61439 && trackValueOk s.layout q.track && lengthValueOk q.length && axlesValueOk q.axles
    && q.beforePresent ≤ 1 && !(q.beforePresent == 1 && q.before == 0)

/-- The record that an accepted ENTER makes (R38). -/
def listedRecord (q : EnterBody) : Record :=
  { number := q.cut, state := .pending, origin := .listed, requested := requestedOf q.track, assigned := none
    declaredLength := q.length, declaredAxles := some q.axles, measuredAxles := 0, releaseSeq := none
    head := none, tail := none, headEntry := none, speed := none, watch := none, lastMoment := none, stallDeadline := none
    diversions := [], more := false, joined := none, marks := 0, outcome := none, lostReason := none, unseen := true
    timed := false, firstAxle := 0, standTimer := .stopped, timer := .stopped, unplannedBelow := none }

/-- The humping queue after an accepted ENTER (R38). -/
def enterQueue (q : EnterBody) (l : List Nat) : List Nat := if q.beforePresent = 1 then queueBefore q.cut q.before l else l ++ [q.cut]

/-- The board after an accepted ENTER (R38). -/
def enterAccepted (q : EnterBody) (s : State) : State := addRecord (listedRecord q) { s with queue := enterQueue q s.queue }

def enterRequest (q : EnterBody) (s : State) : Owned :=
  if s.runState = .halted then refuse .runState s
  else if enterValuesOk q s = false then refuse .badValue s
  else if (s.record q.cut).isSome then refuse .duplicate s
  else if q.beforePresent = 1 ∧ s.isIn q.before .pending = false then refuse .notFound s
  else if s.freeSlots = 0 then refuse .tableFull s
  else
    let s' := enterAccepted q s
    accept (byte1 (queuePlace q.cut s'.queue) ++ byte1 s'.freeSlots) s'

def execEnter (body : List Byte) (s : State) : Host.Outcome State Fault Refusal :=
  .next (finish (takeRequest 0x10#8 (parseEnter body) enterRequest s))

/-! ### AMEND (R39 to R42) -/

/-- AMEND's values are in their ranges (R36, R39, R165). -/
def amendValuesOk (q : AmendBody) (s : State) : Bool :=
  q.cut != 0 && q.mask != 0 && q.mask.toNat < 8
    && (!q.namesTrack || trackValueOk s.layout q.track)
    && (!q.namesLength || lengthValueOk q.length)
    && (!q.namesAxles || axlesValueOk q.axles)

/-- A PENDING record with the named fields changed (R39). -/
def Record.amended (q : AmendBody) (r : Record) : Record :=
  { r with
    requested := if q.namesTrack then requestedOf q.track else r.requested
    declaredLength := if q.namesLength then q.length else r.declaredLength
    declaredAxles := if q.namesAxles then some q.axles else r.declaredAxles }

/-- The answer of an accepted AMEND or ABANDON: the record image after the change, with the unseen mark as it stood before (R36, R167). -/
def acceptImage (before : State) (n : Nat) (s : State) : Owned := accept (s.recordImageOf n (before.unseenOf n)) s

/-- The requested track of a cut takes a value. -/
def setRequested (n t : Nat) (s : State) : State := changeRecord n (fun r => { r with requested := some t }) s

/-- AMEND of an in-tree cut that has an assigned track (R40): the reassignment and the redone claims. -/
def amendTrack (n t : Nat) (s : State) : State := followCut s n (redoClaims n (reassign n t .requested (setRequested n t s)))

/-- AMEND of an in-tree cut still waiting for its track (R41, R74). -/
def amendWaiting (n t : Nat) (s : State) : State := followCut s n (redoClaims n (releaseAssignment n t (setRequested n t s)))

/-- AMEND of an in-tree record (R40, R41). -/
def amendInTree (q : AmendBody) (r : Record) (s : State) : Owned :=
  if q.namesLength ∨ q.namesAxles ∨ q.track = 0 then refuse .wrongState s
  else
    match r.assigned with
    | none => acceptImage s q.cut (amendWaiting q.cut q.track s)
    | some a =>
      if a.track = q.track then acceptImage s q.cut (setRequested q.cut q.track s)
      else if s.tree.trackBelow q.track (r.head.getD 1) = false then refuse .tooLate s
      else if s.canTake q.track (s.groupLength q.cut) = false then refuse .cannotTake s
      else acceptImage s q.cut (amendTrack q.cut q.track s)

def amendRequest (q : AmendBody) (s : State) : Owned :=
  if s.runState = .halted then refuse .runState s
  else if amendValuesOk q s = false then refuse .badValue s
  else
    match s.record q.cut with
    | none => refuse .notFound s
    | some r =>
      match r.state with
      | .pending => acceptImage s q.cut (changeRecord q.cut (Record.amended q) s)
      | .releasing | .rolling | .stalled => amendInTree q r s
      | .joined | .settled | .lost => refuse .wrongState s

def execAmend (body : List Byte) (s : State) : Host.Outcome State Fault Refusal :=
  .next (finish (takeRequest 0x11#8 (parseAmend body) amendRequest s))

/-! ### WITHDRAW (R43) -/

/-- The board after an accepted WITHDRAW. -/
def withdrawn (n : Nat) (s : State) : State := freeRecord n { s with queue := s.queue.filter (fun m => m != n) }

def withdrawRequest (n : Nat) (s : State) : Owned :=
  if n = 0 then refuse .badValue s
  else if (s.record n).isNone then refuse .notFound s
  else if s.isIn n .pending = false then refuse .wrongState s
  else accept (byte1 (withdrawn n s).freeSlots) (withdrawn n s)

def execWithdraw (body : List Byte) (s : State) : Host.Outcome State Fault Refusal :=
  .next (finish (takeRequest 0x12#8 (parseCut body) withdrawRequest s))

/-! ### QUERY (R44) -/

/-- A record's unseen mark is cleared; no flag latches (R33, R44). -/
def clearUnseen (n : Nat) (s : State) : State :=
  { s with records := s.records.map (fun r => if r.number = n then { r with unseen := false } else r) }

def queryRequest (n : Nat) (s : State) : Owned :=
  if n = 0 then refuse .badValue s
  else if (s.record n).isNone then refuse .notFound s
  else accept (s.recordImageOf n (s.unseenOf n)) (clearUnseen n s)

def execQuery (body : List Byte) (s : State) : Host.Outcome State Fault Refusal :=
  .next (finish (takeRequest 0x13#8 (parseCut body) queryRequest s))

/-! ### LIST (R45) -/

/-- The state is in the set; an empty set stands for all seven (R45, R165). -/
def stateInSet (m : Byte) (c : CutState) : Bool := m == 0 || m.getLsbD (stateCode c - 1)

/-- A record passes LIST's filter (R45). -/
def listPasses (q : ListBody) (r : Record) : Bool := stateInSet q.states r.state && (q.unseenOnly == 0 || r.unseen)

/-- The numbers LIST answers: PENDING ones in queue order, then the others earliest first (R45). -/
def listNumbers (q : ListBody) (s : State) : List Nat :=
  let passed := s.records.filter (listPasses q)
  let pendings := (passed.filter (fun r => r.state == .pending)).map Record.number
  s.queue.filter (fun n => pendings.contains n)
    ++ sortCuts s ((passed.filter (fun r => r.state != .pending)).map Record.number)

def listRequest (q : ListBody) (s : State) : Owned :=
  if q.states.toNat ≥ 0x80 ∨ q.unseenOnly > 1 then refuse .badValue s
  else accept (byte1 (listNumbers q s).length ++ (listNumbers q s).flatMap byte2) s

def execList (body : List Byte) (s : State) : Host.Outcome State Fault Refusal :=
  .next (finish (takeRequest 0x14#8 (parseList body) listRequest s))

/-! ### COLLECT (R46, R64) -/

/-- A freed record is no longer the crest cut nor the counting target (R64). -/
def forgetCrest (n : Nat) (s : State) : State :=
  { s with
    crestCut := if s.crestCut = some n then none else s.crestCut
    target := if s.target = some n then none else s.target }

def collected (n : Nat) (s : State) : State := forgetCrest n (freeRecord n s)

def collectRequest (n : Nat) (s : State) : Owned :=
  if n = 0 then refuse .badValue s
  else if (s.record n).isNone then refuse .notFound s
  else if s.isIn n .settled = false ∧ s.isIn n .lost = false then refuse .wrongState s
  else accept (s.recordImageOf n (s.unseenOf n)) (collected n s)

def execCollect (body : List Byte) (s : State) : Host.Outcome State Fault Refusal :=
  .next (finish (takeRequest 0x15#8 (parseCut body) collectRequest s))

/-! ### ABANDON (R47) -/

def abandoned (n : Nat) (s : State) : State := followUp s [] [] (loseCut .abandoned n s)

def abandonRequest (n : Nat) (s : State) : Owned :=
  if n = 0 then refuse .badValue s
  else if (s.record n).isNone then refuse .notFound s
  else if s.isInTree n = false then refuse .wrongState s
  else acceptImage s n (abandoned n s)

def execAbandon (body : List Byte) (s : State) : Host.Outcome State Fault Refusal :=
  .next (finish (takeRequest 0x16#8 (parseCut body) abandonRequest s))

end Sys2Proof.Machine
end

