-- ==== Sys2Proof/Machine/FieldRequests.lean ====
section
/-! DEFINITION. The requests of the Track Table, the Occupancy Tracker and the Point Drivers (R79, R80, R102, R144 to R147). -/

namespace Sys2Proof.Machine

/-! ### Tracks -/

/-- The board after an accepted TRACK SET (R79). -/
def trackWritten (t fill : Nat) (x : TrackSetting) (s : State) : State := changeTrack t (fun e => { e with fill := fill, setting := x }) s

def trackSetRequest (q : TrackSetBody) (s : State) : Owned :=
  match settingOf q.setting with
  | none => refuse .badValue s
  | some x =>
    if trackUsed s.layout q.track = false then refuse .badValue s
    else
      let s' := trackWritten q.track q.fill x s
      accept (trackImage s' q.track) s'

def execTrackSet (body : List Byte) (s : State) : Host.Outcome State Fault Refusal :=
  .next (finish (takeRequest 0x20#8 (parseTrackSet body) trackSetRequest s))

def trackReadRequest (t : Nat) (s : State) : Owned :=
  if t < 1 ∨ 64 < t then refuse .badValue s else accept (trackImage s t) s

def execTrackRead (body : List Byte) (s : State) : Host.Outcome State Fault Refusal :=
  .next (finish (takeRequest 0x21#8 (parseItem body) trackReadRequest s))

/-! ### Sections -/

def sectionReadRequest (x : Nat) (s : State) : Owned :=
  if x < 1 ∨ 128 < x then refuse .badValue s else accept (sectionImage s x) s

def execSectionRead (body : List Byte) (s : State) : Host.Outcome State Fault Refusal :=
  .next (finish (takeRequest 0x28#8 (parseItem body) sectionReadRequest s))

/-! ### Points -/

/-- The board after an accepted POINT MODE (R144): a return from MANUAL to AUTO takes the throw decision at the point. -/
def modeSet (p : Nat) (m : PointMode) (s : State) : State :=
  let s' := changePoint p (fun e => { e with mode := m }) s
  if (s.point p).mode = .manual ∧ m = .auto then followUp s [p] [] s' else s'

def pointModeRequest (q : ItemValue) (s : State) : Owned :=
  if s.runState = .halted then refuse .runState s
  else
    match modeOf q.value with
    | none => refuse .badValue s
    | some m =>
      if pointUsed s.layout q.item = false then refuse .badValue s
      else
        let s' := modeSet q.item m s
        accept (pointImage s' q.item) s'

def execPointMode (body : List Byte) (s : State) : Host.Outcome State Fault Refusal :=
  .next (finish (takeRequest 0x30#8 (parseItemValue body) pointModeRequest s))

/-- The conditions of POINT THROW (R145, step 3). -/
def throwAllowed (p : Nat) (s : State) : Bool :=
  (s.point p).mode == .manual && (s.point p).state == .atRest && !s.locked p && (s.claimsAt p).isEmpty

/-- The board after an accepted POINT THROW (R145): no throw starts when the point lies there already. -/
def manualThrow (p : Nat) (x : Position) (s : State) : State :=
  if s.detected p = .at x then s else followUp s [] [] (startThrow p x s)

def pointThrowRequest (q : ItemValue) (s : State) : Owned :=
  if s.runState = .halted then refuse .runState s
  else
    match positionOf q.value with
    | none => refuse .badValue s
    | some x =>
      if pointUsed s.layout q.item = false then refuse .badValue s
      else if throwAllowed q.item s = false then refuse .notAllowed s
      else
        let s' := manualThrow q.item x s
        accept (pointImage s' q.item) s'

def execPointThrow (body : List Byte) (s : State) : Host.Outcome State Fault Refusal :=
  .next (finish (takeRequest 0x31#8 (parseItemValue body) pointThrowRequest s))

/-- The board after an accepted POINT RESET (R146). -/
def pointTakenBack (p : Nat) (x : Position) (s : State) : State := followUp s [] [] (startSettle p x s)

def pointResetRequest (p : Nat) (s : State) : Owned :=
  if s.runState = .halted then refuse .runState s
  else if pointUsed s.layout p = false then refuse .badValue s
  else
    match s.detection p with
    | none => refuse .notAllowed s
    | some x =>
      if (s.point p).state ≠ .fault ∨ (s.point p).drive ≠ none then refuse .notAllowed s
      else
        let s' := pointTakenBack p x s
        accept (pointImage s' p) s'

def execPointReset (body : List Byte) (s : State) : Host.Outcome State Fault Refusal :=
  .next (finish (takeRequest 0x32#8 (parseItem body) pointResetRequest s))

def pointReadRequest (p : Nat) (s : State) : Owned :=
  if p < 1 ∨ 63 < p then refuse .badValue s else accept (pointImage s p) s

def execPointRead (body : List Byte) (s : State) : Host.Outcome State Fault Refusal :=
  .next (finish (takeRequest 0x33#8 (parseItem body) pointReadRequest s))

end Sys2Proof.Machine
end

