-- ==== Sys2Proof/Machine/LadderEvents.lean ====
section
/-! DEFINITION. The events of the ladder: section inputs, proving timers, stall deadlines, stand timers and last moments (R84 to R98, R104,
R124). An expiry is taken only when its timer is running and has run out (R103); otherwise nothing happens. -/

namespace Sys2Proof.Machine

/-! ### Section inputs (R2, R84 to R93) -/

/-- The level of a channel as last received. -/
def setChannel (c : Nat) (b : Bool) (s : State) : State := { s with channels := Table.write false s.channels c b }

/-- A channel's input goes to a level (R2, R84): outside HALTED the section in use that names the channel is followed. -/
def inputChanges (c : Nat) (b : Bool) (s : State) : State :=
  let s1 := setChannel c b s
  match sectionOfChannel s.layout c with
  | some x => if s.supervised then (if b then sectionEntered s x s1 else sectionLeft s x s1) else s1
  | none => s1

def execSectionOccupied (channel : Nat) (s : State) : Host.Outcome State Fault Refusal :=
  if channelNumber channel = false then .fault (.noSuchChannel channel)
  else if s.channel channel then .next s
  else .next (finish (inputChanges channel true s))

def execSectionClear (channel : Nat) (s : State) : Host.Outcome State Fault Refusal :=
  if channelNumber channel = false then .fault (.noSuchChannel channel)
  else if s.channel channel then .next (finish (inputChanges channel false s))
  else .next s

/-! ### Timers -/

/-- The proving timer of a section has run out. -/
def provingDue (s : State) (x : Nat) : Bool :=
  match (s.section x).proving with
  | some t => (s.section x).unproven && due s.clock t
  | none => false

def execProvingTimerExpiry (sec : Nat) (s : State) : Host.Outcome State Fault Refusal :=
  if provingDue s sec then .next (finish (provingExpires sec s)) else .next s

/-- The stall deadline of a RELEASING or ROLLING cut has passed. -/
def stallDue (s : State) (r : Record) : Bool :=
  match r.stallDeadline with
  | some t => (r.state == .releasing || r.state == .rolling) && due s.clock t
  | none => false

def execStallDeadlineExpiry (cut : Nat) (s : State) : Host.Outcome State Fault Refusal :=
  match s.record cut with
  | none => .next s
  | some r => if stallDue s r then .next (finish (stallPasses cut r s)) else .next s

/-- The stand timer of a STALLED cut has run out. -/
def standDue (s : State) (r : Record) : Bool :=
  match r.standTimer with
  | .running t => r.state == .stalled && due s.clock t
  | .stopped | .ranOut => false

/-- A cut's stand timer runs out (R104): its speed at its resume is 10, clamped. -/
def standPasses (n : Nat) (s : State) : State := changeRecord n (fun r => { r with standTimer := .ranOut }) s

def execStandTimerExpiry (cut : Nat) (s : State) : Host.Outcome State Fault Refusal :=
  match s.record cut with
  | none => .next s
  | some r => if standDue s r then .next (finish (standPasses cut s)) else .next s

def execLastMomentExpiry (cut : Nat) (s : State) : Host.Outcome State Fault Refusal :=
  match s.record cut with
  | none => .next s
  | some r => if lastMomentDue s r then .next (finish (lastMomentExpires cut r s)) else .next s

end Sys2Proof.Machine
end

