-- ==== Sys2Proof/Machine/LayoutRequests.lean ====
section
/-! DEFINITION. The layout requests (R156, R157, R159, R166) and the events that end a commit (R157). -/

namespace Sys2Proof.Machine

/-- The address of a half page (R166, R169). -/
def halfAddress (page half : Nat) : Nat := page * 256 + half * 128

/-- The page and half are ones of the image (R156, R169). -/
def halfOk (page half : Nat) : Bool := page ≤ 8 && half ≤ 1

/-- The check of the whole working copy, as answered (R156). -/
def workingCheck (s : State) : List Byte := byte2 (Image.check s.working Config.imageLength).toNat

def layoutLoadRequest (_ : Unit) (s : State) : Owned :=
  match s.active with
  | none => refuse .notFound s
  | some m =>
    let s' := { s with working := m }
    accept (workingCheck s') s'

def execLayoutLoad (body : List Byte) (s : State) : Host.Outcome State Fault Refusal :=
  .next (finish (takeRequest 0x50#8 (parseEmpty body) layoutLoadRequest s))

/-- A half page of the working copy takes 128 bytes (R156, R166). -/
def writeHalf (q : WriteBody) (s : State) : State :=
  { s with working := Image.writeBytes s.working (halfAddress q.page q.half) q.data }

def layoutWriteRequest (q : WriteBody) (s : State) : Owned :=
  if s.runState ≠ .halted then refuse .runState s
  else if halfOk q.page q.half = false then refuse .badValue s
  else accept (workingCheck (writeHalf q s)) (writeHalf q s)

def execLayoutWrite (body : List Byte) (s : State) : Host.Outcome State Fault Refusal :=
  .next (finish (takeRequest 0x51#8 (parseWrite body) layoutWriteRequest s))

/-! ### Commit (R157) -/

def State.slot (s : State) (x : Nat) : Option SlotContents := Table.read none s.slots x

def setSlot (x : Nat) (c : Option SlotContents) (s : State) : State := { s with slots := Table.write none s.slots x c }

/-- The generation a commit gives a slot (R157). -/
def nextGeneration (c : Option SlotContents) : BitVec 16 :=
  match c with
  | some k => if headerCheck c then k.generation + 1 else 1
  | none => 1

/-- What a commit programs into a slot: the header and the working copy (R157). -/
def commitContents (x : Nat) (name : List Byte) (s : State) : SlotContents :=
  { name := name, generation := nextGeneration (s.slot x), length := Config.imageLength
    check := Image.check s.working Config.imageLength, image := s.working }

/-- Programming of a slot begins; its old contents are erased (R157). -/
def startCommit (x : Nat) (name : List Byte) (s : State) : State :=
  setSlot x none { s with
    commit := some { slot := x, contents := commitContents x name s, timer := later s.clock Config.commitTime } }

def layoutCommitRequest (q : CommitBody) (s : State) : Owned :=
  if s.runState ≠ .halted then refuse .runState s
  else if q.slot > 2 then refuse .badValue s
  else accept (byte2 (nextGeneration (s.slot q.slot)).toNat) (startCommit q.slot q.name s)

def execLayoutCommit (body : List Byte) (s : State) : Host.Outcome State Fault Refusal :=
  .next (finish (takeRequest 0x52#8 (parseCommit body) layoutCommitRequest s))

/-- A commit ends with a result: the store is IDLE, the commit timer stopped, STORE latches (R157). -/
def endCommit (c : CommitResult) (s : State) : State := latch .store { s with commit := none, lastCommit := c }

/-- Programming completes (R157): the store reads the slot back and applies the header check. -/
def completeCommit (k : Commit) (readsBack : Bool) (s : State) : State :=
  let back := if readsBack then some k.contents else none
  endCommit (if headerCheck back then .done k.slot else .failed k.slot) (setSlot k.slot back s)

def execCommitComplete (readsBack : Bool) (s : State) : Host.Outcome State Fault Refusal :=
  match s.commit with
  | none => .next s
  | some k => .next (finish (completeCommit k readsBack s))

def execCommitTimerExpiry (s : State) : Host.Outcome State Fault Refusal :=
  match s.commit with
  | none => .next s
  | some k => if due s.clock k.timer then .next (finish (endCommit (.failed k.slot) s)) else .next s

/-! ### Select and read (R156, R159) -/

/-- A track entry at LAYOUT SELECT: closed, nothing committed, fill kept (R66). -/
def TrackEntry.closeForSelect (e : TrackEntry) : TrackEntry := { e with setting := .closed, committed := 0 }

/-- A slot's image becomes the active layout (R159). Section inputs and detected positions are read through the new layout. -/
def selectSlot (x : Nat) (c : SlotContents) (s : State) : State :=
  { s with
    active := some c.image, activeGeneration := some c.generation, activeSlot := x
    tracks := Table.update TrackEntry.initial TrackEntry.closeForSelect s.tracks }

def layoutSelectRequest (x : Nat) (s : State) : Owned :=
  if s.runState ≠ .halted then refuse .runState s
  else if x > 2 then refuse .badValue s
  else
    match s.slot x with
    | none => refuse .notFound s
    | some c =>
      if headerCheck (some c) = false then refuse .notFound s
      else accept (byte1 x ++ byte2 c.generation.toNat ++ c.name) (selectSlot x c s)

def execLayoutSelect (body : List Byte) (s : State) : Host.Outcome State Fault Refusal :=
  .next (finish (takeRequest 0x53#8 (parseItem body) layoutSelectRequest s))

/-- The answer of an accepted LAYOUT READ: page, half and 128 bytes (R165, R166). -/
def halfBytes (q : ReadBody) (m : Image) : List Byte :=
  byte1 q.page ++ byte1 q.half ++ Image.readBytes m (halfAddress q.page q.half) 128

def layoutReadRequest (q : ReadBody) (s : State) : Owned :=
  if q.source > 1 ∨ halfOk q.page q.half = false then refuse .badValue s
  else if q.source = 1 then accept (halfBytes q s.working) s
  else
    match s.active with
    | none => refuse .notFound s
    | some m => accept (halfBytes q m) s

def execLayoutRead (body : List Byte) (s : State) : Host.Outcome State Fault Refusal :=
  .next (finish (takeRequest 0x54#8 (parseRead body) layoutReadRequest s))

end Sys2Proof.Machine
end

