-- ==== Sys2Proof/Machine/LinkEvents.lean ====
section
/-! DEFINITION. The Link Interface: the receiver, a complete good frame, the request held, the answer's end (R160 to R164). -/

namespace Sys2Proof.Machine

/-! ### A complete good frame (R162, R164) -/

/-- What a complete good frame does, by its code (R162, R164). An unknown code is BAD_FORMAT, or BUSY while the store is COMMITTING. -/
def serveFrame (code : Byte) (body : List Byte) (s : State) : State :=
  if code = 0x10#8 then takeRequest code (parseEnter body) enterRequest s
  else if code = 0x11#8 then takeRequest code (parseAmend body) amendRequest s
  else if code = 0x12#8 then takeRequest code (parseCut body) withdrawRequest s
  else if code = 0x13#8 then takeRequest code (parseCut body) queryRequest s
  else if code = 0x14#8 then takeRequest code (parseList body) listRequest s
  else if code = 0x15#8 then takeRequest code (parseCut body) collectRequest s
  else if code = 0x16#8 then takeRequest code (parseCut body) abandonRequest s
  else if code = 0x20#8 then takeRequest code (parseTrackSet body) trackSetRequest s
  else if code = 0x21#8 then takeRequest code (parseItem body) trackReadRequest s
  else if code = 0x28#8 then takeRequest code (parseItem body) sectionReadRequest s
  else if code = 0x30#8 then takeRequest code (parseItemValue body) pointModeRequest s
  else if code = 0x31#8 then takeRequest code (parseItemValue body) pointThrowRequest s
  else if code = 0x32#8 then takeRequest code (parseItem body) pointResetRequest s
  else if code = 0x33#8 then takeRequest code (parseItem body) pointReadRequest s
  else if code = 0x40#8 then takeRequest code (parseItemValue body) runRequest s
  else if code = 0x41#8 then takeRequest code (parseEmpty body) resetRequest s
  else if code = 0x50#8 then takeRequest code (parseEmpty body) layoutLoadRequest s
  else if code = 0x51#8 then takeRequest code (parseWrite body) layoutWriteRequest s
  else if code = 0x52#8 then takeRequest code (parseCommit body) layoutCommitRequest s
  else if code = 0x53#8 then takeRequest code (parseItem body) layoutSelectRequest s
  else if code = 0x54#8 then takeRequest code (parseRead body) layoutReadRequest s
  else if code = statusCode then takeRequest code (parseEmpty body) statusRequest s
  else if code = 0x61#8 then takeRequest code (parseMask body) clearFlagsRequest s
  else if code = 0x62#8 then takeRequest code (parseMask body) enableFlagsRequest s
  else takeRequest code (none : Option Unit) (fun _ => refuse .badFormat) s

def execUnknownCode (code : Byte) (body : List Byte) (s : State) : Host.Outcome State Fault Refusal :=
  .next (finish (serveFrame code body s))

/-! ### The receiver (R160, R161) -/

/-- The receiver hunts. -/
def hunt (s : State) : State := { s with receiver := .hunting }

/-- A complete frame, start byte first: a good check makes it a request, a bad one discards it (R160). -/
def completeFrame (bytes : List Byte) (s : State) : State :=
  match bytes with
  | _ :: len :: code :: rest =>
    let body := rest.take (len.toNat - 1)
    if rest.drop (len.toNat - 1) = byte2 (crc (len :: code :: body)).toNat then serveFrame code body (hunt s) else hunt s
  | _ => hunt s

/-- The partial frame so far, the last byte of which has come now (R160). -/
def collect (bytes : List Byte) (s : State) : State := { s with receiver := .collecting bytes s.clock }

/-- A byte with a good stop bit reaches the receiver while no gap has passed (R160). -/
def receiveByte (b : Byte) (s : State) : State :=
  match s.receiver with
  | .hunting => if b = 0xA5#8 then collect [b] s else s
  | .collecting [] _ => hunt s
  | .collecting [start] _ => if b = 0#8 ∨ 250 < b.toNat then hunt s else collect [start, b] s
  | .collecting (start :: len :: rest) _ =>
    let bytes := start :: len :: rest ++ [b]
    if bytes.length < len.toNat + 4 then collect bytes s else completeFrame bytes s

/-- More than 20 ms have passed since the last byte of the partial frame came (R160), by the yard clock (log 8). -/
def State.gapPassed (s : State) : Bool :=
  match s.receiver with
  | .hunting => false
  | .collecting _ arrived => Config.byteGap < (s.clock - arrived).toNat

/-- A byte with a good stop bit arrives (R160): after a gap the partial frame is discarded, and the hunting receiver takes the byte. -/
def byteArrives (b : Byte) (s : State) : State := receiveByte b (if s.gapPassed then hunt s else s)

/-- A complete frame whose check disagrees is discarded (R160). -/
def execFrameBadCheck (s : State) : Host.Outcome State Fault Refusal := .next (hunt s)

/-- The byte that ends a gap in a frame arrives (R160). Whether more than 20 ms have passed the receiver reckons itself: while hunting there is no
frame for the gap to be in, and a byte that comes in time is taken into the frame (log 8). -/
def execInterByteGap (next : Byte) (s : State) : Host.Outcome State Fault Refusal := .next (finish (byteArrives next s))

def execStartByte (byte : Byte) (s : State) : Host.Outcome State Fault Refusal := .next (finish (byteArrives byte s))

def execBadLengthByte (byte : Byte) (s : State) : Host.Outcome State Fault Refusal := .next (finish (byteArrives byte s))

/-- A byte with a bad stop bit (R160): a partial frame is discarded; a hunting receiver goes on hunting. -/
def execBadStopBit (s : State) : Host.Outcome State Fault Refusal := .next (hunt s)

/-! ### One request in hand (R163) -/

/-- A good frame completes while a request is in hand (R163); with none in hand it is served (R162). -/
def execRequestHeld (code : Byte) (body : List Byte) (s : State) : Host.Outcome State Fault Refusal :=
  .next (finish (serveFrame code body s))

/-- The answer in hand has been sent (R163): a held request becomes the request in hand and is answered BUSY. -/
def sent (s : State) : State :=
  match s.inHand, s.held with
  | none, _ => s
  | some _, none => { s with inHand := none }
  | some _, some code => answering code [replyByte .busy] { s with held := none }

def execAnswerSent (s : State) : Host.Outcome State Fault Refusal := .next (sent s)

end Sys2Proof.Machine
end

