-- ==== Sys2Proof/Machine/PointEvents.lean ====
section
/-! DEFINITION. The events of the Point Drivers: detection, throw limit, settle and idle timers (R108, R134, R137 to R142). An expiry is taken
only when its timer is running and has run out (R103); otherwise nothing happens. -/

namespace Sys2Proof.Machine

/-! ### Detection (R134, R137, R139, R140) -/

/-- One input of a detection pair at a level. -/
def DetectionPair.set (input : Position) (on : Bool) (d : DetectionPair) : DetectionPair :=
  match input with
  | .normal => { d with normal := on }
  | .reverse => { d with reverse := on }

/-- The level of one input of a detection pair. -/
def DetectionPair.level (input : Position) (d : DetectionPair) : Bool :=
  match input with
  | .normal => d.normal
  | .reverse => d.reverse

/-- The levels of a detection pair as last received. -/
def setInput (pair : Nat) (input : Position) (on : Bool) (s : State) : State :=
  { s with detections := Table.write DetectionPair.off s.detections pair ((s.pair pair).set input on) }

/-- The target alone is detected. -/
def State.home (s : State) (p : Nat) : Bool :=
  match (s.point p).target with
  | some x => s.detected p == .at x
  | none => false

/-- What a point makes of a new detected position, by its state (R137, R139, R140). -/
def detectionTaken (p : Nat) (s : State) : State :=
  match (s.point p).state with
  | .throwing =>
    match (s.point p).target with
    | some x =>
      if s.detected p = .at x then startSettle p x s
      else if s.detected p = .both then becomeFault p s
      else s
    | none => s
  | .settling => if s.home p then s else becomeFault p s
  | .atRest => if (s.detection p).isSome then s else becomeFault p s
  | .fault => if (s.point p).drive.isSome && (s.home p || s.detected p == .both) then endFlight p s else s
  | .unsupervised => s

/-- An input of a detection pair goes to a level (R134): outside HALTED the point in use that names the pair takes it. -/
def detectionChanges (pair : Nat) (input : Position) (on : Bool) (s : State) : State :=
  let s1 := setInput pair input on s
  match pointOfPair s.layout pair with
  | some p => if s.supervised then followUp s [] [] (detectionTaken p s1) else s1
  | none => s1

def execDetectionChange (pair : Nat) (input : Position) (on : Bool) (s : State) : Host.Outcome State Fault Refusal :=
  if pairNumber pair = false then .fault (.noSuchDetectionPair pair)
  else if (s.pair pair).level input = on then .next s
  else .next (finish (detectionChanges pair input on s))

/-! ### Throw limit (R138, R141) -/

/-- The throw limit timer of a point has run out. -/
def limitDue (s : State) (p : Nat) : Bool :=
  match (s.point p).throwLimit with
  | some t => due s.clock t
  | none => false

/-- The throw limit runs out: a THROWING point is FAULT (R138); at a FAULT point nothing further latches (R141). -/
def limitPasses (p : Nat) (s : State) : State :=
  if (s.point p).state = .throwing then followUp s [] [] (becomeFault p s) else endFlight p s

def execThrowLimitExpiry (point : Nat) (s : State) : Host.Outcome State Fault Refusal :=
  if limitDue s point then .next (finish (limitPasses point s)) else .next s

/-! ### Settle timer (R139) -/

/-- The settle timer of a SETTLING point has run out. -/
def settleDue (s : State) (p : Nat) : Bool :=
  match (s.point p).settleTimer with
  | some t => (s.point p).state == .settling && due s.clock t
  | none => false

def execSettleTimerExpiry (point : Nat) (s : State) : Host.Outcome State Fault Refusal :=
  if settleDue s point then .next (finish (followUp s [] [] (becomeSet point s))) else .next s

/-! ### Idle timer (R108, R142) -/

/-- The idle timer of a point has run out. -/
def idleDue (s : State) (p : Nat) : Bool :=
  match (s.point p).idleTimer with
  | some t => due s.clock t
  | none => false

/-- The cuts whose watch point is a point. -/
def State.watchers (s : State) (p : Nat) : List Nat := (s.records.filter (fun r => r.watch == some p)).map Record.number

/-- The idle timer runs out (R108): the point counts as having stood, and the last moment of each cut watched there is reckoned again. -/
def idlePasses (p : Nat) (s : State) : State :=
  followUp s [] (s.watchers p) (changePoint p (fun e => { e with idleTimer := none, stood := true }) s)

def execIdleTimerExpiry (point : Nat) (s : State) : Host.Outcome State Fault Refusal :=
  if idleDue s point then .next (finish (idlePasses point s)) else .next s

end Sys2Proof.Machine
end

