-- ==== Sys2Proof/Machine/ResetEvents.lean ====
section
/-! DEFINITION. Power-on and the reset line (R153). -/

namespace Sys2Proof.Machine

/-- The contents of the active slot, when it passes its header check (R153, R155). -/
def loadable (s : State) : Option SlotContents :=
  let c := Table.read none s.slots s.activeSlot
  if headerCheck c then c else none

/-- The board after power-on or the reset line (R153): the slots and the active-slot number are kept, the field lines are as they are, the
active slot is loaded when it passes its header check, and a commit under way is cut short, its slot having been erased at its start (R157).
The queue of commands is not the board's. -/
def restarted (s : State) : State :=
  { State.reset with
    pending := s.pending
    channels := s.channels, detections := s.detections
    slots := s.slots, activeSlot := s.activeSlot
    active := (loadable s).map SlotContents.image
    activeGeneration := (loadable s).map SlotContents.generation
    working := ((loadable s).map SlotContents.image).getD [] }

def execPowerOn (s : State) : Host.Outcome State Fault Refusal := .next (finish (restarted s))

def execResetLine (s : State) : Host.Outcome State Fault Refusal := .next (finish (restarted s))

end Sys2Proof.Machine
end

