-- ==== Sys2Proof/Machine/Dispatch.lean ====
section
/-! DEFINITION. One arm for each command. -/

namespace Sys2Proof.Machine

def exec (i : Instr) (s : State) : Host.Outcome State Fault Refusal :=
  match i with
  | .enter body => Sys2Proof.Machine.execEnter body s
  | .amend body => Sys2Proof.Machine.execAmend body s
  | .withdraw body => Sys2Proof.Machine.execWithdraw body s
  | .query body => Sys2Proof.Machine.execQuery body s
  | .list body => Sys2Proof.Machine.execList body s
  | .collect body => Sys2Proof.Machine.execCollect body s
  | .abandon body => Sys2Proof.Machine.execAbandon body s
  | .trackSet body => Sys2Proof.Machine.execTrackSet body s
  | .trackRead body => Sys2Proof.Machine.execTrackRead body s
  | .sectionRead body => Sys2Proof.Machine.execSectionRead body s
  | .pointMode body => Sys2Proof.Machine.execPointMode body s
  | .pointThrow body => Sys2Proof.Machine.execPointThrow body s
  | .pointReset body => Sys2Proof.Machine.execPointReset body s
  | .pointRead body => Sys2Proof.Machine.execPointRead body s
  | .run body => Sys2Proof.Machine.execRun body s
  | .warmReset body => Sys2Proof.Machine.execWarmReset body s
  | .layoutLoad body => Sys2Proof.Machine.execLayoutLoad body s
  | .layoutWrite body => Sys2Proof.Machine.execLayoutWrite body s
  | .layoutCommit body => Sys2Proof.Machine.execLayoutCommit body s
  | .layoutSelect body => Sys2Proof.Machine.execLayoutSelect body s
  | .layoutRead body => Sys2Proof.Machine.execLayoutRead body s
  | .status body => Sys2Proof.Machine.execStatus body s
  | .clearFlags body => Sys2Proof.Machine.execClearFlags body s
  | .enableFlags body => Sys2Proof.Machine.execEnableFlags body s
  | .unknownCode code body => Sys2Proof.Machine.execUnknownCode code body s
  | .frameBadCheck => Sys2Proof.Machine.execFrameBadCheck s
  | .interByteGap next => Sys2Proof.Machine.execInterByteGap next s
  | .requestHeld code body => Sys2Proof.Machine.execRequestHeld code body s
  | .answerSent => Sys2Proof.Machine.execAnswerSent s
  | .powerOn => Sys2Proof.Machine.execPowerOn s
  | .resetLine => Sys2Proof.Machine.execResetLine s
  | .axlePulse => Sys2Proof.Machine.execAxlePulse s
  | .separation => Sys2Proof.Machine.execSeparation s
  | .sectionOccupied channel => Sys2Proof.Machine.execSectionOccupied channel s
  | .sectionClear channel => Sys2Proof.Machine.execSectionClear channel s
  | .provingTimerExpiry sec => Sys2Proof.Machine.execProvingTimerExpiry sec s
  | .stallDeadlineExpiry cut => Sys2Proof.Machine.execStallDeadlineExpiry cut s
  | .standTimerExpiry cut => Sys2Proof.Machine.execStandTimerExpiry cut s
  | .lastMomentExpiry cut => Sys2Proof.Machine.execLastMomentExpiry cut s
  | .detectionChange pair input on => Sys2Proof.Machine.execDetectionChange pair input on s
  | .throwLimitExpiry point => Sys2Proof.Machine.execThrowLimitExpiry point s
  | .settleTimerExpiry point => Sys2Proof.Machine.execSettleTimerExpiry point s
  | .idleTimerExpiry point => Sys2Proof.Machine.execIdleTimerExpiry point s
  | .commitComplete readsBack => Sys2Proof.Machine.execCommitComplete readsBack s
  | .commitTimerExpiry => Sys2Proof.Machine.execCommitTimerExpiry s
  | .startByte byte => Sys2Proof.Machine.execStartByte byte s
  | .badLengthByte byte => Sys2Proof.Machine.execBadLengthByte byte s
  | .badStopBit => Sys2Proof.Machine.execBadStopBit s

end Sys2Proof.Machine
end

