-- ==== Sys2Proof/Machine/Timers.lean ====
section
/-! DEFINITION. The yard clock and the timers that read it (R103): what the board does by itself while no command waits. -/

namespace Sys2Proof.Machine

/-- The separation timer has run out (R59). -/
def separationDue (s : State) : Bool :=
  match s.separation with
  | some t => s.crest == .counting && due s.clock t
  | none => false

/-- The commit timer has run out (R157). -/
def commitDue (s : State) : Bool :=
  match s.commit with
  | some k => due s.clock k.timer
  | none => false

/-- The expiry commands of some records whose timer has run out. -/
def recordExpiries (s : State) (dueNow : State → Record → Bool) (expiry : Nat → Instr) : List Instr :=
  (s.records.filter (dueNow s)).map (fun r => expiry r.number)

/-- The expiry commands of the timers that have run out (R103), in the order of log 2. -/
def dueExpiries (s : State) : List Instr :=
  (if separationDue s then [Instr.separation] else [])
    ++ ((s.sections.map Prod.fst).filter (provingDue s)).map Instr.provingTimerExpiry
    ++ recordExpiries s stallDue .stallDeadlineExpiry
    ++ recordExpiries s standDue .standTimerExpiry
    ++ recordExpiries s lastMomentDue .lastMomentExpiry
    ++ ((s.points.map Prod.fst).filter (limitDue s)).map Instr.throwLimitExpiry
    ++ ((s.points.map Prod.fst).filter (settleDue s)).map Instr.settleTimerExpiry
    ++ ((s.points.map Prod.fst).filter (idleDue s)).map Instr.idleTimerExpiry
    ++ (if commitDue s then [Instr.commitTimerExpiry] else [])

/-- One tick (log 2): the expiries of the timers that have run out are put on the queue; when none has, the yard clock advances by 1 ms.
A last-moment timer that a command has set to an instant already come does not wait for a tick (`expireAtOnce`). -/
def tick (s : State) : State :=
  match dueExpiries s with
  | [] => { s with clock := s.clock + 1 }
  | l => { s with pending := l }

end Sys2Proof.Machine
end

