-- ==== Sys2Proof/Safety.lean ====
section
/-! DEFINITION. What a sound board is, in the terms the statements use: its outputs agree with its state, its tables are canonical, its
records, queue and counts agree, its claims and occupant lists name cuts in the tree, and no drive is on that should not be. -/

namespace Sys2Proof.Machine

/-- HUMP PERMIT and the attention line are as R65 and R171 give them. -/
def OutputsReckoned (s : State) : Prop := s.humpPermit = permitCondition s ∧ s.attentionLine = attentionCondition s

/-- An image that may be absent is in canonical form. -/
def imageCanonical (m : Option Image) : Prop := ∀ i, m = some i → Table.wf 0#8 i = true

/-- Every keyed table and every layout image is in canonical form. -/
structure Canonical (s : State) : Prop where
  tracks : Table.wf TrackEntry.initial s.tracks = true
  channels : Table.wf false s.channels = true
  sections : Table.wf SectionEntry.initial s.sections = true
  claims : Table.wf [] s.claims = true
  detections : Table.wf DetectionPair.off s.detections = true
  points : Table.wf PointEntry.initial s.points = true
  slots : Table.wf none s.slots = true
  working : Table.wf 0#8 s.working = true
  active : imageCanonical s.active
  slotImages : ∀ x c, s.slot x = some c → Table.wf 0#8 c.image = true
  commitImage : ∀ k, s.commit = some k → Table.wf 0#8 k.contents.image = true

/-- One record keeps the bounds of R22, R29, R32 and R49. -/
structure Record.Bounded (r : Record) : Prop where
  number : 1 ≤ r.number ∧ r.number ≤ 65535
  axles : r.measuredAxles ≤ 255
  diversions : r.diversions.length ≤ Config.maxDiversions
  followers : r.followers.length ≤ Config.maxFollowers

/-- The cut table, the humping queue and the counts agree (R21, R22, R34, R151). -/
structure Ledger (s : State) : Prop where
  slots : s.records.length ≤ Config.cutSlots
  numbers : (s.records.map Record.number).Nodup
  bounded : ∀ r ∈ s.records, r.Bounded
  queueOnce : s.queue.Nodup
  queued : ∀ n ∈ s.queue, s.isIn n .pending = true
  pendings : ∀ r ∈ s.records, r.state = .pending → r.number ∈ s.queue
  unlisted : Config.firstUnlisted ≤ s.unlistedCounter ∧ s.unlistedCounter ≤ 65535
  count : s.inTree = (s.records.filter (fun r => r.state.inTree)).length
  room : s.inTree ≤ Config.maxInTree

/-- Tables canonical, the ledger in order, occupant lists and claim queues naming cuts in the tree, each at most once, and a list at most 4
(R82, R114). -/
structure Followed (s : State) : Prop where
  canonical : Canonical s
  ledger : Ledger s
  occupants : ∀ x, ∀ n ∈ (s.section x).occupants, s.isInTree n = true
  listedOnce : ∀ x, (s.section x).occupants.Nodup
  room : ∀ x, (s.section x).occupants.length ≤ Config.maxOccupants
  claims : ∀ p, ∀ c ∈ s.claimsAt p, s.isInTree c.cut = true
  claimedOnce : ∀ p, ((s.claimsAt p).map Claim.cut).Nodup

/-- A point that nothing moves or times (R134, R135). -/
structure PointEntry.Quiet (e : PointEntry) : Prop where
  state : e.state = .unsupervised
  target : e.target = none
  drive : e.drive = none
  limit : e.throwLimit = none
  settle : e.settleTimer = none
  idle : e.idleTimer = none

/-- In HALTED every point is UNSUPERVISED with its drive off and its timers stopped (R134). -/
def HaltedQuiet (s : State) : Prop := s.runState = .halted → ∀ p, (s.point p).Quiet

/-- A drive is on only at a THROWING point, or at a FAULT point whose throw is in flight, and always toward the target (R136, R141). -/
def DrivesSound (s : State) : Prop :=
  ∀ p, (s.point p).drive.isSome = true →
    ((s.point p).state = .throwing ∨ (s.point p).state = .fault) ∧ (s.point p).target = (s.point p).drive

/-- The effective lengths, taken together, of the in-tree groups assigned to a track (R24, R69). -/
def State.groupsOn (s : State) (x : Nat) : Nat :=
  ((s.records.filter (fun r => r.state.inTree && r.assigned.map Assignment.track == some x)).map (fun r => s.groupLength r.number)).sum

/-- Each track's running total is the length of the in-tree groups assigned to it (R69), with what that rests on: a leader in the tree and its
JOINED followers name each other (R29), a PENDING record belongs to no group and has no track, the crest cut is no PENDING or JOINED record, and
no cut is in the tree in HALTED (R152). -/
structure Accounted (s : State) : Prop where
  totals : ∀ x, (s.track x).committed = s.groupsOn x
  leaders : ∀ r ∈ s.records, r.state.inTree = true →
    ∀ m ∈ r.followers, ∃ f, s.record m = some f ∧ f.state = .joined ∧ f.joined = some (.follower r.number)
  followers : ∀ r ∈ s.records, r.state = .joined →
    ∃ c l, r.joined = some (.follower c) ∧ s.record c = some l ∧ l.state.inTree = true ∧ r.number ∈ l.followers
  pendings : ∀ r ∈ s.records, r.state = .pending → r.joined = none ∧ r.assigned = none
  crest : ∀ c, s.crestCut = some c → ∃ r, s.record c = some r ∧ r.state ≠ .pending ∧ r.state ≠ .joined
  halted : s.runState = .halted → s.inTree = 0

/-- One cut was released before another: the larger age, then the smaller number (R26). -/
def State.ReleasedBefore (s : State) (n m : Nat) : Prop := s.age m < s.age n ∨ (s.age m = s.age n ∧ n < m)

/-- An item of a cut has been put in a list at its place by release sequence: behind those in front of which it does not belong (R82, R114). -/
def State.Placed {α : Type} (s : State) (cut : α → Nat) (a : α) (old new : List α) : Prop :=
  ∃ front back, old = front ++ back ∧ new = front ++ a :: back ∧ (∀ b ∈ front, ¬ s.ReleasedBefore (cut a) (cut b))
    ∧ ∀ b, back.head? = some b → s.ReleasedBefore (cut a) (cut b)

/-- The four parts of R119: the cut holds a claim at the point; the point is SET, so no throw is in progress, and detected in the position claimed;
and every claim ahead requires that position. -/
def State.LinedFor (s : State) (p n : Nat) : Prop :=
  ∃ ahead c behind, s.claimsAt p = ahead ++ c :: behind ∧ c.cut = n ∧ (∀ d ∈ ahead, d.cut ≠ n ∧ d.position = c.position)
    ∧ (s.point p).state = .atRest ∧ s.detected p = .at c.position

/-- The three conditions of R122 for a point to be watched: a claim that is not spent, at or below the head section, and not lined. -/
def State.WatchWanted (s : State) (r : Record) (p : Nat) : Prop :=
  (∃ c, s.claimOf p r.number = some c ∧ c.spent = false)
    ∧ (∀ h, r.head = some h → s.tree.sectionBelow (switchSection s.layout p) h = true) ∧ ¬ s.LinedFor p r.number

/-- The record is watched at a point, or at none: its last moment there, and its timer set to run out 1 ms after it (R109, R122). -/
def State.WatchedAt (s : State) (r : Record) : Option Nat → Prop
  | some p => r.watch = some p ∧ r.lastMoment = some (s.lastMomentAt r p) ∧ r.timer = .running (later (s.lastMomentAt r p) 1)
  | none => r.watch = none ∧ r.lastMoment = none ∧ r.timer = .stopped

/-- The watch point of a record is the one R122 chooses: the first of its route that is wanted, or none; the root point for a cut that waits for
its track (R130). That an unplanned-below mark is not read here is the model's choice (log 30). -/
def State.WatchChosen (s : State) (r : Record) : Prop :=
  (r.assigned = none → s.WatchedAt r s.tree.rootPoint)
  ∧ ∀ a, r.assigned = some a →
      (∃ before p b below, s.tree.route a.track = before ++ (p, b) :: below ∧ (∀ q ∈ before, ¬ s.WatchWanted r q.1)
        ∧ s.WatchWanted r p ∧ s.WatchedAt r (some p))
      ∨ (∀ q ∈ s.tree.route a.track, ¬ s.WatchWanted r q.1) ∧ s.WatchedAt r none

/-- The five conditions of R120 for a throw toward the position of a head claim, at a point in use outside HALTED: the claim requires another
position than the one detected, the point is SET and in AUTO, its switch section is CLEAR, and the last moment there of the cut has not passed. -/
def State.ThrowAsked (s : State) (p : Nat) (c : Claim) (r : Record) : Prop :=
  s.runState ≠ .halted ∧ pointUsed s.layout p = true ∧ s.detected p ≠ .at c.position ∧ (s.point p).state = .atRest
    ∧ (s.point p).mode = .auto ∧ s.shownState (switchSection s.layout p) = .clear ∧ after s.clock (s.lastMomentAt r p) = false

/-- A point just thrown toward a position (R136): its limit is twice the budget in force. -/
def State.thrownEntry (s : State) (p : Nat) (x : Position) : PointEntry :=
  { s.point p with
    state := .throwing, target := some x, drive := some x, throwLimit := some (later s.clock (2 * s.budget p)), idleTimer := none
    stood := false }

/-- A point that has just come SET (R139, R108). -/
def State.setEntry (s : State) (p : Nat) : PointEntry :=
  { s.point p with
    state := .atRest, target := none, drive := none, throwLimit := none, settleTimer := none, lastSettled := s.clock
    idleTimer := if coldIdle s.layout = 0 then none else some (later s.clock (coldIdle s.layout * 1000)), stood := false }

/-- The throw decision at a point, with the entry it has after the change and the state that the decision reads (R120): the point is thrown
toward the position of the head claim where the five conditions hold, and is otherwise left as it is. -/
def State.Decided (s : State) (p : Nat) (e : PointEntry) : Prop :=
  (∀ c rest r, s.claimsAt p = c :: rest → s.record c.cut = some r → s.ThrowAsked p c r → e = s.thrownEntry p c.position)
  ∧ ((∀ c rest r, s.claimsAt p = c :: rest → s.record c.cut = some r → ¬ s.ThrowAsked p c r) → e = s.point p)

/-- A diversion entry has been added to a record: at the back of the list, or, where it holds 4, only the "more" mark (R32). -/
def Record.Noted (w r : Record) (d : Diversion) : Prop :=
  (r.diversions.length < 4 → w.diversions = r.diversions ++ [d] ∧ w.more = r.more)
  ∧ (4 ≤ r.diversions.length → w.diversions = r.diversions ∧ w.more = true)

/-- The claims of a cut have been brought in line with the route to a track (R116, R118): none off the route; those held take its positions; a new
one, at or below the head section, comes in its queue at its place by release sequence. `r` is the cut's record before the change. -/
def State.ClaimsOn (s t : State) (r : Record) (x : Nat) : Prop :=
  (∀ p, p ∉ (s.tree.route x).map Prod.fst → t.claimOf p r.number = none)
  ∧ (((s.tree.route x).map Prod.fst).Nodup → ∀ p b, (p, b) ∈ s.tree.route x →
      (∀ c, s.claimOf p r.number = some c → t.claimOf p r.number = some { c with position := b })
      ∧ (s.claimOf p r.number = none → s.atOrBelowHead r p = true →
          t.Placed Claim.cut { cut := r.number, position := b, spent := false } (s.claimsAt p) (t.claimsAt p)))

/-- An instant is due: the yard clock has reached it (R103). -/
def State.Reached (s : State) (at_ : Instant) : Prop := after at_ s.clock = false

/-- The receiver has no part of a frame that a byte could still join: it hunts, or more than 20 ms have passed since the last byte came (R160). -/
def State.FrameBroken (s : State) : Prop := ∀ bytes a, s.receiver = .collecting bytes a → 20 < (s.clock - a).toNat

/-- A command that brings the receiver a byte with a good stop bit (R160; log 8). -/
def BringsByte (c : Instr) (b : Byte) : Prop := c = .startByte b ∨ c = .badLengthByte b ∨ c = .interByteGap b

/-- Some bytes of an image, from an offset on. -/
def fieldAt (image : List Byte) (offset n : Nat) : List Byte := (image.drop offset).take n

/-- A request can be taken at once: none is in hand and the Layout Store is IDLE (R158, R162, R163). -/
def Ready (s : State) : Prop := s.inHand = none ∧ s.commit = none

/-- The link after a request with a code of R164 has been taken and answered with a body (R162). -/
def answeredBy (code : Byte) (body : List Byte) (s : State) : State :=
  { s with receiver := .hunting, inHand := some { code := code + 0x80#8, body := body } }

/-- The frame that a request command carries: its code (R164) and its body. -/
def requestFrame : Instr → Option (Byte × List Byte)
  | .enter b => some (0x10#8, b)
  | .amend b => some (0x11#8, b)
  | .withdraw b => some (0x12#8, b)
  | .query b => some (0x13#8, b)
  | .list b => some (0x14#8, b)
  | .collect b => some (0x15#8, b)
  | .abandon b => some (0x16#8, b)
  | .trackSet b => some (0x20#8, b)
  | .trackRead b => some (0x21#8, b)
  | .sectionRead b => some (0x28#8, b)
  | .pointMode b => some (0x30#8, b)
  | .pointThrow b => some (0x31#8, b)
  | .pointReset b => some (0x32#8, b)
  | .pointRead b => some (0x33#8, b)
  | .run b => some (0x40#8, b)
  | .warmReset b => some (0x41#8, b)
  | .layoutLoad b => some (0x50#8, b)
  | .layoutWrite b => some (0x51#8, b)
  | .layoutCommit b => some (0x52#8, b)
  | .layoutSelect b => some (0x53#8, b)
  | .layoutRead b => some (0x54#8, b)
  | .status b => some (0x60#8, b)
  | .clearFlags b => some (0x61#8, b)
  | .enableFlags b => some (0x62#8, b)
  | .unknownCode .. | .frameBadCheck | .interByteGap .. | .requestHeld .. | .answerSent | .powerOn | .resetLine => none
  | .axlePulse | .separation | .sectionOccupied .. | .sectionClear .. | .provingTimerExpiry .. => none
  | .stallDeadlineExpiry .. | .standTimerExpiry .. | .lastMomentExpiry .. | .detectionChange .. => none
  | .throwLimitExpiry .. | .settleTimerExpiry .. | .idleTimerExpiry .. | .commitComplete .. | .commitTimerExpiry => none
  | .startByte .. | .badLengthByte .. | .badStopBit => none

/-- The body length that R164 gives a request code. -/
def bodyLength (code : Byte) : Option Nat :=
  match code.toNat with
  | 0x10 => some 9
  | 0x11 => some 7
  | 0x12 | 0x13 | 0x14 | 0x15 | 0x16 => some 2
  | 0x20 => some 4
  | 0x21 | 0x28 => some 1
  | 0x30 | 0x31 => some 2
  | 0x32 | 0x33 => some 1
  | 0x40 => some 2
  | 0x41 | 0x50 => some 0
  | 0x51 => some 130
  | 0x52 => some 9
  | 0x53 => some 1
  | 0x54 => some 3
  | 0x60 => some 0
  | 0x61 | 0x62 => some 2
  | _ => none

end Sys2Proof.Machine
end

