-- ==== Sys2Proof/Certificates/Slice0/Obligations.lean ====
section
/-! DEFINITION. The statements for the provers. -/

open Sys2Proof Sys2Proof.Machine

/-! ### The queue of commands and the yard clock -/

/-- A step takes the command at the front of the queue, and is that command's own effect on the board with the queue's rest. -/
def Obligations.FrontCommandRuns : Prop :=
  ∀ (c : Instr) (rest : List Instr) (s : State), s.pending = c :: rest → step s = exec c { s with pending := rest }

/-- The model's tick (log 2): with no command waiting, the yard clock advances by 1 ms, or, when timers have run out, their expiries are put on
the queue and nothing else changes. R103: the expiries put there are exactly those of the timers that are running and whose instant the clock has
reached. an expiry of any of the nine timers that is not running, or has not run out, is no event: nothing changes (log 2). -/
def Obligations.TheYardClockAndItsTimers : Prop :=
  (∀ s : State, s.pending = [] →
      (dueExpiries s = [] → step s = .next { s with clock := s.clock + 1 })
      ∧ (dueExpiries s ≠ [] → step s = .next { s with pending := dueExpiries s }))
  ∧ (∀ s : State,
      (.separation ∈ dueExpiries s ↔ s.crest = .counting ∧ ∃ l, s.separation = some l ∧ s.Reached l)
      ∧ (∀ x, .provingTimerExpiry x ∈ dueExpiries s ↔ (s.section x).unproven = true ∧ ∃ l, (s.section x).proving = some l ∧ s.Reached l)
      ∧ (∀ n, .stallDeadlineExpiry n ∈ dueExpiries s ↔
          ∃ r ∈ s.records, r.number = n ∧ (r.state = .releasing ∨ r.state = .rolling) ∧ ∃ l, r.stallDeadline = some l ∧ s.Reached l)
      ∧ (∀ n, .standTimerExpiry n ∈ dueExpiries s ↔
          ∃ r ∈ s.records, r.number = n ∧ r.state = .stalled ∧ ∃ l, r.standTimer = .running l ∧ s.Reached l)
      ∧ (∀ n, .lastMomentExpiry n ∈ dueExpiries s ↔
          ∃ r ∈ s.records, r.number = n ∧ r.state.inTree = true ∧ ∃ l, r.timer = .running l ∧ s.Reached l)
      ∧ (∀ p, .throwLimitExpiry p ∈ dueExpiries s ↔ ∃ l, (s.point p).throwLimit = some l ∧ s.Reached l)
      ∧ (∀ p, .settleTimerExpiry p ∈ dueExpiries s ↔ (s.point p).state = .settling ∧ ∃ l, (s.point p).settleTimer = some l ∧ s.Reached l)
      ∧ (∀ p, .idleTimerExpiry p ∈ dueExpiries s ↔ ∃ l, (s.point p).idleTimer = some l ∧ s.Reached l)
      ∧ (.commitTimerExpiry ∈ dueExpiries s ↔ ∃ k, s.commit = some k ∧ s.Reached k.timer)
      ∧ ∀ c ∈ dueExpiries s, c = .separation ∨ c = .commitTimerExpiry ∨ ∃ n, c = .provingTimerExpiry n ∨ c = .stallDeadlineExpiry n
          ∨ c = .standTimerExpiry n ∨ c = .lastMomentExpiry n ∨ c = .throwLimitExpiry n ∨ c = .settleTimerExpiry n ∨ c = .idleTimerExpiry n)
  ∧ (∀ s : State,
      (∀ p, (∀ l, (s.point p).throwLimit = some l → after l s.clock = true) → exec (.throwLimitExpiry p) s = .next s)
      ∧ (∀ p, (∀ l, (s.point p).settleTimer = some l → after l s.clock = true) → exec (.settleTimerExpiry p) s = .next s)
      ∧ (∀ p, (∀ l, (s.point p).idleTimer = some l → after l s.clock = true) → exec (.idleTimerExpiry p) s = .next s)
      ∧ (∀ x, (∀ l, (s.section x).proving = some l → after l s.clock = true) → exec (.provingTimerExpiry x) s = .next s)
      ∧ (∀ n, (∀ r l, s.record n = some r → r.stallDeadline = some l → after l s.clock = true) → exec (.stallDeadlineExpiry n) s = .next s)
      ∧ (∀ n, (∀ r l, s.record n = some r → r.timer = .running l → after l s.clock = true) → exec (.lastMomentExpiry n) s = .next s)
      ∧ (∀ n, (∀ r l, s.record n = some r → r.standTimer = .running l → after l s.clock = true) → exec (.standTimerExpiry n) s = .next s)
      ∧ ((∀ l, s.separation = some l → after l s.clock = true) → exec .separation s = .next s)
      ∧ ((∀ k, s.commit = some k → after k.timer s.clock = true) → exec .commitTimerExpiry s = .next s)
      ∧ (s.commit = none → ∀ b, exec (.commitComplete b) s = .next s))

/-- R103, R122: a command leaves the commands that wait as they are, and puts in front of them nothing but last-moment expiries: those of the
cuts whose timers it has set to an instant already come, so that such an expiry is the next command taken. The queue is the model's own field
(log 1), and the order of several such expiries the model's choice (log 2). -/
def Obligations.CommandsLeaveTheQueue : Prop :=
  ∀ (c : Instr) (s t : State), exec c s = .next t →
    ∃ l : List Nat, t.pending = l.map Instr.lastMomentExpiry ++ s.pending
      ∧ (∀ n ∈ l, ∃ r e, t.record n = some r ∧ r.timer = .running e ∧ after e t.clock = false)
      ∧ (∀ n r e, t.record n = some r → r.state.inTree = true → r.timer = .running e → after e t.clock = false →
          n ∈ l ∨ ∃ q, s.record n = some q ∧ q.timer = r.timer)

/-- Every command that can arrive is taken: the board never stops on one. The only stops: a field event on a line the board does not have
(log 16). -/
def Obligations.EveryArrivalIsTakenOrFaults : Prop :=
  (∀ (c : Instr) (s : State), c.wf = true → ∃ t, exec c s = .next t)
  ∧ ((∀ (n : Nat) (s : State), n = 0 ∨ 128 < n →
        exec (.sectionOccupied n) s = .fault (.noSuchChannel n) ∧ exec (.sectionClear n) s = .fault (.noSuchChannel n))
    ∧ ∀ (d : Nat) (i : Position) (on : Bool) (s : State), d = 0 ∨ 64 < d →
        exec (.detectionChange d i on) s = .fault (.noSuchDetectionPair d))

/-! ### Invariants of every step -/

/-- R65 and R171: the outputs agree with the state after every step, if they did before; HUMP PERMIT is then asserted exactly while the four
conditions of R65 hold. -/
def Obligations.StepsKeepOutputsReckoned : Prop :=
  (∀ s t : State, OutputsReckoned s → step s = .next t → OutputsReckoned t)
  ∧ ∀ s : State, OutputsReckoned s → (s.humpPermit = true ↔ s.runState = .running ∧ s.inTree < permitLimit s.layout
      ∧ ∃ n rest r, s.queue = n :: rest ∧ s.record n = some r ∧ (r.requested = none → s.crest = .idle))

/-- Every keyed table and every layout image stays in canonical form, which is the model's way to hold the spec's tables (log 17). -/
def Obligations.StepsKeepTablesCanonical : Prop := ∀ s t : State, Canonical s → step s = .next t → Canonical t

/-- R82, R114: occupant lists of at most 4 cuts and claim queues, each naming a cut at most once, and in-tree cuts only (with the canonical tables
and the ledger they rest on). -/
def Obligations.StepsKeepFollowed : Prop := ∀ s t : State, Followed s → step s = .next t → Followed t

/-- R134: in HALTED every point is UNSUPERVISED with no target, no timer running and its drive off. R136, R141: a drive is on only toward the
target of a THROWING point, or of a FAULT point whose throw is in flight. -/
def Obligations.StepsKeepPointsSound : Prop :=
  (∀ s t : State, HaltedQuiet s → step s = .next t → HaltedQuiet t)
  ∧ (∀ s t : State, DrivesSound s → step s = .next t → DrivesSound t)

/-- R136: a drive that comes on does so at a point in use, supervised, whose switch section is CLEAR, THROWING toward a position it is not
detected in. -/
def Obligations.DrivesStartOnlyWhenSafe : Prop :=
  ∀ (s t : State) (p : Nat) (x : Position), step s = .next t → (s.point p).drive = none → (t.point p).drive = some x →
    t.runState ≠ .halted ∧ pointUsed t.layout p = true ∧ t.shownState (switchSection t.layout p) = .clear
      ∧ (t.point p).state = .throwing ∧ (t.point p).target = some x ∧ t.detected p ≠ .at x

/-- The state after reset satisfies every invariant above. -/
def Obligations.ResetIsSound : Prop :=
  OutputsReckoned State.reset ∧ Canonical State.reset ∧ Followed State.reset ∧ Accounted State.reset ∧ HaltedQuiet State.reset
    ∧ DrivesSound State.reset

/-! ### Resets -/

/-- R153, R160, R163: what power-on and the reset line leave, whatever the state before. R153 says that inputs and detected positions are read;
that the levels read are those last received is the model's choice (log 4). -/
def Obligations.PowerOnState : Prop :=
  ∀ s : State, ∃ t : State, exec .powerOn s = .next t ∧ exec .resetLine s = .next t
    ∧ (t.runState = .halted ∧ t.clock = 0 ∧ t.inTree = 0 ∧ t.humpPermit = false)
    ∧ (t.records = [] ∧ t.queue = [] ∧ t.seqCounter = 0 ∧ t.unlistedCounter = 61440)
    ∧ (t.crest = .idle ∧ t.crestCut = none ∧ t.target = none ∧ t.remnantDue = none ∧ t.separation = none)
    ∧ (∀ x, (t.track x).fill = 0 ∧ (t.track x).committed = 0 ∧ (t.track x).setting = .closed)
    ∧ (t.channels = s.channels ∧ ∀ x, (t.section x).occupants = [] ∧ (t.section x).unexplained = false ∧ (t.section x).unproven = false
        ∧ (t.section x).proving = none)
    ∧ (∀ p, t.claimsAt p = [])
    ∧ (t.detections = s.detections ∧ ∀ p, (t.point p).Quiet ∧ (t.point p).mode = .auto ∧ (t.point p).lastSettled = 0)
    ∧ (t.flags = 0 ∧ t.enables = 2047 ∧ t.attentionLine = false)
    ∧ (t.commit = none ∧ t.lastCommit = .none ∧ t.slots = s.slots ∧ t.activeSlot = s.activeSlot)
    ∧ (∀ c, s.slot s.activeSlot = some c → headerCheck (some c) = true →
        t.active = some c.image ∧ t.activeGeneration = some c.generation ∧ t.working = c.image)
    ∧ (headerCheck (s.slot s.activeSlot) = false → t.active = none ∧ t.activeGeneration = none ∧ ∀ a, Image.byte t.working a = 0)
    ∧ (t.receiver = .hunting ∧ t.inHand = none ∧ t.held = none)
    ∧ (headerCheck (s.slot s.activeSlot) = false → ∀ force,
        exec (.run [0x01#8, force]) t = .next (finish (answeredBy 0x40#8 [0x0D#8, 0x08#8] { t with flags := t.flags ||| 0x200 })))

/-- R154: the warm RESET. -/
def Obligations.WarmResetState : Prop :=
  (∀ s : State, s.inHand = none → s.commit.isSome = true → exec (.warmReset []) s = .next (finish (answeredBy 0x41#8 [0x0B#8] s)))
  ∧ ∀ s : State, Ready s → Followed s → ∃ t : State, exec (.warmReset []) s = .next t
    ∧ t.inHand = some { code := 0xC1#8, body := [0x00#8] }
    ∧ (t.runState = .halted ∧ t.inTree = 0 ∧ t.humpPermit = false)
    ∧ (t.records = [] ∧ t.queue = [])
    ∧ (t.crest = .idle ∧ t.crestCut = none ∧ t.target = none ∧ t.separation = none ∧ t.remnantDue = none)
    ∧ (∀ x, (t.section x).occupants = [] ∧ (t.section x).unexplained = false ∧ (t.section x).unproven = false ∧ (t.section x).proving = none)
    ∧ (∀ p, t.claimsAt p = [])
    ∧ (t.flags = 0 ∧ t.attentionLine = false)
    ∧ (∀ x, (t.track x).fill = (s.track x).fill ∧ (t.track x).committed = 0 ∧ (t.track x).setting = (s.track x).setting)
    ∧ (∀ p, (t.point p).Quiet ∧ (t.point p).mode = (s.point p).mode ∧ (t.point p).lastSettled = (s.point p).lastSettled)
    ∧ (t.active = s.active ∧ t.activeGeneration = s.activeGeneration ∧ t.tree = s.tree ∧ t.working = s.working ∧ t.slots = s.slots
        ∧ t.activeSlot = s.activeSlot ∧ t.lastCommit = s.lastCommit ∧ t.commit = none)
    ∧ (t.enables = s.enables ∧ t.seqCounter = s.seqCounter ∧ t.unlistedCounter = s.unlistedCounter ∧ t.clock = s.clock
        ∧ t.channels = s.channels ∧ t.detections = s.detections ∧ t.held = s.held)

/-! ### The link -/

/-- R162, R164: a request command is the complete good frame with its code and body. R158: while the store is COMMITTING, every request but STATUS
is answered BUSY, whatever its code and body, and changes nothing. R162, R164: a body of a length that is not the code's, and any body of an
unknown code, is answered BAD_FORMAT and changes nothing; a STATUS of a wrong length is so answered while COMMITTING too. R162: the UNKNOWN_CODE
command, for a code in no row of R164; that it serves a code of R164, should it carry one, as that code's request is the model's choice (log 7). -/
def Obligations.RequestsAreServedInOrder : Prop :=
  (∀ (c : Instr) (code : Byte) (body : List Byte) (s : State), requestFrame c = some (code, body) →
      exec c s = .next (finish (serveFrame code body s)) ∧ exec (.unknownCode code body) s = exec c s)
  ∧ (∀ (code : Byte) (body : List Byte) (s : State), s.inHand = none → s.commit.isSome = true → code ≠ 0x60#8 →
      serveFrame code body s
        = { s with receiver := .hunting, inHand := some { code := if code.toNat < 0x80 then code + 0x80#8 else code, body := [0x0B#8] } })
  ∧ (∀ (code : Byte) (body : List Byte) (s : State), s.inHand = none → (s.commit = none ∨ code = 0x60#8) →
      bodyLength code ≠ some body.length →
      serveFrame code body s
        = { s with receiver := .hunting, inHand := some { code := if code.toNat < 0x80 then code + 0x80#8 else code, body := [0x01#8] } })
  ∧ (∀ (code : Byte) (body : List Byte) (s : State), Ready s → bodyLength code = none →
      exec (.unknownCode code body) s
        = .next (finish { s with
            receiver := .hunting
            inHand := some { code := if code.toNat < 0x80 then code + 0x80#8 else code, body := [0x01#8] } }))

/-- R36, R162: a request answered with anything but ACCEPTED changes nothing but the answer in hand, save that a RUN whose layout checks fail
latches the RUN flag (R149). -/
def Obligations.RefusalsChangeNothing : Prop :=
  ∀ (c : Instr) (code : Byte) (body : List Byte) (s t : State) (a : Answer) (b : Byte) (rest : List Byte),
    requestFrame c = some (code, body) → Ready s → exec c s = .next t → t.inHand = some a → a.body = b :: rest → b ≠ 0 →
    a.code = code + 0x80#8
      ∧ (t = finish { s with receiver := .hunting, inHand := some a } ∧ rest = []
        ∨ code = 0x40#8 ∧ b = 0x0D#8 ∧ (∃ k, layoutCheck s.active = some k ∧ rest = [checkByte k])
          ∧ t = finish { s with receiver := .hunting, inHand := some a, flags := s.flags ||| 0x200 })

/-- R163: a good frame that completes while a request is in hand is held, or discarded when one is held already. R163: the end of an answer. -/
def Obligations.HeldFramesAndAnswerEnds : Prop :=
  (∀ (code : Byte) (body : List Byte) (s : State) (a : Answer), s.inHand = some a →
      (s.held = none → exec (.requestHeld code body) s = .next (finish { s with receiver := .hunting, held := some code }))
      ∧ (s.held.isSome = true → exec (.requestHeld code body) s = .next (finish { s with receiver := .hunting })))
  ∧ (∀ (s : State) (a : Answer), s.inHand = some a →
      (s.held = none → exec .answerSent s = .next { s with inHand := none })
      ∧ ∀ code, s.held = some code →
          exec .answerSent s
            = .next { s with
                held := none
                inHand := some { code := if code.toNat < 0x80 then code + 0x80#8 else code, body := [0x0B#8] } })

/-- R160: what each byte event does to the receiver; nothing else of the board changes but the outputs taken afresh, save for the request that a
complete good frame brings. A byte that no frame can take, because the receiver hunts or more than 20 ms have passed since the last one, starts a
frame if it is A5h and is otherwise discarded. A byte in time is taken into the frame; a bad length, or a bad check at the end, discards the frame.
That a command carries its byte, and that the gap is reckoned by the yard clock, are the model's choices (log 8). -/
def Obligations.ReceiverByteEvents : Prop :=
  ∀ s : State,
    (∀ c b, BringsByte c b → s.FrameBroken →
      (b = 0xA5#8 → exec c s = .next (finish { s with receiver := .collecting [0xA5#8] s.clock }))
      ∧ (b ≠ 0xA5#8 → exec c s = .next (finish { s with receiver := .hunting })))
    ∧ (∀ c b a, BringsByte c b → s.receiver = .collecting [0xA5#8] a → (s.clock - a).toNat ≤ 20 →
      ((b = 0#8 ∨ 250 < b.toNat) → exec c s = .next (finish { s with receiver := .hunting }))
      ∧ (1 ≤ b.toNat → b.toNat ≤ 250 → exec c s = .next (finish { s with receiver := .collecting [0xA5#8, b] s.clock })))
    ∧ (∀ c b a len rest, BringsByte c b → s.receiver = .collecting (0xA5#8 :: len :: rest) a → (s.clock - a).toNat ≤ 20 →
      1 ≤ len.toNat → len.toNat ≤ 250 →
      let bytes := 0xA5#8 :: len :: rest ++ [b]
      (bytes.length < len.toNat + 4 → exec c s = .next (finish { s with receiver := .collecting bytes s.clock }))
      ∧ (bytes.length = len.toNat + 4 →
          (∀ code body, body.length ≤ 249 → bytes = frameBytes code body → exec c s = .next (finish (serveFrame code body s)))
          ∧ ((∀ code body, bytes ≠ frameBytes code body) → exec c s = .next (finish { s with receiver := .hunting }))))
    ∧ exec .badStopBit s = .next { s with receiver := .hunting }
    ∧ exec .frameBadCheck s = .next { s with receiver := .hunting }

/-- R160, R161: a good frame of R160's shape, brought to the hunting receiver byte by byte, does exactly what its request does when taken whole
(log 8). -/
def Obligations.FrameByBytesIsTheRequest : Prop :=
  ∀ (code : Byte) (body : List Byte) (s : State), body.length ≤ 249 → OutputsReckoned s → s.receiver = .hunting → s.pending = [] →
    Host.Core.run Sys2Proof.core (body.length + 5) { s with pending := (frameBytes code body).map Instr.startByte }
      = .next (finish (serveFrame code body s))

/-! ### Attention -/

/-- R172: CLEAR FLAGS and ENABLE FLAGS. -/
def Obligations.FlagRequests : Prop :=
  ∀ (m : Nat) (s : State), s.inHand = none → m < 65536 →
    (s.commit = none → m < 2048 →
      exec (.clearFlags (byte2 m)) s
          = .next (finish (answeredBy 0x61#8
              (0x00#8 :: byte2 (s.flags &&& ~~~(BitVec.ofNat 11 m)).toNat ++ byte2 s.enables.toNat)
              { s with flags := s.flags &&& ~~~(BitVec.ofNat 11 m) }))
        ∧ exec (.enableFlags (byte2 m)) s
          = .next (finish (answeredBy 0x62#8 (0x00#8 :: byte2 s.flags.toNat ++ byte2 m) { s with enables := BitVec.ofNat 11 m })))
    ∧ (s.commit = none → 2048 ≤ m →
      exec (.clearFlags (byte2 m)) s = .next (finish (answeredBy 0x61#8 [0x02#8] s))
        ∧ exec (.enableFlags (byte2 m)) s = .next (finish (answeredBy 0x62#8 [0x02#8] s)))
    ∧ (s.commit.isSome = true →
      exec (.clearFlags (byte2 m)) s = .next (finish (answeredBy 0x61#8 [0x0B#8] s))
        ∧ exec (.enableFlags (byte2 m)) s = .next (finish (answeredBy 0x62#8 [0x0B#8] s)))

/-- R171: the line is asserted exactly while some flag is both latched and enabled: so after every step if so before it, and after power-on and
the reset line, where no flag is latched. -/
def Obligations.AttentionLineFollowsFlags : Prop :=
  (∀ s t : State, step s = .next t → (s.attentionLine = true ↔ s.flags &&& s.enables ≠ 0) →
      (t.attentionLine = true ↔ t.flags &&& t.enables ≠ 0))
  ∧ ∀ s t : State, (exec .powerOn s = .next t ∨ exec .resetLine s = .next t) → t.attentionLine = false ∧ t.flags = 0

/-- R80, R102, R147, R173, R156: the reading requests answer their images and change nothing; STATUS also while the store is COMMITTING.
Their refusals: an item or half page out of range, and the active layout where there is none. -/
def Obligations.ReadsChangeNothing : Prop :=
  (∀ (s : State) (n source page half : Nat), Ready s → n < 256 → source < 256 → page < 256 → half < 256 →
    (n = 0 ∨ 64 < n → exec (.trackRead (byte1 n)) s = .next (finish (answeredBy 0x21#8 [0x02#8] s)))
    ∧ (n = 0 ∨ 128 < n → exec (.sectionRead (byte1 n)) s = .next (finish (answeredBy 0x28#8 [0x02#8] s)))
    ∧ (n = 0 ∨ 63 < n → exec (.pointRead (byte1 n)) s = .next (finish (answeredBy 0x33#8 [0x02#8] s)))
    ∧ (1 < source ∨ 8 < page ∨ 1 < half →
        exec (.layoutRead (byte1 source ++ byte1 page ++ byte1 half)) s = .next (finish (answeredBy 0x54#8 [0x02#8] s)))
    ∧ (source = 0 → page ≤ 8 → half ≤ 1 → s.active = none →
        exec (.layoutRead (byte1 source ++ byte1 page ++ byte1 half)) s = .next (finish (answeredBy 0x54#8 [0x03#8] s))))
  ∧ ∀ s : State, s.inHand = none →
    exec (.status []) s = .next (finish (answeredBy 0x60#8 (0x00#8 :: statusImage s) s))
    ∧ (s.commit = none → ∀ n, 1 ≤ n → (n ≤ 64 →
        exec (.trackRead (byte1 n)) s = .next (finish (answeredBy 0x21#8 (0x00#8 :: trackImage s n) s)))
      ∧ (n ≤ 128 → exec (.sectionRead (byte1 n)) s = .next (finish (answeredBy 0x28#8 (0x00#8 :: sectionImage s n) s)))
      ∧ (n ≤ 63 → exec (.pointRead (byte1 n)) s = .next (finish (answeredBy 0x33#8 (0x00#8 :: pointImage s n) s))))
    ∧ (s.commit = none → ∀ page half, page ≤ 8 → half ≤ 1 →
        exec (.layoutRead (byte1 1 ++ byte1 page ++ byte1 half)) s
            = .next (finish (answeredBy 0x54#8
                (0x00#8 :: byte1 page ++ byte1 half ++ Image.readBytes s.working (page * 256 + half * 128) 128) s))
          ∧ ∀ m, s.active = some m →
            exec (.layoutRead (byte1 0 ++ byte1 page ++ byte1 half)) s
              = .next (finish (answeredBy 0x54#8
                  (0x00#8 :: byte1 page ++ byte1 half ++ Image.readBytes m (page * 256 + half * 128) 128) s)))

/-- R165, R167, R168, R102, R147, R80: the images at their offsets, field by field, and the codings they use. The bytes that log 6 leaves
free (the slot beside NONE, an absent generation, the budget of a point not in use) are not spoken of. That a follower shows the
joined count 1 is the model's reading (log 18), and so are the in-use byte 1 for any in-use byte of the layout but 0, and what an image of an
entry not in use shows (log 15). -/
def Obligations.ImageLayouts : Prop :=
  ([CutState.pending, .releasing, .rolling, .stalled, .joined, .settled, .lost].map stateCode = [1, 2, 3, 4, 5, 6, 7]
    ∧ [Origin.listed, .noList, .standbyRelease, .remnant 1].map originCode = [0, 1, 2, 3]
    ∧ [AssignReason.requested, .alternate, .defaultFull, .defaultNoTrack, .defaultJoin, .defaultUnlisted, .diverted].map assignReasonCode
        = [1, 2, 3, 4, 5, 6, 7]
    ∧ [DivertReason.catchup, .blocked, .manual, .pointFault, .tooLate, .misroute].map divertReasonCode = [1, 2, 3, 4, 5, 6]
    ∧ [LostReason.unproven, .abandoned, .halted, .overcrowded, .overload, .noDetection, .leaderLost].map lostReasonCode
        = [1, 2, 3, 4, 5, 6, 7]
    ∧ [RunState.halted, .standby, .running].map runStateCode = [0, 1, 2] ∧ [Position.normal, .reverse].map positionCode = [1, 2]
    ∧ [PointState.unsupervised, .atRest, .throwing, .settling, .fault].map pointStateCode = [0, 1, 2, 3, 4]
    ∧ [SectionShown.clear, .occupied, .unexplained, .unproven].map shownCode = [0, 1, 2, 3]
    ∧ [TrackCondition.opened, .near, .closed].map conditionCode = [0, 1, 2])
  ∧ (∀ (r : Record) (u : Bool) (place : Nat), r.Bounded →
      let i := recordImage r u place
      let instant := fun x : Option Instant => byte4 (x.getD 0)
      let joined := match r.joined with
        | none => []
        | some (.leader l) => l
        | some (.follower n) => [n]
      i.length = 56
      ∧ (fieldAt i 0 2 = byte2 r.number ∧ fieldAt i 2 1 = byte1 (stateCode r.state) ∧ fieldAt i 3 1 = byte1 (originCode r.origin))
      ∧ (fieldAt i 4 2 = byte2 (match r.origin with | .remnant n => n | .listed | .noList | .standbyRelease => 0))
      ∧ (fieldAt i 6 1 = byte1 (r.requested.getD 0) ∧ fieldAt i 7 1 = byte1 ((r.assigned.map Assignment.track).getD 0)
          ∧ fieldAt i 8 1 = byte1 ((r.assigned.map (fun a => assignReasonCode a.reason)).getD 0))
      ∧ (fieldAt i 9 2 = byte2 r.declaredLength ∧ fieldAt i 11 1 = byte1 (r.declaredAxles.getD 0) ∧ fieldAt i 12 1 = byte1 r.measuredAxles)
      ∧ fieldAt i 13 1 = byte1 ((if r.releaseSeq.isSome = true then 1 else 0) + (if r.headEntry.isSome = true then 2 else 0)
          + (if r.lastMoment.isSome = true then 4 else 0) + (if r.stallDeadline.isSome = true then 8 else 0))
      ∧ (fieldAt i 14 2 = byte2 (r.releaseSeq.getD 0).toNat ∧ fieldAt i 16 1 = byte1 (r.head.getD 0) ∧ fieldAt i 17 1 = byte1 (r.tail.getD 0))
      ∧ (fieldAt i 18 4 = instant r.headEntry ∧ fieldAt i 22 2 = byte2 (r.speed.getD 0) ∧ fieldAt i 24 1 = byte1 (r.watch.getD 0)
          ∧ fieldAt i 25 4 = instant r.lastMoment ∧ fieldAt i 29 4 = instant r.stallDeadline)
      ∧ (fieldAt i 33 2 = byte2 r.marks.toNat ∧ fieldAt i 35 1 = byte1 (r.diversions.length + if r.more = true then 0x80 else 0))
      ∧ (∀ k, k < 4 → fieldAt i (36 + 2 * k) 2 = match r.diversions[k]? with
          | some d => byte1 d.point ++ byte1 (divertReasonCode d.reason)
          | none => byte2 0)
      ∧ fieldAt i 44 1 = byte1 (match r.joined with | none => 0 | some (.leader _) => 1 | some (.follower _) => 2)
      ∧ (fieldAt i 45 1 = byte1 joined.length ∧ ∀ k, k < 3 → fieldAt i (46 + 2 * k) 2 = byte2 (joined[k]?.getD 0))
      ∧ (fieldAt i 52 1 = byte1 (r.outcome.getD 0) ∧ fieldAt i 53 1 = byte1 ((r.lostReason.map lostReasonCode).getD 0))
      ∧ (fieldAt i 54 1 = byteBool u ∧ fieldAt i 55 1 = byte1 place))
  ∧ (∀ s : State,
      let i := statusImage s
      let records := fun c : CutState => byte1 (s.records.filter (fun r => r.state == c)).length
      let shown := fun c : SectionShown =>
        byte1 (sectionNumbers.filter (fun x => sectionUsed s.layout x && s.shownState x == c)).length
      i.length = 25
      ∧ (fieldAt i 0 2 = byte2 s.flags.toNat ∧ fieldAt i 2 2 = byte2 s.enables.toNat)
      ∧ (fieldAt i 4 1 = byte1 (runStateCode s.runState) ∧ fieldAt i 5 1 = byte1 (if s.crest = .counting then 1 else 0))
      ∧ (fieldAt i 6 1 = records .pending ∧ fieldAt i 7 1 = byte1 s.inTree ∧ fieldAt i 8 1 = records .lost ∧ fieldAt i 9 1 = records .settled)
      ∧ fieldAt i 10 1 = byte1 (pointNumbers.filter (fun p => pointUsed s.layout p && (s.point p).state == .fault)).length
      ∧ (fieldAt i 11 1 = shown .unexplained ∧ fieldAt i 12 1 = shown .unproven)
      ∧ fieldAt i 13 1 = byte1 (trackNumbers.filter (fun x => trackUsed s.layout x && s.trackCondition x == .near)).length
      ∧ fieldAt i 14 1 = byteBool s.commit.isSome
      ∧ (s.lastCommit = .none → fieldAt i 15 1 = byte1 0)
      ∧ (∀ x, (s.lastCommit = .done x → fieldAt i 15 2 = byte1 1 ++ byte1 x) ∧ (s.lastCommit = .failed x → fieldAt i 15 2 = byte1 2 ++ byte1 x))
      ∧ fieldAt i 17 1 = byte1 s.activeSlot
      ∧ (s.activeGeneration = none → fieldAt i 18 1 = byte1 0)
      ∧ (∀ g, s.activeGeneration = some g → fieldAt i 18 3 = byte1 1 ++ byte2 g.toNat)
      ∧ fieldAt i 21 4 = byte4 s.clock)
  ∧ (∀ (s : State) (p : Nat),
      let i := pointImage s p
      let e := s.point p
      let drive := if pointUsed s.layout p = true then (e.drive.map positionCode).getD 0 else 0
      (fieldAt i 0 1 = byte1 p ∧ fieldAt i 1 1 = byteBool (pointUsed s.layout p) ∧ fieldAt i 4 1 = byte1 (if e.mode = .manual then 1 else 0))
      ∧ fieldAt i 5 1 = byte1 (match s.detected p with | .none => 0 | .at .normal => 1 | .at .reverse => 2 | .both => 3)
      ∧ (fieldAt i 6 1 = byte1 ((e.target.map positionCode).getD 0) ∧ fieldAt i 7 1 = byte1 drive)
      ∧ fieldAt i 8 1 = byte1 ((if e.throwLimit.isSome = true then 1 else 0) + (if e.settleTimer.isSome = true then 2 else 0))
      ∧ (fieldAt i 9 4 = byte4 (e.throwLimit.getD 0) ∧ fieldAt i 13 4 = byte4 (e.settleTimer.getD 0) ∧ fieldAt i 17 4 = byte4 e.lastSettled)
      ∧ (fieldAt i 21 1 = byteBool (s.hasStood p) ∧ fieldAt i 24 1 = byteBool (s.locked p))
      ∧ (pointUsed s.layout p = true → i.length = 26 + 3 * (s.claimsAt p).length
          ∧ fieldAt i 2 1 = byte1 (switchSection s.layout p) ∧ fieldAt i 3 1 = byte1 (pointStateCode e.state)
          ∧ fieldAt i 22 2 = byte2 (s.budget p) ∧ fieldAt i 25 1 = byte1 (s.claimsAt p).length
          ∧ ∀ k c, (s.claimsAt p)[k]? = some c →
              fieldAt i (26 + 3 * k) 3 = byte2 c.cut ++ byte1 (positionCode c.position + if c.spent = true then 0x80 else 0))
      ∧ (pointUsed s.layout p = false → i.length = 26 ∧ fieldAt i 2 2 = byte2 0 ∧ fieldAt i 25 1 = byte1 0 ∧ s.detected p = .none))
  ∧ (∀ (s : State) (x : Nat),
      let i := sectionImage s x
      let held := s.shownState x = .unproven ∧ (s.section x).proving.isSome = true
      (fieldAt i 0 1 = byte1 x ∧ fieldAt i 1 1 = byteBool (sectionUsed s.layout x) ∧ fieldAt i 3 1 = byte1 (shownCode (s.shownState x)))
      ∧ (sectionUsed s.layout x = true → fieldAt i 2 1 = byteBool (s.channel (sectionChannel s.layout x)))
      ∧ (sectionUsed s.layout x = false →
          ((∀ y, sectionUsed s.layout y = true → sectionChannel s.layout y ≠ x) → fieldAt i 2 1 = byteBool (s.channel x))
          ∧ ∀ y, sectionUsed s.layout y = true → sectionChannel s.layout y = x → fieldAt i 2 1 = byteBool false)
      ∧ (∀ p, pointOfSection s.layout x = some p →
          fieldAt i 4 1 = byte1 p ∧ fieldAt i 5 1 = byteBool (decide (s.shownState x ≠ .clear)))
      ∧ (pointOfSection s.layout x = none → fieldAt i 4 2 = byte2 0)
      ∧ (held → fieldAt i 6 5 = byte1 1 ++ byte4 ((s.section x).proving.getD 0)) ∧ (¬ held → fieldAt i 6 5 = byte1 0 ++ byte4 0)
      ∧ (sectionUsed s.layout x = true → i.length = 12 + 2 * (s.section x).occupants.length
          ∧ fieldAt i 11 1 = byte1 (s.section x).occupants.length
          ∧ ∀ k n, (s.section x).occupants[k]? = some n → fieldAt i (12 + 2 * k) 2 = byte2 n)
      ∧ (sectionUsed s.layout x = false → i.length = 12 ∧ fieldAt i 11 1 = byte1 0 ∧ s.shownState x = .clear))
  ∧ (∀ (s : State) (x : Nat),
      let i := trackImage s x
      i.length = 15
      ∧ (fieldAt i 0 1 = byte1 x ∧ fieldAt i 1 1 = byteBool (trackUsed s.layout x))
      ∧ (fieldAt i 2 2 = byte2 (capacity s.layout x) ∧ fieldAt i 4 2 = byte2 (nearMargin s.layout x)
          ∧ fieldAt i 6 1 = byte1 (alternateTrack s.layout x))
      ∧ (fieldAt i 7 2 = byte2 (s.track x).fill ∧ fieldAt i 9 2 = byte2 (min (s.track x).committed 65535))
      ∧ (fieldAt i 11 1 = byte1 (if (s.track x).setting = .opened then 1 else 0) ∧ fieldAt i 12 2 = byte2 (s.freeLength x)
          ∧ fieldAt i 14 1 = byte1 (conditionCode (s.trackCondition x)))
      ∧ (trackUsed s.layout x = false → fieldAt i 2 5 = [0#8, 0#8, 0#8, 0#8, 0#8]))

/-! ### Cut records and the humping queue -/

/-- R37, R38: an ENTER without a before cut lists the cut at the back of the queue. R34, R38: an ENTER with a before cut puts the new cut directly
in front of it. That the place and the FREE count of the answer take one byte each is the model's reading (log 13). -/
def Obligations.EnterListsTheCut : Prop :=
  (∀ (s : State) (cut track len axles before : Nat), Ready s → s.runState ≠ .halted → 1 ≤ cut → cut ≤ 61439 →
      (track = 0 ∨ trackUsed s.layout track = true) → 50 ≤ len → len ≤ 4000 → 2 ≤ axles → axles ≤ 120 → before < 65536 →
      s.record cut = none → cut ∉ s.queue → s.records.length < 48 →
      ∃ r : Record,
        exec (.enter (byte2 cut ++ byte1 track ++ byte2 len ++ byte1 axles ++ byte1 0 ++ byte2 before)) s
            = .next (finish (answeredBy 0x10#8 (0x00#8 :: byte1 (s.queue.length + 1) ++ byte1 (47 - s.records.length))
                { s with records := s.records ++ [r], queue := s.queue ++ [cut], flags := s.flags ||| 0x001 }))
          ∧ (r.number = cut ∧ r.state = .pending ∧ r.origin = .listed ∧ r.requested = (if track = 0 then none else some track))
          ∧ (r.declaredLength = len ∧ r.declaredAxles = some axles ∧ r.measuredAxles = 0 ∧ r.assigned = none ∧ r.releaseSeq = none)
          ∧ (r.head = none ∧ r.tail = none ∧ r.headEntry = none ∧ r.speed = none ∧ r.watch = none ∧ r.lastMoment = none)
          ∧ (r.stallDeadline = none ∧ r.diversions = [] ∧ r.more = false ∧ r.joined = none ∧ r.marks = 0 ∧ r.outcome = none)
          ∧ (r.lostReason = none ∧ r.unseen = true))
  ∧ (∀ (s : State) (cut track len axles before : Nat) (front back : List Nat), Ready s → s.runState ≠ .halted → 1 ≤ cut → cut ≤ 61439 →
      (track = 0 ∨ trackUsed s.layout track = true) → 50 ≤ len → len ≤ 4000 → 2 ≤ axles → axles ≤ 120 → 1 ≤ before → before < 65536 →
      s.record cut = none → cut ∉ s.queue → s.records.length < 48 → s.queue = front ++ before :: back → before ∉ front →
      s.isIn before .pending = true →
      ∃ t, exec (.enter (byte2 cut ++ byte1 track ++ byte2 len ++ byte1 axles ++ byte1 1 ++ byte2 before)) s = .next t
        ∧ t.queue = front ++ cut :: before :: back
        ∧ t.inHand = some { code := 0x90#8, body := 0x00#8 :: byte1 (front.length + 1) ++ byte1 (47 - s.records.length) }
        ∧ t.isIn cut .pending = true ∧ (∀ k, k ≠ cut → t.record k = s.record k)
        ∧ t = { s with
            receiver := .hunting, inHand := t.inHand, records := t.records, queue := t.queue, flags := s.flags ||| 0x001
            humpPermit := t.humpPermit, attentionLine := t.attentionLine })

/-- R37: the refusals of ENTER, in their order. -/
def Obligations.EnterRefusals : Prop :=
  ∀ (s : State) (cut track len axles present before : Nat), Ready s → cut < 65536 → track < 256 → len < 65536 → axles < 256 →
    present < 256 → before < 65536 →
    let bad := cut = 0 ∨ 61439 < cut ∨ (track ≠ 0 ∧ trackUsed s.layout track = false) ∨ len < 50 ∨ 4000 < len ∨ axles < 2 ∨ 120 < axles
      ∨ 1 < present ∨ (present = 1 ∧ before = 0)
    let answer := fun b : Byte =>
      exec (.enter (byte2 cut ++ byte1 track ++ byte2 len ++ byte1 axles ++ byte1 present ++ byte2 before)) s
        = .next (finish (answeredBy 0x10#8 [b] s))
    (s.runState = .halted → answer 0x07#8)
    ∧ (s.runState ≠ .halted → bad → answer 0x02#8)
    ∧ (s.runState ≠ .halted → ¬ bad → (s.record cut).isSome = true → answer 0x04#8)
    ∧ (s.runState ≠ .halted → ¬ bad → s.record cut = none → present = 1 → s.isIn before .pending = false → answer 0x03#8)
    ∧ (s.runState ≠ .halted → ¬ bad → s.record cut = none → (present = 1 → s.isIn before .pending = true) → 48 ≤ s.records.length →
        answer 0x05#8)

/-- R39: AMEND of a PENDING record gives each named field its new value and keeps the others. R39 to R42: the refusals of AMEND, in their order: for
any record, for one JOINED, SETTLED or LOST, and for one in the tree. -/
def Obligations.AmendPending : Prop :=
  (∀ (s : State) (n track len axles : Nat) (mask : Byte), Ready s → n < 65536 → track < 256 → len < 65536 → axles < 256 →
    let bad := n = 0 ∨ mask = 0 ∨ 8 ≤ mask.toNat ∨ (mask.getLsbD 0 = true ∧ track ≠ 0 ∧ trackUsed s.layout track = false)
      ∨ (mask.getLsbD 1 = true ∧ (len < 50 ∨ 4000 < len)) ∨ (mask.getLsbD 2 = true ∧ (axles < 2 ∨ 120 < axles))
    let answer := fun b : Byte =>
      exec (.amend (byte2 n ++ [mask] ++ byte1 track ++ byte2 len ++ byte1 axles)) s = .next (finish (answeredBy 0x11#8 [b] s))
    (s.runState = .halted → answer 0x07#8)
    ∧ (s.runState ≠ .halted → bad → answer 0x02#8)
    ∧ (s.runState ≠ .halted → ¬ bad → s.record n = none → answer 0x03#8)
    ∧ (∀ r, s.runState ≠ .halted → ¬ bad → s.record n = some r →
        (r.state = .joined ∨ r.state = .settled ∨ r.state = .lost → answer 0x06#8)
        ∧ (r.state.inTree = true → mask.getLsbD 1 = true ∨ mask.getLsbD 2 = true ∨ track = 0 → answer 0x06#8)
        ∧ (∀ a, r.state.inTree = true → mask = 1 → track ≠ 0 → r.assigned = some a → a.track ≠ track →
            (s.tree.trackBelow track (r.head.getD 1) = false → answer 0x08#8)
            ∧ (s.tree.trackBelow track (r.head.getD 1) = true → s.canTake track (s.groupLength n) = false → answer 0x09#8))))
  ∧ ∀ (s : State) (n track len axles : Nat) (mask : Byte) (r : Record), Ready s → s.runState ≠ .halted → 1 ≤ n → n < 65536 →
    (s.records.map Record.number).Nodup → s.record n = some r → r.state = .pending → mask ≠ 0 → mask.toNat < 8 → track < 256 →
    len < 65536 → axles < 256 →
    (mask.getLsbD 0 = true → track = 0 ∨ trackUsed s.layout track = true) →
    (mask.getLsbD 1 = true → 50 ≤ len ∧ len ≤ 4000) → (mask.getLsbD 2 = true → 2 ≤ axles ∧ axles ≤ 120) →
    ∃ t u, exec (.amend (byte2 n ++ [mask] ++ byte1 track ++ byte2 len ++ byte1 axles)) s = .next t ∧ t.record n = some u
      ∧ u.requested = (if mask.getLsbD 0 = true then (if track = 0 then none else some track) else r.requested)
      ∧ u.declaredLength = (if mask.getLsbD 1 = true then len else r.declaredLength)
      ∧ u.declaredAxles = (if mask.getLsbD 2 = true then some axles else r.declaredAxles)
      ∧ u = { r with
          requested := u.requested, declaredLength := u.declaredLength, declaredAxles := u.declaredAxles, unseen := u.unseen }
      ∧ (u.shown = r.shown → u.unseen = r.unseen ∧ t.flags = s.flags)
      ∧ (u.shown ≠ r.shown → u.unseen = true ∧ t.flags = s.flags ||| 0x001)
      ∧ (∀ k, k ≠ n → t.record k = s.record k)
      ∧ t.inHand = some { code := 0x91#8, body := 0x00#8 :: recordImage u r.unseen (queuePlace n s.queue) }
      ∧ t = { s with
          receiver := .hunting, inHand := t.inHand, records := t.records, flags := t.flags
          humpPermit := t.humpPermit, attentionLine := t.attentionLine }

/-- R40, R76: AMEND of an in-tree record that has a track to another track below its head that can take the group. R40: AMEND to the track it has
changes the requested track alone. R41, R74: AMEND of an in-tree record still waiting for its track makes the release assignment. R118, R114: the
claims on the new route take its positions, and new ones come at their place by release sequence. R122: the watch point is chosen afresh. -/
def Obligations.AmendMovesTheGroup : Prop :=
  (∀ (s : State) (n track len axles : Nat) (r : Record) (a : Assignment), Ready s → s.runState ≠ .halted → 1 ≤ n → n < 65536 →
    s.record n = some r → r.state.inTree = true → r.assigned = some a → a.track ≠ track → trackUsed s.layout track = true →
    len < 65536 → axles < 256 → s.tree.trackBelow track (r.head.getD 1) = true → s.canTake track (s.groupLength n) = true →
    ∃ t u, exec (.amend (byte2 n ++ [1#8] ++ byte1 track ++ byte2 len ++ byte1 axles)) s = .next t ∧ t.record n = some u
      ∧ (u.requested = some track ∧ u.assigned = some { track := track, reason := .requested } ∧ u.state = r.state ∧ u.marks = r.marks)
      ∧ (∀ m ∈ s.joinedFollowers n, ∃ f, t.record m = some f ∧ f.assigned = u.assigned ∧ f.state = .joined)
      ∧ (t.track track).committed = (s.track track).committed + s.groupLength n
      ∧ (t.track a.track).committed = (s.track a.track).committed - s.groupLength n
      ∧ (∀ x, (t.track x).fill = (s.track x).fill ∧ (t.track x).setting = (s.track x).setting)
      ∧ (∀ x, x ≠ track → x ≠ a.track → t.track x = s.track x)
      ∧ s.ClaimsOn t r track
      ∧ (r.state = .releasing ∨ r.state = .rolling → t.WatchChosen u)
      ∧ t.inHand = some { code := 0x91#8, body := 0x00#8 :: recordImage u r.unseen 0 }
      ∧ t = { s with
          pending := t.pending, receiver := .hunting, inHand := t.inHand, records := t.records, tracks := t.tracks, claims := t.claims
          points := t.points, flags := t.flags, humpPermit := t.humpPermit, attentionLine := t.attentionLine })
  ∧ (∀ (s : State) (n track len axles : Nat) (r : Record) (a : Assignment), Ready s → s.runState ≠ .halted → 1 ≤ n → n < 65536 →
    (s.records.map Record.number).Nodup → s.record n = some r → r.state.inTree = true → r.assigned = some a → a.track = track →
    trackUsed s.layout track = true → len < 65536 → axles < 256 →
    ∃ t u, exec (.amend (byte2 n ++ [1#8] ++ byte1 track ++ byte2 len ++ byte1 axles)) s = .next t ∧ t.record n = some u
      ∧ u = { r with requested := some track, unseen := u.unseen }
      ∧ (r.requested = some track → u.unseen = r.unseen ∧ t.flags = s.flags)
      ∧ (r.requested ≠ some track → u.unseen = true ∧ t.flags = s.flags ||| 0x001)
      ∧ (∀ k, k ≠ n → t.record k = s.record k)
      ∧ t.inHand = some { code := 0x91#8, body := 0x00#8 :: recordImage u r.unseen 0 }
      ∧ t = { s with
          receiver := .hunting, inHand := t.inHand, records := t.records, flags := t.flags
          humpPermit := t.humpPermit, attentionLine := t.attentionLine })
  ∧ (∀ (s : State) (n track len axles : Nat) (r : Record), Ready s → s.runState ≠ .halted → 1 ≤ n → n < 65536 →
    s.record n = some r → r.state.inTree = true → r.assigned = none → trackUsed s.layout track = true → len < 65536 → axles < 256 →
    let a := releaseChoice s track (s.groupLength n)
    ((s.tree.route a.track).map Prod.fst).Nodup →
    ∃ t u, exec (.amend (byte2 n ++ [1#8] ++ byte1 track ++ byte2 len ++ byte1 axles)) s = .next t ∧ t.record n = some u
      ∧ (u.requested = some track ∧ u.assigned = some a ∧ u.state = r.state)
      ∧ u.marks = (if s.canTake a.track (s.groupLength n) = true then r.marks else r.marks ||| 0x100)
      ∧ (∀ m ∈ s.joinedFollowers n, ∃ f, t.record m = some f ∧ f.assigned = some a ∧ f.state = .joined)
      ∧ t.track a.track = { s.track a.track with committed := (s.track a.track).committed + s.groupLength n }
      ∧ (∀ x, x ≠ a.track → t.track x = s.track x)
      ∧ (∀ p b, (p, b) ∈ s.tree.route a.track → s.claimOf p n = none → s.atOrBelowHead r p = true →
          t.claimOf p n = some { cut := n, position := b, spent := false }
          ∧ t.Placed Claim.cut { cut := n, position := b, spent := false } (s.claimsAt p) (t.claimsAt p))
      ∧ (r.state = .releasing ∨ r.state = .rolling → t.WatchChosen u)
      ∧ (∀ p, p ∉ (s.tree.route a.track).map Prod.fst → t.claimOf p n = none)
      ∧ t.inHand = some { code := 0x91#8, body := 0x00#8 :: recordImage u r.unseen 0 }
      ∧ t = { s with
          pending := t.pending, receiver := .hunting, inHand := t.inHand, records := t.records, tracks := t.tracks, claims := t.claims
          points := t.points, flags := t.flags, humpPermit := t.humpPermit, attentionLine := t.attentionLine })

/-- R43: WITHDRAW of a PENDING record, and its refusals in their order. That the FREE count of the answer takes one byte is the model's reading
(log 13). -/
def Obligations.WithdrawFreesTheSlot : Prop :=
  ∀ (s : State) (n : Nat), Ready s → n < 65536 →
    (n = 0 → exec (.withdraw (byte2 n)) s = .next (finish (answeredBy 0x12#8 [0x02#8] s)))
    ∧ (1 ≤ n → s.record n = none → exec (.withdraw (byte2 n)) s = .next (finish (answeredBy 0x12#8 [0x03#8] s)))
    ∧ (∀ r, 1 ≤ n → s.record n = some r → r.state ≠ .pending →
        exec (.withdraw (byte2 n)) s = .next (finish (answeredBy 0x12#8 [0x06#8] s)))
    ∧ (1 ≤ n → s.isIn n .pending = true →
        exec (.withdraw (byte2 n)) s
          = .next (finish (answeredBy 0x12#8 (0x00#8 :: byte1 (48 - (s.records.filter (fun r => r.number != n)).length))
              { s with records := s.records.filter (fun r => r.number != n), queue := s.queue.filter (fun m => m != n) })))

/-- R44: QUERY answers the record image with the unseen mark as it stood, clears the mark, and changes nothing else. -/
def Obligations.QueryClearsUnseen : Prop :=
  (∀ (s : State) (n : Nat), Ready s → n < 65536 →
    (n = 0 → exec (.query (byte2 n)) s = .next (finish (answeredBy 0x13#8 [0x02#8] s)))
    ∧ (1 ≤ n → s.record n = none → exec (.query (byte2 n)) s = .next (finish (answeredBy 0x13#8 [0x03#8] s))))
  ∧ ∀ (s : State) (n : Nat) (r : Record), Ready s → 1 ≤ n → n < 65536 → s.record n = some r →
    ∃ t, exec (.query (byte2 n)) s = .next t
      ∧ t.inHand = some
          { code := 0x93#8, body := 0x00#8 :: recordImage r r.unseen (if r.state = .pending then queuePlace n s.queue else 0) }
      ∧ t.record n = some { r with unseen := false } ∧ (∀ k, k ≠ n → t.record k = s.record k)
      ∧ t = { s with
          receiver := .hunting, inHand := t.inHand, records := t.records, humpPermit := t.humpPermit, attentionLine := t.attentionLine }

/-- R45: LIST answers exactly the records that pass, the PENDING ones in queue order, then the others earliest first, and changes nothing.
That the count of the answer takes one byte is the model's reading (log 13). -/
def Obligations.ListAnswersThePassing : Prop :=
  (∀ (s : State) (states only : Byte), Ready s → 128 ≤ states.toNat ∨ 1 < only.toNat →
    exec (.list [states, only]) s = .next (finish (answeredBy 0x14#8 [0x02#8] s)))
  ∧ ∀ (s : State) (states : Byte) (unseenOnly : Nat), Ready s → Ledger s → states.toNat < 128 → unseenOnly ≤ 1 →
    ∃ waiting gone : List Nat,
      exec (.list (states :: byte1 unseenOnly)) s
          = .next (finish (answeredBy 0x14#8
              (0x00#8 :: byte1 (waiting.length + gone.length) ++ (waiting ++ gone).flatMap byte2) s))
        ∧ (∀ n, n ∈ waiting ++ gone ↔ ∃ r ∈ s.records, r.number = n
            ∧ (states = 0 ∨ states.getLsbD (stateCode r.state - 1) = true) ∧ (unseenOnly = 1 → r.unseen = true))
        ∧ waiting.Sublist s.queue ∧ (∀ n ∈ waiting, s.isIn n .pending = true) ∧ (∀ n ∈ gone, s.isIn n .pending = false)
        ∧ gone.Pairwise (fun a b => s.age b < s.age a ∨ (s.age a = s.age b ∧ a < b))

/-- R46, R64: COLLECT of a SETTLED or LOST record. -/
def Obligations.CollectFreesTheSlot : Prop :=
  (∀ (s : State) (n : Nat), Ready s → n < 65536 →
    (n = 0 → exec (.collect (byte2 n)) s = .next (finish (answeredBy 0x15#8 [0x02#8] s)))
    ∧ (1 ≤ n → s.record n = none → exec (.collect (byte2 n)) s = .next (finish (answeredBy 0x15#8 [0x03#8] s)))
    ∧ (∀ r, 1 ≤ n → s.record n = some r → r.state ≠ .settled → r.state ≠ .lost →
        exec (.collect (byte2 n)) s = .next (finish (answeredBy 0x15#8 [0x06#8] s))))
  ∧ ∀ (s : State) (n : Nat) (r : Record), Ready s → 1 ≤ n → n < 65536 → s.record n = some r → r.state = .settled ∨ r.state = .lost →
    ∃ t, exec (.collect (byte2 n)) s = .next t
      ∧ t.inHand = some { code := 0x95#8, body := 0x00#8 :: recordImage r r.unseen 0 }
      ∧ t.record n = none ∧ (∀ k, k ≠ n → t.record k = s.record k) ∧ t.crestCut ≠ some n ∧ t.target ≠ some n
      ∧ t = { s with
          receiver := .hunting, inHand := t.inHand, records := s.records.filter (fun u => u.number != n)
          crestCut := if s.crestCut = some n then none else s.crestCut
          target := if s.target = some n then none else s.target
          humpPermit := t.humpPermit, attentionLine := t.attentionLine }

/-- R47, R28, R30, R78, R96: ABANDON of an in-tree cut, and its refusals in their order. -/
def Obligations.AbandonLosesTheGroup : Prop :=
  (∀ (s : State) (n : Nat), Ready s → n < 65536 →
    (n = 0 → exec (.abandon (byte2 n)) s = .next (finish (answeredBy 0x16#8 [0x02#8] s)))
    ∧ (1 ≤ n → s.record n = none → exec (.abandon (byte2 n)) s = .next (finish (answeredBy 0x16#8 [0x03#8] s)))
    ∧ (∀ r, 1 ≤ n → s.record n = some r → r.state.inTree = false →
        exec (.abandon (byte2 n)) s = .next (finish (answeredBy 0x16#8 [0x06#8] s))))
  ∧ ∀ (s : State) (n : Nat) (r : Record), Ready s → 1 ≤ n → n < 65536 → s.record n = some r → r.state.inTree = true →
    ∃ t u, exec (.abandon (byte2 n)) s = .next t ∧ t.record n = some u
      ∧ (u.state = .lost ∧ u.lostReason = some .abandoned ∧ u.unseen = true ∧ u.speed = r.speed ∧ u.assigned = r.assigned
          ∧ u.marks = r.marks ∧ u.diversions = r.diversions ∧ u.joined = r.joined)
      ∧ (u.head = none ∧ u.tail = none ∧ u.headEntry = none ∧ u.watch = none ∧ u.lastMoment = none ∧ u.stallDeadline = none)
      ∧ (∀ m ∈ s.joinedFollowers n, ∃ f, t.record m = some f ∧ f.state = .lost ∧ f.lostReason = some .leaderLost)
      ∧ (∀ p, t.claimOf p n = none) ∧ (∀ x, n ∉ (t.section x).occupants) ∧ t.inTree = s.inTree - 1
      ∧ (∀ x, (t.track x).committed = (s.track x).committed - (if s.assignedTrack n = some x then s.groupLength n else 0))
      ∧ (∀ x, (t.track x).fill = (s.track x).fill ∧ (t.track x).setting = (s.track x).setting)
      ∧ latched .lost t = true ∧ latched .cutChanged t = true
      ∧ t.inHand = some { code := 0x96#8, body := 0x00#8 :: recordImage u r.unseen 0 }
      ∧ t = { s with
          pending := t.pending, receiver := .hunting, inHand := t.inHand, records := t.records, inTree := t.inTree, tracks := t.tracks
          sections := t.sections, claims := t.claims, points := t.points, flags := t.flags
          humpPermit := t.humpPermit, attentionLine := t.attentionLine }

/-! ### Tracks -/

/-- R79, R67: TRACK SET writes the fill and the setting, and TRACK_NEAR latches for a passage from OPEN to NEAR. -/
def Obligations.TrackSetWritesFillAndSetting : Prop :=
  (∀ (s : State) (x : Nat) (hi lo setting : Byte), Ready s → x < 256 → 1 < setting.toNat ∨ trackUsed s.layout x = false →
    exec (.trackSet (byte1 x ++ [hi, lo, setting])) s = .next (finish (answeredBy 0x20#8 [0x02#8] s)))
  ∧ ∀ (s : State) (x fill : Nat) (open_ : Bool), Ready s → trackUsed s.layout x = true → fill < 65536 →
    ∃ t, exec (.trackSet (byte1 x ++ byte2 fill ++ byteBool open_)) s = .next t
      ∧ t.track x = { fill := fill, committed := (s.track x).committed, setting := if open_ = true then .opened else .closed }
      ∧ (∀ y, y ≠ x → t.track y = s.track y)
      ∧ t.flags = (if s.trackCondition x = .opened ∧ t.trackCondition x = .near then s.flags ||| 0x100 else s.flags)
      ∧ t.inHand = some { code := 0xA0#8, body := 0x00#8 :: trackImage t x }
      ∧ t = { s with
          receiver := .hunting, inHand := t.inHand, tracks := t.tracks, flags := t.flags
          humpPermit := t.humpPermit, attentionLine := t.attentionLine }

/-- R67, R68, R69: the condition of a track, its free length and whether it can take a length. R70, R71: the release assignment: the requested
track, the first of at most three alternates not looked at before, or the default track. -/
def Obligations.TracksAndTheReleaseAssignment : Prop :=
  (∀ (s : State) (x len : Nat),
      (s.trackCondition x = .closed ↔ (s.track x).setting = .closed ∨ trackUsed s.layout x = false)
      ∧ (s.trackCondition x = .near ↔ (s.track x).setting = .opened ∧ trackUsed s.layout x = true
          ∧ s.freeLength x < nearMargin s.layout x)
      ∧ (s.freeLength x : Int) = max 0 ((capacity s.layout x : Int) - (s.track x).fill - min (s.track x).committed 65535)
      ∧ (s.canTake x len = true ↔ (s.track x).setting = .opened ∧ trackUsed s.layout x = true ∧ len ≤ s.freeLength x))
  ∧ (∀ (s : State) (x len : Nat),
      (trackUsed s.layout x = true → s.canTake x len = true → releaseChoice s x len = { track := x, reason := .requested })
      ∧ (trackUsed s.layout x = false → releaseChoice s x len = { track := defaultTrack s.layout, reason := .defaultFull })
      ∧ (trackUsed s.layout x = true → s.canTake x len = false → ∀ a b c : Nat,
          a = alternateTrack s.layout x → b = alternateTrack s.layout a → c = alternateTrack s.layout b →
          (a ≠ 0 → a ≠ x → s.canTake a len = true → releaseChoice s x len = { track := a, reason := .alternate })
          ∧ (a ≠ 0 → a ≠ x → s.canTake a len = false → b ≠ 0 → b ≠ x → b ≠ a → s.canTake b len = true →
              releaseChoice s x len = { track := b, reason := .alternate })
          ∧ (a ≠ 0 → a ≠ x → s.canTake a len = false → b ≠ 0 → b ≠ x → b ≠ a → s.canTake b len = false →
              c ≠ 0 → c ≠ x → c ≠ a → c ≠ b → s.canTake c len = true → releaseChoice s x len = { track := c, reason := .alternate })
          ∧ (a = 0 ∨ a = x ∨ (s.canTake a len = false ∧ (b = 0 ∨ b = x ∨ b = a ∨ (s.canTake b len = false
                ∧ (c = 0 ∨ c = x ∨ c = a ∨ c = b ∨ s.canTake c len = false)))) →
              releaseChoice s x len = { track := defaultTrack s.layout, reason := .defaultFull })))

/-! ### Point requests -/

/-- R144: POINT MODE to MANUAL, or to the mode the point has, changes the mode alone. R144, R120, R136: a return to AUTO takes the throw decision:
a SET point with a CLEAR switch section that lies other than its head claim wants, in time, is thrown, with a limit of twice the budget in force.
R144: the refusals of POINT MODE. -/
def Obligations.PointModeAndTheReturnToAuto : Prop :=
  (∀ (s : State) (p v : Nat), Ready s → p < 256 → v < 256 →
      (s.runState = .halted → exec (.pointMode (byte1 p ++ byte1 v)) s = .next (finish (answeredBy 0x30#8 [0x07#8] s)))
      ∧ (s.runState ≠ .halted → 1 < v ∨ pointUsed s.layout p = false →
          exec (.pointMode (byte1 p ++ byte1 v)) s = .next (finish (answeredBy 0x30#8 [0x02#8] s))))
  ∧ (∀ (s : State) (p : Nat) (manual : Bool), Ready s → s.runState ≠ .halted → pointUsed s.layout p = true →
      (manual = true ∨ (s.point p).mode = .auto) →
      ∃ t, exec (.pointMode (byte1 p ++ byteBool manual)) s = .next t
        ∧ t.point p = { s.point p with mode := if manual = true then .manual else .auto }
        ∧ (∀ q, q ≠ p → t.point q = s.point q)
        ∧ t.inHand = some { code := 0xB0#8, body := 0x00#8 :: pointImage t p }
        ∧ t = { s with
            receiver := .hunting, inHand := t.inHand, points := t.points, humpPermit := t.humpPermit, attentionLine := t.attentionLine })
  ∧ (∀ (s : State) (p : Nat) (c : Claim) (rest : List Claim) (r : Record), Ready s → s.runState ≠ .halted → pointUsed s.layout p = true →
      (s.point p).mode = .manual → (s.point p).state = .atRest → s.shownState (switchSection s.layout p) = .clear →
      s.claimsAt p = c :: rest → s.record c.cut = some r → s.detected p ≠ .at c.position → after s.clock (s.lastMomentAt r p) = false →
      ∃ t, exec (.pointMode (byte1 p ++ byte1 0)) s = .next t
        ∧ t.point p = { s.point p with
            mode := .auto, state := .throwing, target := some c.position, drive := some c.position
            throwLimit := some (later s.clock (2 * s.budget p)), idleTimer := none, stood := false }
        ∧ (∀ q, q ≠ p → t.point q = s.point q) ∧ t.claims = s.claims
        ∧ t = { s with
            pending := t.pending, receiver := .hunting, inHand := t.inHand, records := t.records, points := t.points, flags := t.flags
            humpPermit := t.humpPermit, attentionLine := t.attentionLine })

/-- R145, R136: POINT THROW of a MANUAL, SET, unclaimed point whose switch section is CLEAR; no throw starts toward where it lies.
R145: its refusals, in their order. -/
def Obligations.PointThrowStartsAThrow : Prop :=
  (∀ (s : State) (p v : Nat), Ready s → p < 256 → v < 256 →
    let answer := fun b : Byte => exec (.pointThrow (byte1 p ++ byte1 v)) s = .next (finish (answeredBy 0x31#8 [b] s))
    (s.runState = .halted → answer 0x07#8)
    ∧ (s.runState ≠ .halted → (v ≠ 1 ∧ v ≠ 2) ∨ pointUsed s.layout p = false → answer 0x02#8)
    ∧ (s.runState ≠ .halted → v = 1 ∨ v = 2 → pointUsed s.layout p = true →
        (s.point p).mode = .auto ∨ (s.point p).state ≠ .atRest ∨ s.shownState (switchSection s.layout p) ≠ .clear ∨ s.claimsAt p ≠ [] →
        answer 0x0A#8))
  ∧ ∀ (s : State) (p : Nat) (x : Position), Ready s → s.runState ≠ .halted → pointUsed s.layout p = true →
    (s.point p).mode = .manual → (s.point p).state = .atRest → s.shownState (switchSection s.layout p) = .clear → s.claimsAt p = [] →
    ∃ t, exec (.pointThrow (byte1 p ++ byte1 (positionCode x))) s = .next t
      ∧ t.point p = (if s.detected p = .at x then s.point p else { s.point p with
          state := .throwing, target := some x, drive := some x, throwLimit := some (later s.clock (2 * s.budget p))
          idleTimer := none, stood := false })
      ∧ (∀ q, q ≠ p → t.point q = s.point q)
      ∧ t.inHand = some { code := 0xB1#8, body := 0x00#8 :: pointImage t p }
      ∧ t = { s with
          pending := t.pending, receiver := .hunting, inHand := t.inHand, records := t.records, points := t.points, flags := t.flags
          humpPermit := t.humpPermit, attentionLine := t.attentionLine }

/-- R146: POINT RESET of a FAULT point with detection and its drive off starts its settle; with a settle time of 0 it is SET at once.
R146: its refusals, in their order. -/
def Obligations.PointResetSettles : Prop :=
  (∀ (s : State) (p : Nat), Ready s → p < 256 →
    let answer := fun b : Byte => exec (.pointReset (byte1 p)) s = .next (finish (answeredBy 0x32#8 [b] s))
    (s.runState = .halted → answer 0x07#8)
    ∧ (s.runState ≠ .halted → pointUsed s.layout p = false → answer 0x02#8)
    ∧ (s.runState ≠ .halted → pointUsed s.layout p = true →
        (s.point p).state ≠ .fault ∨ (s.point p).drive ≠ none ∨ s.detected p = .none ∨ s.detected p = .both → answer 0x0A#8))
  ∧ ∀ (s : State) (p : Nat) (x : Position), Ready s → s.runState ≠ .halted → pointUsed s.layout p = true →
    (s.point p).state = .fault → (s.point p).drive = none → s.detected p = .at x → s.claimsAt p = [] →
    ∃ t, exec (.pointReset (byte1 p)) s = .next t
      ∧ t.point p = (if settleTime s.layout = 0 then { s.point p with
            state := .atRest, target := none, drive := none, throwLimit := none, settleTimer := none, lastSettled := s.clock
            idleTimer := if coldIdle s.layout = 0 then none else some (later s.clock (coldIdle s.layout * 1000)), stood := false }
          else { s.point p with
            state := .settling, target := some x, drive := none, throwLimit := none
            settleTimer := some (later s.clock (settleTime s.layout)) })
      ∧ (∀ q, q ≠ p → t.point q = s.point q)
      ∧ t.inHand = some { code := 0xB2#8, body := 0x00#8 :: pointImage t p }
      ∧ t = { s with
          pending := t.pending, receiver := .hunting, inHand := t.inHand, records := t.records, points := t.points, flags := t.flags
          humpPermit := t.humpPermit, attentionLine := t.attentionLine }

/-! ### Point events -/

/-- R134, R137, R139, R140: what a change of one detection input does at the point that names the pair; with a settle time of 0
the point comes SET at once, and the throw decision follows (R120). R122: the watch point of each cut with a claim there is chosen afresh when the
point changes state or detected position (of a cut marked unplanned-below, the model's choice: log 30). -/
def Obligations.DetectionChanges : Prop :=
  ∀ (s : State) (d : Nat) (i : Position) (on : Bool) (p : Nat), 1 ≤ d → d ≤ 64 → (s.pair d).level i ≠ on →
    s.runState ≠ .halted → pointOfPair s.layout d = some p →
    ∃ t, exec (.detectionChange d i on) s = .next t
      ∧ (t.pair d).level i = on ∧ (t.pair d).level (otherPosition i) = (s.pair d).level (otherPosition i)
      ∧ (∀ e, e ≠ d → t.pair e = s.pair e)
      ∧ (∀ x, (s.point p).state = .throwing → (s.point p).target = some x → t.detected p = .at x → settleTime s.layout ≠ 0 →
          t.point p = { s.point p with
            state := .settling, drive := none, throwLimit := none, settleTimer := some (later s.clock (settleTime s.layout)) })
      ∧ ((s.point p).state = .throwing ∧ (s.point p).target ≠ none ∧ t.detected p = .both
            ∨ (s.point p).state = .settling ∧ (∀ x, (s.point p).target = some x → t.detected p ≠ .at x)
            ∨ (s.point p).state = .atRest ∧ (t.detected p = .none ∨ t.detected p = .both) →
          t.point p = { s.point p with state := .fault, target := none, drive := none, throwLimit := none, settleTimer := none }
            ∧ latched .pointFault t = true)
      ∧ (∀ x, (s.point p).state = .fault → (s.point p).drive ≠ none → (s.point p).target = some x →
          (t.detected p = .at x ∨ t.detected p = .both) →
          t.point p = { s.point p with target := none, drive := none, throwLimit := none })
      ∧ (∀ x, (s.point p).state = .throwing → (s.point p).target = some x → (t.detected p = .none ∨ t.detected p = .at (otherPosition x)) →
          t.point p = s.point p)
      ∧ (∀ x, (s.point p).state = .throwing → (s.point p).target = some x → t.detected p = .at x → settleTime s.layout = 0 →
          ({ s with detections := t.detections, points := Table.write PointEntry.initial s.points p (s.setEntry p) } : State).Decided p (t.point p))
      ∧ (∀ n r, t.record n = some r → r.state = .releasing ∨ r.state = .rolling → t.claimOf p n ≠ none →
          (t.point p).state ≠ (s.point p).state ∨ t.detected p ≠ s.detected p → t.WatchChosen r)
      ∧ t = { s with
          pending := t.pending, detections := t.detections, records := t.records, points := t.points, flags := t.flags
          humpPermit := t.humpPermit, attentionLine := t.attentionLine }

/-- R138, R141: the throw limit of a THROWING point makes it FAULT and latches POINT_FAULT; at a FAULT point it puts the drive off and nothing
further latches. R139, R120, R136: the settle timer of a SETTLING point makes it SET with its last-settled time now; the throw decision that follows
throws it toward the position of its head claim exactly where R120's five conditions hold. R108: the idle timer makes the point count as having
stood, so that its cold budget is in force. -/
def Obligations.PointTimersRunOut : Prop :=
  (∀ (s : State) (p : Nat) (l : Instant), (s.point p).throwLimit = some l → after l s.clock = false →
      ((s.point p).state = .throwing → ∃ t, exec (.throwLimitExpiry p) s = .next t
          ∧ t.point p = { s.point p with state := .fault, target := none, drive := none, throwLimit := none, settleTimer := none }
          ∧ latched .pointFault t = true ∧ (∀ q, q ≠ p → t.point q = s.point q)
          ∧ t = { s with
              pending := t.pending, records := t.records, points := t.points, flags := t.flags, humpPermit := t.humpPermit
              attentionLine := t.attentionLine })
      ∧ ((s.point p).state = .fault → ∃ t, exec (.throwLimitExpiry p) s = .next t
          ∧ t.point p = { s.point p with target := none, drive := none, throwLimit := none }
          ∧ (∀ q, q ≠ p → t.point q = s.point q)
          ∧ t = { s with points := t.points, humpPermit := t.humpPermit, attentionLine := t.attentionLine }))
  ∧ (∀ (s : State) (p : Nat) (l : Instant), (s.point p).state = .settling → (s.point p).settleTimer = some l → after l s.clock = false →
      ∃ t, exec (.settleTimerExpiry p) s = .next t
        ∧ ({ s with points := Table.write PointEntry.initial s.points p (s.setEntry p) } : State).Decided p (t.point p)
        ∧ (∀ q, q ≠ p → t.point q = s.point q)
        ∧ t = { s with
            pending := t.pending, records := t.records, points := t.points, flags := t.flags, humpPermit := t.humpPermit
            attentionLine := t.attentionLine })
  ∧ (∀ (s : State) (p : Nat) (l : Instant), (s.point p).idleTimer = some l → after l s.clock = false →
      ∃ t, exec (.idleTimerExpiry p) s = .next t
        ∧ t.point p = { s.point p with idleTimer := none, stood := true }
        ∧ (coldIdle s.layout ≠ 0 → t.budget p = coldBudget s.layout p) ∧ (coldIdle s.layout = 0 → t.budget p = throwBudget s.layout p)
        ∧ (∀ q, q ≠ p → t.point q = s.point q)
        ∧ t = { s with
            pending := t.pending, records := t.records, points := t.points, flags := t.flags, humpPermit := t.humpPermit
            attentionLine := t.attentionLine })

/-! ### Run control -/

/-- R150, R84, R135: RUN from HALTED to STANDBY, the layout checks having passed. R12 to R19: what a pass means for the layout and the tree
derived from it: TREE, SWITCH, TRACK, the paths and routes, the root point, FALLBACK, CHANNEL, RANGE and DEFAULT. -/
def Obligations.RunEntersStandby : Prop :=
  (∀ (s : State) (force : Byte), Ready s → s.runState = .halted → layoutCheck s.active = none →
    ∃ t, exec (.run [0x01#8, force]) s = .next t
      ∧ t.runState = .standby ∧ t.tree = deriveTree s.layout ∧ t.inHand = some { code := 0xC0#8, body := [0x00#8, 0x01#8] }
      ∧ (∀ x, t.section x = (if sectionUsed s.layout x = true
          then { s.section x with unexplained := s.channel (sectionChannel s.layout x), unproven := false, proving := none }
          else s.section x))
      ∧ (∀ p, t.point p = (if pointUsed s.layout p = true
          then { s.point p with
            state := if (s.detection p).isSome = true then .atRest else .fault
            target := none, drive := none, throwLimit := none, settleTimer := none, lastSettled := s.clock
            idleTimer := if coldIdle s.layout = 0 then none else some (later s.clock (coldIdle s.layout * 1000)), stood := false }
          else s.point p))
      ∧ (latched .sectionCause t = true ↔ latched .sectionCause s = true
          ∨ ∃ x, sectionUsed s.layout x = true ∧ s.channel (sectionChannel s.layout x) = true)
      ∧ (latched .pointFault t = true ↔ latched .pointFault s = true ∨ ∃ p, pointUsed s.layout p = true ∧ s.detection p = none)
      ∧ t = { s with
          receiver := .hunting, inHand := t.inHand, runState := .standby, tree := t.tree, sections := t.sections, points := t.points
          flags := t.flags, humpPermit := t.humpPermit, attentionLine := t.attentionLine })
  ∧ (∀ m : Image, layoutCheck (some m) = none →
      let g := deriveTree m
      (sectionUsed m 1 = true ∧ (∀ x, sectionUsed m x = true ↔ x ∈ g.sections.map SectionWay.sec) ∧ (g.sections.map SectionWay.sec).Nodup)
      ∧ (∀ e ∈ g.sections, e.path.Nodup ∧ e.path.head? = some 1 ∧ e.path.getLast? = some e.sec)
      ∧ (∀ p, pointUsed m p = true → sectionUsed m (switchSection m p) = true ∧ sectionLink m (switchSection m p) = .switch p)
      ∧ (∀ x p, sectionUsed m x = true → sectionLink m x = .switch p → pointUsed m p = true ∧ switchSection m p = x)
      ∧ ((∀ y, trackUsed m y = true ↔ y ∈ g.tracks.map TrackWay.track) ∧ (g.tracks.map TrackWay.track).Nodup)
      ∧ (∀ e ∈ g.tracks,
          (e.path.Nodup ∧ e.path.head? = some 1 ∧ ∀ x ∈ e.path, sectionUsed m x = true)
          ∧ (e.route ≠ [] ∧ e.route.length ≤ 63 ∧ (e.route.map Prod.fst).Nodup)
          ∧ e.route.map (fun pb => switchSection m pb.1) = e.path.filter (fun x => (pointOfSection m x).isSome)
          ∧ (∀ i x y, e.path[i]? = some x → e.path[i + 1]? = some y → sectionLink m x = .next y
              ∨ ∃ p b, sectionLink m x = .switch p ∧ (p, b) ∈ e.route ∧ branchTarget m p b = .sec y)
          ∧ (∃ p b, e.route.getLast? = some (p, b) ∧ e.path.getLast? = some (switchSection m p) ∧ branchTarget m p b = .track e.track))
      ∧ (∃ p, g.rootPoint = some p ∧ ∀ e ∈ g.tracks, e.route.head?.map Prod.fst = some p)
      ∧ (∀ p b x, pointUsed m p = true → branchTarget m p b = .sec x →
          trackUsed m (fallbackField m p b) = true ∧ g.trackBelow (fallbackField m p b) x = true)
      ∧ (∀ x y, sectionUsed m x = true → sectionUsed m y = true → sectionChannel m x = sectionChannel m y → x = y)
      ∧ (∀ p q, pointUsed m p = true → pointUsed m q = true → drivePair m p = drivePair m q ∨ detectionPair m p = detectionPair m q → p = q)
      ∧ (∀ x, sectionUsed m x = true → 10 ≤ sectionLength m x ∧ sectionLength m x ≤ 2000 ∧ 1 ≤ sectionChannel m x ∧ sectionChannel m x ≤ 128)
      ∧ (∀ p, pointUsed m p = true → 200 ≤ throwBudget m p ∧ throwBudget m p ≤ 5000 ∧ throwBudget m p ≤ coldBudget m p
          ∧ coldBudget m p ≤ 8000 ∧ 1 ≤ drivePair m p ∧ drivePair m p ≤ 64 ∧ 1 ≤ detectionPair m p ∧ detectionPair m p ≤ 64)
      ∧ (∀ y, trackUsed m y = true → 100 ≤ capacity m y ∧ capacity m y ≤ 20000 ∧ nearMargin m y ≤ 5000
          ∧ (alternateTrack m y = 0 ∨ trackUsed m (alternateTrack m y) = true))
      ∧ (10 ≤ releaseSpeed m ∧ releaseSpeed m ≤ 1500 ∧ couplingAllowance m ≤ 30 ∧ 200 ≤ separationGap m ∧ separationGap m ≤ 5000
          ∧ 4 ≤ permitLimit m ∧ permitLimit m ≤ 16 ∧ 2000 ≤ stallMinimum m ∧ stallMinimum m ≤ 60000 ∧ 500 ≤ provingInterval m
          ∧ provingInterval m ≤ 10000 ∧ coldIdle m ≤ 3600 ∧ settleTime m ≤ 1000 ∧ (joinPolicy m = 1 ∨ joinPolicy m = 2)
          ∧ 50 ≤ unlistedLength m ∧ unlistedLength m ≤ 4000 ∧ crestOffset m ≤ 500)
      ∧ (trackUsed m (defaultTrack m) = true ∧ defaultTrack m ∈ g.tracks.map TrackWay.track))

/-- R149: the moves between STANDBY and RUNNING, a RUN to the present state, and the refusals of RUN. -/
def Obligations.RunMovesAndRefusals : Prop :=
  ∀ (s : State) (force : Byte), Ready s →
    (s.runState = .standby →
      exec (.run [0x02#8, force]) s = .next (finish (answeredBy 0x40#8 [0x00#8, 0x02#8] { s with runState := .running })))
    ∧ (s.runState = .running →
      exec (.run [0x01#8, force]) s = .next (finish (answeredBy 0x40#8 [0x00#8, 0x01#8] { s with runState := .standby })))
    ∧ (s.runState = .standby → exec (.run [0x01#8, force]) s = .next (finish (answeredBy 0x40#8 [0x00#8, 0x01#8] s)))
    ∧ (s.runState = .running → exec (.run [0x02#8, force]) s = .next (finish (answeredBy 0x40#8 [0x00#8, 0x02#8] s)))
    ∧ (s.runState = .halted → force.toNat ≤ 1 → exec (.run [0x00#8, force]) s = .next (finish (answeredBy 0x40#8 [0x00#8, 0x00#8] s)))
    ∧ (s.runState = .halted → exec (.run [0x02#8, force]) s = .next (finish (answeredBy 0x40#8 [0x07#8] s)))
    ∧ (∀ k, s.runState = .halted → layoutCheck s.active = some k →
      exec (.run [0x01#8, force]) s
        = .next (finish (answeredBy 0x40#8 [0x0D#8, checkByte k] { s with flags := s.flags ||| 0x200 })))
    ∧ (s.runState ≠ .halted → 0 < s.inTree → exec (.run [0x00#8, 0x00#8]) s = .next (finish (answeredBy 0x40#8 [0x0C#8] s)))
    ∧ (1 < force.toNat → exec (.run [0x00#8, force]) s = .next (finish (answeredBy 0x40#8 [0x02#8] s)))
    ∧ (∀ b : Byte, 2 < b.toNat → exec (.run [b, force]) s = .next (finish (answeredBy 0x40#8 [0x02#8] s)))

/-- R152: a halt, plain or forced. R69, R152: where the committed lengths were accounted for, every one is 0 after it. -/
def Obligations.RunHalts : Prop :=
  ∀ (s : State) (force : Bool), Ready s → Followed s → s.runState ≠ .halted → (force = true ∨ s.inTree = 0) →
    ∃ t, exec (.run (byte1 0 ++ byteBool force)) s = .next t
      ∧ t.runState = .halted ∧ t.inTree = 0 ∧ t.humpPermit = false ∧ t.inHand = some { code := 0xC0#8, body := [0x00#8, 0x00#8] }
      ∧ (∀ n r, s.record n = some r → r.state.inTree = true → ∃ u, t.record n = some u ∧ u.state = .lost ∧ u.lostReason = some .halted
          ∧ u.head = none ∧ u.watch = none ∧ ∀ m ∈ s.joinedFollowers n, ∃ f, t.record m = some f ∧ f.state = .lost
            ∧ f.lostReason = some .leaderLost)
      ∧ (∀ n r, s.record n = some r → (r.state = .pending ∨ r.state = .settled ∨ r.state = .lost) → t.record n = some r)
      ∧ t.queue = s.queue ∧ (∀ p, t.claimsAt p = [])
      ∧ (∀ x, (t.section x).occupants = [] ∧ (t.section x).unexplained = false ∧ (t.section x).unproven = false
          ∧ (t.section x).proving = none)
      ∧ (∀ p, (t.point p).Quiet ∧ (t.point p).mode = (s.point p).mode ∧ (t.point p).lastSettled = (s.point p).lastSettled)
      ∧ (t.crest = .idle ∧ t.crestCut = none ∧ t.target = none ∧ t.separation = none ∧ t.remnantDue = none)
      ∧ (∀ x, (t.track x).fill = (s.track x).fill ∧ (t.track x).setting = (s.track x).setting)
      ∧ (Accounted s → ∀ x, (t.track x).committed = 0)
      ∧ t = { s with
          receiver := .hunting, inHand := t.inHand, records := t.records, inTree := 0, tracks := t.tracks, sections := t.sections
          claims := t.claims, points := t.points, flags := t.flags, runState := .halted, humpPermit := false
          crest := .idle, crestCut := none, target := none, separation := none, remnantDue := none, attentionLine := t.attentionLine }

/-! ### The layout store -/

/-- R156: LAYOUT LOAD copies the active layout into the working copy and answers its check. R156, R166: LAYOUT WRITE replaces the 128 bytes of the
half page named and no other byte, and answers the check of the whole copy. Their refusals. -/
def Obligations.WorkingCopyRequests : Prop :=
  (∀ (s : State) (page half : Nat) (data : List Byte), Ready s → page < 256 → half < 256 → data.length = 128 →
      (s.active = none → exec (.layoutLoad []) s = .next (finish (answeredBy 0x50#8 [0x03#8] s)))
      ∧ (s.runState ≠ .halted →
          exec (.layoutWrite (byte1 page ++ byte1 half ++ data)) s = .next (finish (answeredBy 0x51#8 [0x07#8] s)))
      ∧ (s.runState = .halted → 8 < page ∨ 1 < half →
          exec (.layoutWrite (byte1 page ++ byte1 half ++ data)) s = .next (finish (answeredBy 0x51#8 [0x02#8] s))))
  ∧ (∀ (s : State) (m : Image), Ready s → s.active = some m →
      exec (.layoutLoad []) s
        = .next (finish (answeredBy 0x50#8 (0x00#8 :: byte2 (crc (Image.readBytes m 0 2304)).toNat) { s with working := m })))
  ∧ (∀ (s : State) (page half : Nat) (data : List Byte), Ready s → s.runState = .halted → page ≤ 8 → half ≤ 1 → data.length = 128 →
      ∃ t, exec (.layoutWrite (byte1 page ++ byte1 half ++ data)) s = .next t
        ∧ (∀ i (h : i < data.length), Image.byte t.working (page * 256 + half * 128 + i) = data[i])
        ∧ (∀ a, a < page * 256 + half * 128 ∨ page * 256 + half * 128 + 128 ≤ a → Image.byte t.working a = Image.byte s.working a)
        ∧ t.inHand = some { code := 0xD1#8, body := 0x00#8 :: byte2 (crc (Image.readBytes t.working 0 2304)).toNat }
        ∧ t = { s with
            receiver := .hunting, inHand := t.inHand, working := t.working, humpPermit := t.humpPermit, attentionLine := t.attentionLine })

/-- R157: LAYOUT COMMIT erases the slot, begins programming it with a good header, and starts the commit timer; its refusals. R157: the three ends
of a commit: a completion that passes the header check, one that fails it, and the commit timer. That COMMIT_COMPLETE says by its operand whether
the slot reads back as programmed is the model's choice (log 9). -/
def Obligations.LayoutCommitBeginsAndEnds : Prop :=
  (∀ (s : State) (x : Nat) (name : List Byte), Ready s → x < 256 → name.length = 8 →
      (s.runState ≠ .halted → exec (.layoutCommit (byte1 x ++ name)) s = .next (finish (answeredBy 0x52#8 [0x07#8] s)))
      ∧ (s.runState = .halted → 2 < x → exec (.layoutCommit (byte1 x ++ name)) s = .next (finish (answeredBy 0x52#8 [0x02#8] s))))
  ∧ (∀ (s : State) (x : Nat) (name : List Byte), Ready s → s.runState = .halted → x ≤ 2 → name.length = 8 →
      ∃ t k, exec (.layoutCommit (byte1 x ++ name)) s = .next t ∧ t.commit = some k
        ∧ t.slot x = none ∧ headerCheck (t.slot x) = false ∧ (∀ y, y ≠ x → t.slot y = s.slot y)
        ∧ (k.slot = x ∧ k.contents.name = name ∧ k.contents.image = s.working ∧ headerCheck (some k.contents) = true
            ∧ k.timer = later s.clock 3000)
        ∧ (∀ c, s.slot x = some c → headerCheck (some c) = true → k.contents.generation = c.generation + 1)
        ∧ (headerCheck (s.slot x) = false → k.contents.generation = 1)
        ∧ t.inHand = some { code := 0xD2#8, body := 0x00#8 :: byte2 k.contents.generation.toNat }
        ∧ t = { s with
            receiver := .hunting, inHand := t.inHand, slots := t.slots, commit := t.commit
            humpPermit := t.humpPermit, attentionLine := t.attentionLine })
  ∧ (∀ (s : State) (k : Commit), s.commit = some k →
      (headerCheck (some k.contents) = true → ∃ t, exec (.commitComplete true) s = .next t ∧ t.commit = none
        ∧ t.lastCommit = .done k.slot ∧ t.slot k.slot = some k.contents ∧ (∀ y, y ≠ k.slot → t.slot y = s.slot y)
        ∧ t = { s with
            commit := none, lastCommit := .done k.slot, slots := t.slots, flags := s.flags ||| 0x400
            humpPermit := t.humpPermit, attentionLine := t.attentionLine })
      ∧ (∃ t, exec (.commitComplete false) s = .next t ∧ headerCheck (t.slot k.slot) = false ∧ (∀ y, y ≠ k.slot → t.slot y = s.slot y)
        ∧ t = { s with
            commit := none, lastCommit := .failed k.slot, slots := t.slots, flags := s.flags ||| 0x400
            humpPermit := t.humpPermit, attentionLine := t.attentionLine })
      ∧ (after k.timer s.clock = false →
        exec .commitTimerExpiry s
          = .next (finish { s with commit := none, lastCommit := .failed k.slot, flags := s.flags ||| 0x400 })))

/-- R159, R66: LAYOUT SELECT of a slot that passes its header check, and its refusals in their order. -/
def Obligations.LayoutSelectActivates : Prop :=
  (∀ (s : State) (x : Nat), Ready s → x < 256 →
    (s.runState ≠ .halted → exec (.layoutSelect (byte1 x)) s = .next (finish (answeredBy 0x53#8 [0x07#8] s)))
    ∧ (s.runState = .halted → 2 < x → exec (.layoutSelect (byte1 x)) s = .next (finish (answeredBy 0x53#8 [0x02#8] s)))
    ∧ (s.runState = .halted → x ≤ 2 → headerCheck (s.slot x) = false →
        exec (.layoutSelect (byte1 x)) s = .next (finish (answeredBy 0x53#8 [0x03#8] s))))
  ∧ ∀ (s : State) (x : Nat) (c : SlotContents), Ready s → Canonical s → s.runState = .halted → x ≤ 2 → s.slot x = some c →
    headerCheck (some c) = true →
    ∃ t, exec (.layoutSelect (byte1 x)) s = .next t
      ∧ t.active = some c.image ∧ t.activeGeneration = some c.generation ∧ t.activeSlot = x
      ∧ (∀ y, t.track y = { fill := (s.track y).fill, committed := 0, setting := .closed })
      ∧ t.inHand = some { code := 0xD3#8, body := 0x00#8 :: byte1 x ++ byte2 c.generation.toNat ++ c.name }
      ∧ t = { s with
          receiver := .hunting, inHand := t.inHand, active := t.active, activeGeneration := t.activeGeneration, activeSlot := x
          tracks := t.tracks, humpPermit := t.humpPermit, attentionLine := t.attentionLine }

/-! ### The crest -/

/-- R49: in HALTED an axle pulse is ignored entirely. R2, R84: in HALTED, or on a channel no section in use names, a change of an input is
recorded and has no other effect. R5, R134: so is a change of a detection input in HALTED, or of a pair that no point in use names. -/
def Obligations.HaltedEventsChangeNothing : Prop :=
  (∀ s : State, s.runState = .halted → exec .axlePulse s = .next s)
  ∧ (∀ (s : State) (c : Nat), 1 ≤ c → c ≤ 128 → (s.runState = .halted ∨ sectionOfChannel s.layout c = none) →
      (s.channel c = false → ∃ t, exec (.sectionOccupied c) s = .next t ∧ t.channel c = true ∧ (∀ d, d ≠ c → t.channel d = s.channel d)
        ∧ t = { s with channels := t.channels, humpPermit := t.humpPermit, attentionLine := t.attentionLine })
      ∧ (s.channel c = true → ∃ t, exec (.sectionClear c) s = .next t ∧ t.channel c = false ∧ (∀ d, d ≠ c → t.channel d = s.channel d)
        ∧ t = { s with channels := t.channels, humpPermit := t.humpPermit, attentionLine := t.attentionLine }))
  ∧ (∀ (s : State) (d : Nat) (i : Position) (on : Bool), 1 ≤ d → d ≤ 64 → (s.pair d).level i ≠ on →
      (s.runState = .halted ∨ ∀ p, pointUsed s.layout p = true → detectionPair s.layout p ≠ d) →
      ∃ t, exec (.detectionChange d i on) s = .next t
        ∧ (t.pair d).level i = on ∧ (t.pair d).level (otherPosition i) = (s.pair d).level (otherPosition i)
        ∧ (∀ e, e ≠ d → t.pair e = s.pair e)
        ∧ t = { s with detections := t.detections, humpPermit := t.humpPermit, attentionLine := t.attentionLine })

/-- R49, R50, R52, R70 to R72, R116: the first axle of a group in RUNNING releases the queue head, a listed cut, with the track and reason that the
release assignment gives it (TracksAndTheReleaseAssignment says which), OVERFILL where that track cannot take it. R114: its claims come at their
places by release sequence. R120: where its claim is the first at a point, the throw decision is taken there. R109, R119, R122: its watch point,
last moment and timer. -/
def Obligations.FirstAxleReleasesTheQueueHead : Prop :=
  ∀ (s : State) (n x : Nat) (rest : List Nat) (r : Record), s.runState = .running → s.crest = .idle → s.remnantDue = none →
    s.queue = n :: rest → s.record n = some r → r.origin = .listed → r.requested = some x → r.joined = none → r.assigned = none →
    r.state = .pending → r.head = none → s.inTree < 24 →
    (∀ p, s.claimOf p n = none) →
    let a := releaseChoice s x (s.effective n)
    ((s.tree.route a.track).map Prod.fst).Nodup →
    ∃ t u, exec .axlePulse s = .next t ∧ t.record n = some u
      ∧ (t.crest = .counting ∧ t.crestCut = some n ∧ t.target = some n ∧ t.queue = rest)
      ∧ t.separation = some (later s.clock (separationGap s.layout))
      ∧ (t.inTree = s.inTree + 1 ∧ t.seqCounter = s.seqCounter + 1)
      ∧ (u.state = .releasing ∧ u.releaseSeq = some s.seqCounter ∧ u.measuredAxles = 1 ∧ u.speed = some (releaseSpeed s.layout))
      ∧ (u.assigned = some a ∧ u.firstAxle = s.clock ∧ u.unseen = true ∧ u.requested = some x)
      ∧ u.marks = (if s.canTake a.track (s.effective n) = true then r.marks else r.marks ||| 0x100)
      ∧ (t.track a.track).committed = (s.track a.track).committed + s.effective n ∧ (∀ y, y ≠ a.track → t.track y = s.track y)
      ∧ (∀ p b, (p, b) ∈ s.tree.route a.track → t.claimOf p n = some { cut := n, position := b, spent := false }
          ∧ t.Placed Claim.cut { cut := n, position := b, spent := false } (s.claimsAt p) (t.claimsAt p)
          ∧ (s.claimsAt p = [] →
              ({ s with records := t.records, claims := t.claims } : State).Decided p (t.point p)))
      ∧ (∀ p, p ∉ (s.tree.route a.track).map Prod.fst → t.claimOf p n = none)
      ∧ (∀ p m, m ≠ n → t.claimOf p m = s.claimOf p m)
      ∧ t.WatchChosen u ∧ latched .cutChanged t = true
      ∧ t = { s with
          pending := t.pending, records := t.records, queue := rest, seqCounter := s.seqCounter + 1, crest := .counting
          crestCut := some n, target := some n
          separation := t.separation, tracks := t.tracks, claims := t.claims, points := t.points, inTree := s.inTree + 1
          flags := t.flags, humpPermit := t.humpPermit, attentionLine := t.attentionLine }

/-- R52, R73, R130: a listed cut with track OPEN is released with no track and no claim, watched at the root point, and NEEDS_TRACK latches. R50,
R51, R61, R62: a first axle with a remnant due, in STANDBY, or with the queue empty releases a new unlisted record of that origin on the default
track, or, when no slot is free, counts the group untracked and latches CREST; in STANDBY the RUN flag latches; a remnant due is cleared and the
queue keeps its order. R22: the record takes the first number, from the counter on, that no record carries. R53: with 24 cuts in the tree the
record, unlisted or the queue head, goes straight to LOST OVERLOAD, and the group is counted on it. -/
def Obligations.OtherFirstAxles : Prop :=
  (∀ (s : State) (n : Nat) (rest : List Nat) (r : Record), s.runState = .running → s.crest = .idle → s.remnantDue = none →
      s.queue = n :: rest → s.record n = some r → r.origin = .listed → r.requested = none → r.assigned = none → s.inTree < 24 →
      ∃ t u, exec .axlePulse s = .next t ∧ t.record n = some u ∧ u.state = .releasing ∧ u.assigned = none
        ∧ u.watch = s.tree.rootPoint ∧ t.WatchChosen u ∧ (∀ p, t.claimsAt p = s.claimsAt p) ∧ t.tracks = s.tracks ∧ latched .needsTrack t = true
        ∧ (t.crestCut = some n ∧ t.target = some n ∧ t.queue = rest ∧ t.inTree = s.inTree + 1))
  ∧ (∀ (s : State) (o : Origin), s.crest = .idle →
      (s.remnantDue.map Origin.remnant = some o ∧ s.runState ≠ .halted
        ∨ s.remnantDue = none ∧ s.runState = .standby ∧ o = .standbyRelease
        ∨ s.remnantDue = none ∧ s.runState = .running ∧ s.queue = [] ∧ o = .noList) →
      let road := defaultTrack s.layout
      let number := fun k => 61440 + (s.unlistedCounter - 61440 + k) % 4096
      (∀ k, s.records.length < 48 → 61440 ≤ s.unlistedCounter → s.unlistedCounter ≤ 65535 →
        (∀ j, j < k → (s.record (number j)).isSome = true) → s.record (number k) = none → ∃ t u, exec .axlePulse s = .next t
        ∧ t.record (number k) = some u
        ∧ (u.origin = o ∧ u.measuredAxles = 1 ∧ u.declaredAxles = none ∧ u.releaseSeq = some s.seqCounter)
        ∧ (u.requested = some road ∧ u.declaredLength = unlistedLength s.layout)
        ∧ (s.inTree < 24 → u.state = .releasing ∧ u.assigned = some { track := road, reason := .defaultUnlisted } ∧ t.inTree = s.inTree + 1
            ∧ (t.track road).committed = (s.track road).committed + (unlistedLength s.layout + couplingAllowance s.layout)
            ∧ ∀ y, y ≠ road → t.track y = s.track y)
        ∧ (24 ≤ s.inTree → u.state = .lost ∧ u.lostReason = some .overload ∧ u.assigned = none ∧ t.inTree = s.inTree
            ∧ t.tracks = s.tracks ∧ latched .lost t = true)
        ∧ (t.crest = .counting ∧ t.crestCut = some (number k) ∧ t.target = some (number k))
        ∧ t.unlistedCounter = (if number k = 65535 then 61440 else number k + 1)
        ∧ (t.seqCounter = s.seqCounter + 1 ∧ t.queue = s.queue ∧ t.remnantDue = none)
        ∧ (latched .run t = true ↔ s.runState = .standby ∨ latched .run s = true))
      ∧ (48 ≤ s.records.length → exec .axlePulse s = .next (finish { s with
          crest := .counting, crestCut := none, target := none, remnantDue := none
          separation := some (later s.clock (separationGap s.layout))
          flags := s.flags ||| (if s.runState = .standby then 0x200 else 0) ||| 0x020 })))
  ∧ (∀ (s : State) (n : Nat) (rest : List Nat) (r : Record), s.runState = .running → s.crest = .idle → s.remnantDue = none →
      s.queue = n :: rest → s.record n = some r → r.state = .pending → 24 ≤ s.inTree →
      ∃ t u, exec .axlePulse s = .next t ∧ t.record n = some u
        ∧ u = { r with
            state := .lost, lostReason := some .overload, measuredAxles := 1, releaseSeq := some s.seqCounter, unseen := true }
        ∧ (∀ k, k ≠ n → t.record k = s.record k) ∧ latched .lost t = true ∧ latched .cutChanged t = true
        ∧ t = { s with
            records := t.records, queue := rest, seqCounter := s.seqCounter + 1, crest := .counting, crestCut := some n, target := some n
            separation := some (later s.clock (separationGap s.layout)), flags := t.flags
            humpPermit := t.humpPermit, attentionLine := t.attentionLine })

/-- R49, R54: a pulse while COUNTING is counted on the target, up to 255, with OVERCOUNT past the declared axles when no join is possible: in
STANDBY, with an empty queue, with no crest cut, or with 3 followers in its joined list. R62: a pulse of an untracked group restarts the
separation timer alone. -/
def Obligations.PulsesAreCounted : Prop :=
  (∀ s : State, s.runState ≠ .halted → s.crest = .counting → s.target = none →
    exec .axlePulse s = .next (finish { s with separation := some (later s.clock (separationGap s.layout)) }))
  ∧ ∀ (s : State) (n : Nat) (r : Record), s.runState ≠ .halted → s.crest = .counting → s.target = some n → s.record n = some r →
    (r.declaredAxles = none ∨ (∃ d, r.declaredAxles = some d ∧ (r.measuredAxles < d ∨ s.runState = .standby
      ∨ s.queue = [] ∨ s.crestCut = none ∨ ∀ c l, s.crestCut = some c → s.record c = some l → 3 ≤ l.followers.length))) →
    ∃ t u, exec .axlePulse s = .next t ∧ t.record n = some u ∧ u.measuredAxles = min 255 (r.measuredAxles + 1)
      ∧ (u = { r with measuredAxles := u.measuredAxles, marks := u.marks, unseen := u.unseen })
      ∧ u.marks = (match r.declaredAxles with
          | some d => if r.measuredAxles < d then r.marks else r.marks ||| 0x002
          | none => r.marks)
      ∧ (∀ k, k ≠ n → t.record k = s.record k)
      ∧ t = { s with
          records := t.records, separation := some (later s.clock (separationGap s.layout)), flags := t.flags
          humpPermit := t.humpPermit, attentionLine := t.attentionLine }

/-- R29, R55, R56: a pulse past the declared axles joins the queue head to the crest cut; under LEADER, and under REHUMP where the default track
does not lie below its head (R57), its length is committed to the crest cut's track; a crest cut waiting for its track stays so under LEADER. R57:
under REHUMP the group is otherwise sent to the default track with its length: its claims are brought in line with that route (R114, R116, R118)
and its watch point is chosen afresh (R122). R58: a follower joined to a crest cut that is LOST or SETTLED goes the same way, and no length or
claim is touched. -/
def Obligations.JoinsUnderLeader : Prop :=
  ∀ (s : State) (c m n d : Nat) (rest : List Nat) (l k f : Record), s.runState = .running → s.crest = .counting →
    s.crestCut = some c → s.target = some m → s.queue = n :: rest → s.record c = some l → s.record m = some k → s.record n = some f →
    f.state = .pending → n ≠ c → n ≠ m → k.declaredAxles = some d → d ≤ k.measuredAxles → l.followers.length < 3 → n ∉ l.followers →
    let road := defaultTrack s.layout
    let goes := joinPolicy s.layout = 2 ∧ s.tree.trackBelow road (l.head.getD 1) = true
    ∃ t l' f', exec .axlePulse s = .next t ∧ t.record n = some f' ∧ t.record c = some l'
      ∧ (f'.joined = some (.follower c) ∧ f'.measuredAxles = 1 ∧ f'.releaseSeq = some s.seqCounter ∧ f'.requested = f.requested
          ∧ f'.unseen = true)
      ∧ (l'.joined = some (.leader (l.followers ++ [n])) ∧ l'.state = l.state ∧ l'.requested = l.requested)
      ∧ (t.queue = rest ∧ t.target = some n ∧ t.crestCut = some c ∧ t.seqCounter = s.seqCounter + 1 ∧ t.inTree = s.inTree)
      ∧ latched .crest t = true
      ∧ (l.state.inTree = true → f'.state = .joined ∧ f'.assigned = l'.assigned)
      ∧ (∀ a, l.state.inTree = true → l.assigned = some a → ¬ goes → l'.assigned = some a
          ∧ l'.marks = (if s.canTake a.track (s.effective n) = true then l.marks else l.marks ||| 0x100)
          ∧ t.track a.track = { s.track a.track with committed := (s.track a.track).committed + s.effective n }
          ∧ (∀ y, y ≠ a.track → t.track y = s.track y) ∧ t.claims = s.claims ∧ t.points = s.points ∧ t.pending = s.pending)
      ∧ (l.state.inTree = true → l.assigned = none → joinPolicy s.layout ≠ 2 → l'.assigned = none ∧ l'.marks = l.marks
          ∧ t.tracks = s.tracks ∧ t.claims = s.claims ∧ t.points = s.points ∧ t.pending = s.pending)
      ∧ (∀ a, l.state.inTree = true → l.assigned = some a → goes → l'.assigned = some { track := road, reason := .defaultJoin }
          ∧ (∀ j ∈ s.joinedFollowers c, ∃ g, t.record j = some g ∧ g.state = .joined ∧ g.assigned = l'.assigned)
          ∧ (let len := if a.track = road then s.effective n else s.groupLength c + s.effective n
             (t.track road).committed = (s.track road).committed + len
             ∧ l'.marks = (if s.canTake road len = true then l.marks else l.marks ||| 0x100))
          ∧ (a.track ≠ road → (t.track a.track).committed = (s.track a.track).committed - s.groupLength c)
          ∧ (∀ y, y ≠ road → y ≠ a.track → t.track y = s.track y)
          ∧ s.ClaimsOn t l road ∧ (l.state = .releasing ∨ l.state = .rolling → t.WatchChosen l'))
      ∧ (l.state.inTree = true → l.assigned = none → joinPolicy s.layout = 2 →
          l'.assigned = some { track := road, reason := .defaultJoin }
          ∧ (t.track road).committed = (s.track road).committed + (s.groupLength c + s.effective n)
          ∧ (∀ y, y ≠ road → t.track y = s.track y)
          ∧ l'.marks = (if s.canTake road (s.groupLength c + s.effective n) = true then l.marks else l.marks ||| 0x100)
          ∧ s.ClaimsOn t l road ∧ (l.state = .releasing ∨ l.state = .rolling → t.WatchChosen l'))
      ∧ (l.state = .lost → f'.state = .lost ∧ f'.lostReason = some .leaderLost ∧ latched .lost t = true)
      ∧ (∀ x, l.state = .settled → l.outcome = some x → f'.state = .settled ∧ f'.outcome = some x)
      ∧ (l.state = .lost ∨ l.state = .settled → l'.assigned = l.assigned ∧ t.tracks = s.tracks ∧ t.claims = s.claims ∧ t.points = s.points)
      ∧ t = { s with
          pending := t.pending, records := t.records, queue := rest, seqCounter := s.seqCounter + 1, target := some n, tracks := t.tracks
          claims := t.claims, points := t.points, flags := t.flags, separation := some (later s.clock (separationGap s.layout))
          humpPermit := t.humpPermit, attentionLine := t.attentionLine }

/-- R59, R60: the separation timer runs out: a listed target that fell short is marked SHORT and leaves a remnant due, a RELEASING crest cut
becomes ROLLING, and the Crest Counter is IDLE. R62, R64: a group with no target, or with no crest cut. -/
def Obligations.SeparationEndsTheGroup : Prop :=
  (∀ (s : State) (l : Instant), s.crest = .counting → s.separation = some l → after l s.clock = false → s.target = none →
    ∃ t, exec .separation s = .next t ∧ (t.crest = .idle ∧ t.crestCut = none ∧ t.target = none ∧ t.separation = none)
      ∧ t.remnantDue = s.remnantDue
      ∧ (∀ c r, s.crestCut = some c → s.record c = some r → ∃ u, t.record c = some u ∧ u.marks = r.marks
          ∧ u.state = (if r.state = .releasing then .rolling else r.state))
      ∧ (∀ j, s.crestCut ≠ some j → t.record j = s.record j)
      ∧ t = { s with
          records := t.records, crest := .idle, crestCut := none, target := none, separation := none, flags := t.flags
          humpPermit := t.humpPermit, attentionLine := t.attentionLine })
  ∧ (∀ (s : State) (l : Instant) (n : Nat) (k : Record), s.crest = .counting → s.separation = some l → after l s.clock = false →
    s.crestCut = none → s.target = some n → s.record n = some k →
    ∃ t v, exec .separation s = .next t ∧ t.record n = some v
      ∧ (t.crest = .idle ∧ t.crestCut = none ∧ t.target = none ∧ t.separation = none) ∧ v.state = k.state
      ∧ (∀ d, k.declaredAxles = some d → k.measuredAxles < d → t.remnantDue = some n ∧ v.marks = k.marks ||| 0x001)
      ∧ ((k.declaredAxles = none ∨ ∃ d, k.declaredAxles = some d ∧ d ≤ k.measuredAxles) → t.remnantDue = s.remnantDue ∧ v = k)
      ∧ (∀ j, j ≠ n → t.record j = s.record j))
  ∧ ∀ (s : State) (l : Instant) (c n : Nat) (r k : Record), s.crest = .counting → s.separation = some l → after l s.clock = false →
    s.crestCut = some c → s.record c = some r → s.target = some n → s.record n = some k →
    ∃ t u v, exec .separation s = .next t ∧ t.record c = some u ∧ t.record n = some v
      ∧ (t.crest = .idle ∧ t.crestCut = none ∧ t.target = none ∧ t.separation = none)
      ∧ u.state = (if r.state = .releasing then .rolling else r.state)
      ∧ (∀ d, k.declaredAxles = some d → k.measuredAxles < d →
          t.remnantDue = some n ∧ v.marks = k.marks ||| 0x001 ∧ latched .crest t = true)
      ∧ ((k.declaredAxles = none ∨ ∃ d, k.declaredAxles = some d ∧ d ≤ k.measuredAxles) →
          t.remnantDue = s.remnantDue ∧ v.marks = k.marks)
      ∧ (∀ j, j ≠ c → j ≠ n → t.record j = s.record j)
      ∧ t = { s with
          records := t.records, crest := .idle, crestCut := none, target := none, separation := none, remnantDue := t.remnantDue
          flags := t.flags, humpPermit := t.humpPermit, attentionLine := t.attentionLine }

/-! ### The ladder -/

/-- R83, R86, R104: the first entry of a cut: its tail is there too, and its speed is kept. R82, R86, R97, R99, R104, R122: a section becomes occupied
and its entrant is credited: its place in the list by release sequence, head, entry time, speed, stall deadline, resume, watch point. The speed is
measured where the head entry time was timed, is 10 with the mark where the stand timer has run out as well, and is kept where it was untimed (also
where the stand timer has run out: the model's choice, log 29). R87, R127, R128, R32: an entrant out of a switch section into a branch that the
point's detection or its claim disagrees with: MISROUTE, the entry with its reason, or "more", and the replan; one that agrees. R129: one marked
unplanned-below there is replanned. R89, R141: a cut entering the switch section of a moving point. R86: an entrant with no room is LOST OVERCROWDED.
That a misrouted cut with no assigned track takes the fallback of the branch, reason DIVERTED, is the model's reading (log 21), and the watch point
of a cut marked unplanned-below elsewhere its choice (log 30). -/
def Obligations.EntrantsAreCredited : Prop :=
  (∀ (s : State) (c x n : Nat) (r : Record), 1 ≤ c → c ≤ 128 → s.runState ≠ .halted → s.channel c = false →
      sectionOfChannel s.layout c = some x → s.entrant x = some n → s.record n = some r → (s.section x).occupants.length < 4 →
      r.head = none → r.tail = none →
      ∃ t w, exec (.sectionOccupied c) s = .next t ∧ t.record n = some w
        ∧ (w.head = some x ∧ w.tail = some x ∧ w.headEntry = some s.clock ∧ w.timed = true ∧ w.speed = r.speed)
        ∧ n ∈ (t.section x).occupants ∧ w.assigned = r.assigned ∧ t.tracks = s.tracks ∧ t.claims = s.claims
        ∧ (n ∉ (s.section x).occupants → t.Placed id n (s.section x).occupants (t.section x).occupants)
        ∧ (w.state = .releasing ∨ w.state = .rolling → t.WatchChosen w))
  ∧ (∀ (s : State) (c x n u : Nat) (r : Record) (t0 : Instant), 1 ≤ c → c ≤ 128 → s.runState ≠ .halted → s.channel c = false →
      sectionOfChannel s.layout c = some x → s.entrant x = some n → s.record n = some r → (s.section x).occupants.length < 4 →
      r.head = some u → r.headEntry = some t0 →
      let raw := sectionLength s.layout u * 10000 / max 1 (s.clock - t0).toNat
      let len := sectionLength s.layout x + if s.isLastSwitch n x = true then s.groupLength n else 0
      ∃ t w, exec (.sectionOccupied c) s = .next t ∧ t.record n = some w
        ∧ (w.head = some x ∧ w.headEntry = some s.clock ∧ w.timed = true ∧ n ∈ (t.section x).occupants)
        ∧ (r.timed = true → r.standTimer ≠ .ranOut → w.speed = some (max 10 (min 1500 raw))
            ∧ hasMark w .speedClamped = (hasMark r .speedClamped || decide (raw < 10 ∨ 1500 < raw)))
        ∧ (r.timed = true → r.standTimer = .ranOut → w.speed = some 10 ∧ hasMark w .speedClamped = true)
        ∧ (r.timed = false → w.speed = r.speed ∧ hasMark w .speedClamped = hasMark r .speedClamped)
        ∧ w.stallDeadline = some (later s.clock (max (stallMinimum s.layout) (3 * (len * 10000 / w.speed.getD 0))))
        ∧ (n ∉ (s.section x).occupants → t.Placed id n (s.section x).occupants (t.section x).occupants)
        ∧ (w.state = .releasing ∨ w.state = .rolling → t.WatchChosen w)
        ∧ w.state = (if r.state = .stalled then (if s.crest = .counting ∧ s.crestCut = some n then .releasing else .rolling) else r.state)
        ∧ t.channel c = true ∧ t.inTree = s.inTree
        ∧ (∀ y, (t.track y).fill = (s.track y).fill ∧ (t.track y).setting = (s.track y).setting)
        ∧ t = { s with
            pending := t.pending, channels := t.channels, records := t.records, inTree := t.inTree, tracks := t.tracks, sections := t.sections
            claims := t.claims, points := t.points, flags := t.flags, humpPermit := t.humpPermit, attentionLine := t.attentionLine })
  ∧ (∀ (s : State) (c x n u p : Nat) (b : Position) (r : Record), 1 ≤ c → c ≤ 128 → s.runState ≠ .halted → s.channel c = false →
      sectionOfChannel s.layout c = some x → s.entrant x = some n → s.record n = some r → (s.section x).occupants.length < 4 →
      r.head = some u → pointOfSection s.layout u = some p → branchTo s.layout p x = some b →
      let wrong := (∃ q, s.detection p = some q ∧ q ≠ b) ∨ ∃ k, s.claimOf p n = some k ∧ k.position ≠ b
      ∃ t w, exec (.sectionOccupied c) s = .next t ∧ t.record n = some w ∧ w.head = some x ∧ n ∈ (t.section x).occupants
        ∧ (wrong → hasMark w .misroute = true
            ∧ w.Noted r { point := p, reason := if s.detection p = none then .pointFault else .misroute } ∧ w.unplannedBelow = none
            ∧ (∀ a, r.assigned = some a → s.tree.trackBelow a.track x = true → w.assigned = some a)
            ∧ ((∀ a, r.assigned = some a → s.tree.trackBelow a.track x = false) →
                w.assigned = some { track := fallbackField s.layout p b, reason := .diverted }))
        ∧ (¬ wrong → hasMark w .misroute = hasMark r .misroute ∧ w.diversions = r.diversions ∧ w.more = r.more
            ∧ (r.unplannedBelow ≠ some p → w.assigned = r.assigned ∧ t.tracks = s.tracks)
            ∧ (r.unplannedBelow = some p → w.unplannedBelow = none
                ∧ (∀ a, r.assigned = some a → s.tree.trackBelow a.track x = true → w.assigned = some a)
                ∧ ((∀ a, r.assigned = some a → s.tree.trackBelow a.track x = false) →
                    w.assigned = some { track := fallbackField s.layout p b, reason := .diverted }))))
  ∧ (∀ (s : State) (c x n q : Nat) (r : Record), 1 ≤ c → c ≤ 128 → s.runState ≠ .halted → s.channel c = false →
      sectionOfChannel s.layout c = some x → s.entrant x = some n → s.record n = some r → (s.section x).occupants.length < 4 →
      pointOfSection s.layout x = some q → switchSection s.layout q = x →
      ∃ t w, exec (.sectionOccupied c) s = .next t ∧ t.record n = some w
        ∧ ((s.point q).state = .throwing → t.point q = { s.point q with state := .fault } ∧ latched .pointFault t = true
            ∧ hasMark w .movingPoint = true ∧ hasMark w .lateSettle = hasMark r .lateSettle)
        ∧ ((s.point q).state = .settling → hasMark w .lateSettle = true ∧ hasMark w .movingPoint = hasMark r .movingPoint
            ∧ t.point q = { s.point q with
                state := .atRest, target := none, drive := none, throwLimit := none, settleTimer := none, lastSettled := s.clock
                idleTimer := if coldIdle s.layout = 0 then none else some (later s.clock (coldIdle s.layout * 1000)), stood := false })
        ∧ ((s.point q).state ≠ .throwing → (s.point q).state ≠ .settling → t.point q = s.point q
            ∧ hasMark w .movingPoint = hasMark r .movingPoint ∧ hasMark w .lateSettle = hasMark r .lateSettle))
  ∧ (∀ (s : State) (c x n : Nat) (r : Record), 1 ≤ c → c ≤ 128 → s.runState ≠ .halted → s.channel c = false →
      sectionOfChannel s.layout c = some x → s.entrant x = some n → s.record n = some r → r.state.inTree = true →
      4 ≤ (s.section x).occupants.length →
      ∃ t w, exec (.sectionOccupied c) s = .next t ∧ t.record n = some w ∧ w.state = .lost ∧ w.lostReason = some .overcrowded
        ∧ (w.head = none ∧ w.assigned = r.assigned ∧ t.inTree = s.inTree - 1 ∧ latched .lost t = true)
        ∧ (t.section x).unproven = false ∧ (∀ y, n ∉ (t.section y).occupants) ∧ (∀ p, t.claimOf p n = none)
        ∧ (∀ m ∈ s.joinedFollowers n, ∃ f, t.record m = some f ∧ f.state = .lost ∧ f.lostReason = some .leaderLost)
        ∧ (∀ y, (t.track y).fill = (s.track y).fill
            ∧ (t.track y).committed = (s.track y).committed - (if s.assignedTrack n = some y then s.groupLength n else 0)))

/-- R85: the entrant of the release section is the earliest in-tree cut with no head section, and of any other the front-most occupant of its
upstream section whose head is there; or there is none. R88: an occupation with no entrant marks the section UNEXPLAINED and latches SECTION; of an
UNPROVEN section it ends the hold instead. R141: of the switch section of a moving point it still makes a THROWING point FAULT and a SETTLING point
SET. -/
def Obligations.NoEntrantIsUnexplained : Prop :=
  (∀ (s : State) (n : Nat) (r : Record), (s.records.map Record.number).Nodup → s.record n = some r → r.state.inTree = true → r.head = none →
    (∀ m q, s.record m = some q → q.state.inTree = true → q.head = none → m ≠ n → s.ReleasedBefore n m) → s.entrant 1 = some n)
  ∧ (∀ s : State, (s.records.map Record.number).Nodup → (∀ n r, s.record n = some r → r.state.inTree = true → r.head ≠ none) →
    s.entrant 1 = none)
  ∧ (∀ (s : State) (x u n : Nat) (r : Record) (front back : List Nat), x ≠ 1 → s.tree.upstream x = some u →
    (s.section u).occupants = front ++ n :: back → s.record n = some r → r.head = some u →
    (∀ m ∈ front, ∀ q, s.record m = some q → q.head ≠ some u) → s.entrant x = some n)
  ∧ (∀ (s : State) (x : Nat), x ≠ 1 →
    (∀ u, s.tree.upstream x = some u → ∀ n ∈ (s.section u).occupants, ∀ r, s.record n = some r → r.head ≠ some u) → s.entrant x = none)
  ∧ ∀ (s : State) (c x : Nat), 1 ≤ c → c ≤ 128 → s.runState ≠ .halted → s.channel c = false → sectionOfChannel s.layout c = some x →
    s.entrant x = none →
    ((s.section x).unproven = false → ∃ t, exec (.sectionOccupied c) s = .next t
      ∧ t.section x = { s.section x with unexplained := true } ∧ t.shownState x = .unexplained ∧ latched .sectionCause t = true
      ∧ (∀ y, y ≠ x → t.section y = s.section y) ∧ (s.records.map Record.number = t.records.map Record.number)
      ∧ t = { s with
          pending := t.pending, channels := t.channels, records := t.records, sections := t.sections, points := t.points, flags := t.flags
          humpPermit := t.humpPermit, attentionLine := t.attentionLine })
    ∧ ((s.section x).unproven = true → (s.section x).unexplained = false → ∃ t, exec (.sectionOccupied c) s = .next t
      ∧ t.section x = { s.section x with unproven := false, proving := none } ∧ t.shownState x = .occupied)
    ∧ (∀ q, pointOfSection s.layout x = some q → switchSection s.layout q = x → ∃ t, exec (.sectionOccupied c) s = .next t
      ∧ ((s.point q).state = .throwing → t.point q = { s.point q with state := .fault } ∧ latched .pointFault t = true)
      ∧ ((s.point q).state = .settling → t.point q = { s.point q with
            state := .atRest, target := none, drive := none, throwLimit := none, settleTimer := none, lastSettled := s.clock
            idleTimer := if coldIdle s.layout = 0 then none else some (later s.clock (coldIdle s.layout * 1000)), stood := false }))

/-- R90, R82, R83: when a section clears, an occupant whose head has gone on leaves its list, its tail becomes the next section of its span, it stands
in no list behind its new tail, and its claims at the points it has left behind are withdrawn (that it leaves the lists behind the clearing section
as well is the model's reading, log 28). R101, R120: a switch section that has come CLEAR is followed by the throw decision at its point: it is
thrown toward the position of the head claim as it then stands exactly where the five conditions hold. -/
def Obligations.TailLeavesTheSection : Prop :=
  (∀ (s : State) (c u h n : Nat) (r : Record), Canonical s → 1 ≤ c → c ≤ 128 → s.runState ≠ .halted → s.channel c = true →
    sectionOfChannel s.layout c = some u → (s.section u).occupants = [n] → s.record n = some r → r.head = some h → h ≠ u →
    n ∈ (s.section h).occupants → s.tree.sectionBelow h u = true →
    ∃ t w y, exec (.sectionClear c) s = .next t ∧ t.record n = some w ∧ w.tail = some y ∧ y ≠ u ∧ n ∈ (s.section y).occupants
      ∧ s.tree.sectionBelow y u = true
      ∧ (∀ z, z ≠ u → n ∈ (s.section z).occupants → s.tree.sectionBelow z u = true →
          (s.tree.sectionPath y).length ≤ (s.tree.sectionPath z).length)
      ∧ (∀ z, n ∈ (t.section z).occupants ↔ z ≠ u ∧ n ∈ (s.section z).occupants ∧ (z = y ∨ s.tree.sectionBelow z y = true))
      ∧ (∀ z p, n ∈ (s.section z).occupants → n ∉ (t.section z).occupants → pointOfSection s.layout z = some p → t.claimOf p n = none))
  ∧ ∀ (s : State) (c u h n : Nat) (r : Record), Canonical s → 1 ≤ c → c ≤ 128 → s.runState ≠ .halted → s.channel c = true →
    sectionOfChannel s.layout c = some u → (s.section u).occupants = [n] → s.record n = some r → r.head = some h → h ≠ u →
    n ∈ (s.section h).occupants → s.tree.sectionBelow h u = true → (∀ y, n ∈ (s.section y).occupants → y = u ∨ y = h) →
    ∃ t w, exec (.sectionClear c) s = .next t ∧ t.record n = some w
      ∧ (t.section u).occupants = [] ∧ (t.section u).unexplained = false ∧ (∀ y, y ≠ u → t.section y = s.section y)
      ∧ w.tail = some h ∧ w.head = r.head ∧ w.state = r.state ∧ w.speed = r.speed
      ∧ (∀ p, pointOfSection s.layout u = some p → t.claimOf p n = none)
      ∧ (∀ p, pointOfSection s.layout u ≠ some p → t.claimOf p n = s.claimOf p n)
      ∧ (∀ p, pointOfSection s.layout u = some p → switchSection s.layout p = u →
          ({ s with channels := t.channels, sections := t.sections, claims := t.claims } : State).Decided p (t.point p))
      ∧ t.tracks = s.tracks ∧ t.inTree = s.inTree

/-- R91, R92, R77: the one cut in a clearing switch section whose point is detected toward a track is SETTLED there: its group's length leaves the
committed length of its track and becomes fill. R91, R92, R78: where the point has no detection and a branch names a track, it is LOST
NO_DETECTION, and no fill is added. -/
def Obligations.CutSettlesOnItsTrack : Prop :=
  (∀ (s : State) (c u p x n : Nat) (b : Position) (r : Record) (a : Assignment), 1 ≤ c → c ≤ 128 → s.runState ≠ .halted →
    s.channel c = true → sectionOfChannel s.layout c = some u → (s.section u).occupants = [n] → s.record n = some r →
    r.state.inTree = true → r.head = some u → pointOfSection s.layout u = some p → s.detection p = some b →
    branchTarget s.layout p b = .track x → r.assigned = some a →
    ∃ t w, exec (.sectionClear c) s = .next t ∧ t.record n = some w
      ∧ (w.state = .settled ∧ w.outcome = some x ∧ w.head = none ∧ w.tail = none ∧ w.watch = none ∧ w.speed = r.speed)
      ∧ (a.track = x → w.marks = r.marks ∧ w.diversions = r.diversions
          ∧ (t.track x).committed = (s.track x).committed - s.groupLength n)
      ∧ (a.track ≠ x → w.marks = r.marks ||| 0x080 ∧ w.Noted r { point := p, reason := .misroute } ∧ (t.track x).committed = (s.track x).committed
          ∧ (t.track a.track).committed = (s.track a.track).committed - s.groupLength n)
      ∧ (t.track x).fill = min ((s.track x).fill + s.groupLength n) 65535
      ∧ (∀ m ∈ s.joinedFollowers n, ∃ f, t.record m = some f ∧ f.state = .settled ∧ f.outcome = some x)
      ∧ (∀ y, n ∉ (t.section y).occupants) ∧ (∀ q, t.claimOf q n = none) ∧ t.inTree = s.inTree - 1)
  ∧ (∀ (s : State) (c u p n : Nat) (r : Record), 1 ≤ c → c ≤ 128 → s.runState ≠ .halted →
    s.channel c = true → sectionOfChannel s.layout c = some u → (s.section u).occupants = [n] → s.record n = some r →
    r.state.inTree = true → r.head = some u → pointOfSection s.layout u = some p → s.detection p = none →
    (∃ b x, branchTarget s.layout p b = .track x) →
    ∃ t w, exec (.sectionClear c) s = .next t ∧ t.record n = some w
      ∧ (w.state = .lost ∧ w.lostReason = some .noDetection ∧ w.head = none ∧ w.outcome = r.outcome ∧ w.marks = r.marks)
      ∧ (∀ m ∈ s.joinedFollowers n, ∃ f, t.record m = some f ∧ f.state = .lost ∧ f.lostReason = some .leaderLost)
      ∧ (∀ y, (t.track y).fill = (s.track y).fill
          ∧ (t.track y).committed = (s.track y).committed - (if s.assignedTrack n = some y then s.groupLength n else 0))
      ∧ (∀ y, n ∉ (t.section y).occupants) ∧ (∀ q, t.claimOf q n = none) ∧ t.inTree = s.inTree - 1 ∧ latched .lost t = true)

/-- R91, R93: the cut in a clearing section whose way out is a clear section, or is unknown at a point without detection both of whose branches
name sections, is held there UNPROVEN for the proving interval. R91, R97, R99: one whose way out is an occupied section is closed up into it, its
entry time untimed and its speed kept, with MISROUTE and a replan where its claim at the point disagrees with the way it went (R127), with a
replan where it is marked unplanned-below there (R129), or is LOST OVERCROWDED where that section's list is full; its watch point is chosen afresh
(R101, R122). That closing up keeps the speed also where the stand timer of a STALLED cut has run out is the model's choice (log 29), and so is
the watch point of one marked unplanned-below elsewhere (log 30); that a misrouted cut with no assigned track takes the fallback of the branch is
its reading (log 21). -/
def Obligations.UnseenWayOutIsHeld : Prop :=
  (∀ (s : State) (c u d n : Nat) (r : Record), 1 ≤ c → c ≤ 128 → s.runState ≠ .halted → s.channel c = true →
    sectionOfChannel s.layout c = some u → (s.section u).occupants = [n] → s.record n = some r → r.head = some u →
    (s.wayOut u = some (.sec d) ∧ s.sectionInput d = false
      ∨ ∃ p e, pointOfSection s.layout u = some p ∧ s.detection p = none ∧ branchTarget s.layout p .normal = .sec d
          ∧ branchTarget s.layout p .reverse = .sec e) →
    (∀ v, sectionUsed s.layout v = true → sectionChannel s.layout v = c → v = u) →
    ∃ t, exec (.sectionClear c) s = .next t
      ∧ t.section u = { s.section u with
          unexplained := false, unproven := true, proving := some (later s.clock (provingInterval s.layout)) }
      ∧ (∀ y, y ≠ u → t.section y = s.section y) ∧ t.shownState u = .unproven
      ∧ (∀ k, t.record k = s.record k) ∧ t.claims = s.claims ∧ t.points = s.points)
  ∧ (∀ (s : State) (c u e n : Nat) (r : Record), 1 ≤ c → c ≤ 128 → s.runState ≠ .halted → s.channel c = true →
    sectionOfChannel s.layout c = some u → (s.section u).occupants = [n] → s.record n = some r → r.state.inTree = true → r.head = some u →
    s.wayOut u = some (.sec e) → e ≠ u → s.sectionInput e = true → sectionChannel s.layout e ≠ c →
    let len := sectionLength s.layout e + if s.isLastSwitch n e = true then s.groupLength n else 0
    let wrong := ∃ p b k, pointOfSection s.layout u = some p ∧ s.detection p = some b ∧ s.claimOf p n = some k ∧ k.position ≠ b
    ∃ t w, exec (.sectionClear c) s = .next t ∧ t.record n = some w
      ∧ ((s.section e).occupants.length < 4 →
          (w.head = some e ∧ w.tail = some e ∧ w.headEntry = some s.clock ∧ w.timed = false ∧ w.speed = r.speed)
          ∧ w.stallDeadline = some (later s.clock (max (stallMinimum s.layout) (3 * (len * 10000 / r.speed.getD 0))))
          ∧ w.state = (if r.state = .stalled then (if s.crest = .counting ∧ s.crestCut = some n then .releasing else .rolling) else r.state)
          ∧ hasMark w .closedUp = true ∧ n ∈ (t.section e).occupants ∧ (∀ y, y ≠ e → n ∉ (t.section y).occupants)
          ∧ (n ∉ (s.section e).occupants → t.Placed id n (s.section e).occupants (t.section e).occupants)
          ∧ t.inTree = s.inTree
          ∧ (w.state = .releasing ∨ w.state = .rolling → t.WatchChosen w)
          ∧ (¬ wrong → hasMark w .misroute = hasMark r .misroute ∧ w.diversions = r.diversions ∧ w.more = r.more
              ∧ ((pointOfSection s.layout u = none ∨ r.unplannedBelow ≠ pointOfSection s.layout u) → w.assigned = r.assigned
                  ∧ t.tracks = s.tracks ∧ ∀ p, pointOfSection s.layout u = some p → t.claimOf p n = none)
              ∧ (∀ p b, pointOfSection s.layout u = some p → s.detection p = some b → r.unplannedBelow = some p → w.unplannedBelow = none
                  ∧ (∀ a, r.assigned = some a → s.tree.trackBelow a.track e = true → w.assigned = some a)
                  ∧ ((∀ a, r.assigned = some a → s.tree.trackBelow a.track e = false) →
                      w.assigned = some { track := fallbackField s.layout p b, reason := .diverted })))
          ∧ (∀ p b, wrong → pointOfSection s.layout u = some p → s.detection p = some b → hasMark w .misroute = true
              ∧ w.Noted r { point := p, reason := .misroute } ∧ w.unplannedBelow = none
              ∧ (∀ a, r.assigned = some a → s.tree.trackBelow a.track e = true → w.assigned = some a)
              ∧ ((∀ a, r.assigned = some a → s.tree.trackBelow a.track e = false) →
                  w.assigned = some { track := fallbackField s.layout p b, reason := .diverted })))
      ∧ (4 ≤ (s.section e).occupants.length → w.state = .lost ∧ w.lostReason = some .overcrowded ∧ t.inTree = s.inTree - 1
          ∧ (∀ y, n ∉ (t.section y).occupants) ∧ ∀ p, t.claimOf p n = none))

/-- R94: the proving timer of an UNPROVEN section runs out: its cuts are LOST UNPROVEN, the section is CLEAR, and SECTION latches. R86,
R93: an entry downstream credits a cut held there: its span is cut back to the section entered, its claims behind are withdrawn, and the hold ends
when the list is empty. -/
def Obligations.HoldRunsOut : Prop :=
  (∀ (s : State) (x : Nat) (l : Instant), Followed s → (s.section x).unproven = true → (s.section x).unexplained = false →
    (s.section x).proving = some l → after l s.clock = false →
    ∃ t, exec (.provingTimerExpiry x) s = .next t
      ∧ t.section x = SectionEntry.initial
      ∧ (∀ n ∈ (s.section x).occupants, ∃ w, t.record n = some w ∧ w.state = .lost ∧ w.lostReason = some .unproven)
      ∧ t.inTree = s.inTree - (s.section x).occupants.length ∧ latched .sectionCause t = true
      ∧ t = { s with
          pending := t.pending, records := t.records, inTree := t.inTree, tracks := t.tracks, sections := t.sections, claims := t.claims
          points := t.points
          flags := t.flags, humpPermit := t.humpPermit, attentionLine := t.attentionLine })
  ∧ (∀ (s : State) (c x u n : Nat) (r : Record), 1 ≤ c → c ≤ 128 → s.runState ≠ .halted → s.channel c = false →
    sectionOfChannel s.layout c = some x → s.entrant x = some n → s.record n = some r → (s.section x).occupants.length < 4 →
    r.head = some u → u ≠ x → sectionChannel s.layout u ≠ c → s.shownState u = .unproven → n ∈ (s.section u).occupants →
    ∃ t w, exec (.sectionOccupied c) s = .next t ∧ t.record n = some w ∧ (w.head = some x ∧ w.tail = some x)
      ∧ n ∈ (t.section x).occupants ∧ (∀ y, y ≠ x → n ∉ (t.section y).occupants)
      ∧ (∀ y p, y ≠ x → n ∈ (s.section y).occupants → pointOfSection s.layout y = some p → t.claimOf p n = none)
      ∧ ((s.section u).occupants = [n] →
          t.section u = { s.section u with occupants := [], unproven := false, proving := none } ∧ t.shownState u = .clear)
      ∧ ((∃ m ∈ (s.section u).occupants, m ≠ n) →
          t.section u = { s.section u with occupants := (s.section u).occupants.filter (fun m => m != n) }))

/-- R98, R104, R123: a stall deadline passes: STALLED, FOUL in the last switch section of the route, the last-moment timer suspended, the stand
timer set from the head entry time. R104: the stand timer of a STALLED cut runs out; the speed of an entry
with a timed head entry time is then 10, clamped (EntrantsAreCredited says it of that entry; untimed: log 29). -/
def Obligations.StallAndStandTimersRunOut : Prop :=
  (∀ (s : State) (n h : Nat) (r : Record) (l t0 : Instant), s.record n = some r → r.state = .releasing ∨ r.state = .rolling →
      r.stallDeadline = some l → after l s.clock = false → r.head = some h → r.headEntry = some t0 →
      ∃ t, exec (.stallDeadlineExpiry n) s = .next t
        ∧ t.record n = some { r with
            state := .stalled, stallDeadline := none, timer := .suspended, standTimer := .running (later t0 0x7FFFFFFF), unseen := true
            marks := if s.isLastSwitch n h = true then r.marks ||| 0x020 else r.marks }
        ∧ (∀ k, k ≠ n → t.record k = s.record k)
        ∧ t = { s with
            records := t.records, flags := s.flags ||| 0x011, humpPermit := t.humpPermit, attentionLine := t.attentionLine })
  ∧ (∀ (s : State) (n : Nat) (r : Record) (l : Instant), s.record n = some r → r.state = .stalled → r.standTimer = .running l →
      after l s.clock = false →
      ∃ t w, exec (.standTimerExpiry n) s = .next t ∧ t.record n = some w ∧ w = { r with standTimer := .ranOut }
        ∧ (∀ k, k ≠ n → t.record k = s.record k)
        ∧ (∀ h e, r.timed = true → r.head = some h → r.headEntry = some e → t.entrySpeed w = (some 10, true))
        ∧ t = { s with records := t.records, humpPermit := t.humpPermit, attentionLine := t.attentionLine })

/-! ### Last moments -/

/-- R105: the distance of a cut's head from a point: the lengths of the sections of its reckoning path from its head section to the point's switch
section, or from the release section with the crest offset while it has no head section, capped at 65535. R106, R107, R109: its last moment there,
reckoned from its head entry time, or from its first-axle time, with the arrival time capped at 65535. -/
def Obligations.LastMomentReckoning : Prop :=
  (∀ (s : State) (r : Record), (∀ a, r.assigned = some a → s.reckoningPath r = s.tree.trackPath a.track)
      ∧ (∀ p, r.assigned = none → s.tree.rootPoint = some p → s.reckoningPath r = s.tree.sectionPath (switchSection s.layout p)))
  ∧ (∀ (s : State) (r : Record) (p : Nat) (before between below : List Nat), switchSection s.layout p ∉ between →
      (∀ h, r.head = some h → h ∉ before → (between ++ switchSection s.layout p :: below).head? = some h →
        s.reckoningPath r = before ++ between ++ switchSection s.layout p :: below →
        s.distance r p = min 65535 (between.map (sectionLength s.layout)).sum)
      ∧ (r.head = none → s.reckoningPath r = between ++ switchSection s.layout p :: below →
        s.distance r p = min 65535 ((between.map (sectionLength s.layout)).sum + crestOffset s.layout)))
  ∧ (∀ (s : State) (r : Record) (p v : Nat) (e : Instant), r.speed = some v → 10 ≤ v → v ≤ 1500 →
      (r.head ≠ none ∧ r.headEntry = some e ∨ r.head = none ∧ r.firstAxle = e) →
      s.lastMomentAt r p
        = e + BitVec.ofNat 32 (min 65535 (s.distance r p * 10000 / v))
          - BitVec.ofNat 32 ((if coldIdle s.layout ≠ 0 ∧ (s.point p).stood = true then coldBudget s.layout p else throwBudget s.layout p)
              + settleTime s.layout + Image.num s.layout (2054 + (v - 10) / 50) * 10))

/-- R124: the expected position of a point, by its four items. An expiry at a point that will lie as the cut needs is a concession: the claim is
spent, and no throw or track changes. R75, R130: the expiry of a cut waiting for its track assigns the default track, reason DEFAULT_NO_TRACK, and
commits the group's length, and its claims come on the route to that track (R116). R122: the watch point is then chosen afresh (of a cut marked
unplanned-below, the model's choice: log 30). -/
def Obligations.ConcessionsAndWaitingCuts : Prop :=
  (∀ (s : State) (p n : Nat) (ahead : List Claim) (c : Claim) (behind : List Claim), s.claimsAt p = ahead ++ c :: behind → c.cut = n →
      (∀ d ∈ ahead, d.cut ≠ n) →
      (∀ front d, ahead = front ++ [d] → s.expectedPosition p n = some d.position)
      ∧ (ahead = [] → (s.point p).state = .throwing ∨ (s.point p).state = .settling → s.expectedPosition p n = (s.point p).target)
      ∧ (ahead = [] → (s.point p).state ≠ .throwing → (s.point p).state ≠ .settling →
          (∀ x, s.detected p = .at x → s.expectedPosition p n = some x)
          ∧ (s.detected p = .none ∨ s.detected p = .both → s.expectedPosition p n = none)))
  ∧ (∀ (s : State) (n p : Nat) (r : Record) (l : Instant) (c : Claim) (a : Assignment), s.record n = some r → r.state.inTree = true →
      r.timer = .running l → after l s.clock = false → r.assigned = some a → r.watch = some p → s.claimOf p n = some c →
      s.expectedPosition p n = some c.position →
      ∃ t w, exec (.lastMomentExpiry n) s = .next t ∧ t.record n = some w
        ∧ t.claimOf p n = some { c with spent := true } ∧ (∀ q, q ≠ p → t.claimsAt q = s.claimsAt q)
        ∧ (∀ m, m ≠ n → t.claimOf p m = s.claimOf p m)
        ∧ (w.assigned = r.assigned ∧ w.diversions = r.diversions ∧ w.marks = r.marks) ∧ t.tracks = s.tracks ∧ t.points = s.points
        ∧ (r.state = .releasing ∨ r.state = .rolling → w.state = r.state ∧ t.WatchChosen w)
        ∧ t = { s with
            pending := t.pending, records := t.records, claims := t.claims, flags := t.flags, humpPermit := t.humpPermit
            attentionLine := t.attentionLine })
  ∧ (∀ (s : State) (n : Nat) (r : Record) (l : Instant), s.record n = some r → r.state.inTree = true → r.timer = .running l →
      after l s.clock = false → r.assigned = none →
      ∃ t w, exec (.lastMomentExpiry n) s = .next t ∧ t.record n = some w
        ∧ w.assigned = some { track := defaultTrack s.layout, reason := .defaultNoTrack } ∧ w.requested = r.requested
        ∧ w.marks = (if s.canTake (defaultTrack s.layout) (s.groupLength n) = true then r.marks else r.marks ||| 0x100)
        ∧ (t.track (defaultTrack s.layout)).committed = (s.track (defaultTrack s.layout)).committed + s.groupLength n
        ∧ (∀ y, y ≠ defaultTrack s.layout → t.track y = s.track y)
        ∧ (∀ m ∈ s.joinedFollowers n, ∃ f, t.record m = some f ∧ f.assigned = w.assigned)
        ∧ s.ClaimsOn t r (defaultTrack s.layout) ∧ (r.state = .releasing ∨ r.state = .rolling → w.state = r.state ∧ t.WatchChosen w)
        ∧ t = { s with
            pending := t.pending, records := t.records, tracks := t.tracks, claims := t.claims, points := t.points, flags := t.flags
            humpPermit := t.humpPermit, attentionLine := t.attentionLine })

/-- R125, R126, R127, R4, R32, R118: an expiry at a point that will lie otherwise diverts the cut: the entry with its reason, or "more", DIVERTED, the
claim there in the expected position, spent, a track below the branch it will take, no claim off its route, and the watch chosen afresh (R122).
R126: where the expected position is unknown the claim keeps its position, spent, the claims below are withdrawn, the cut is marked unplanned-below
there, and its track is kept; that its watch may still move up to a point no longer lined is the model's choice (log 30). -/
def Obligations.DiversionReplansTheCut : Prop :=
  (∀ (s : State) (n p : Nat) (r : Record) (l : Instant) (c : Claim) (a : Assignment) (x : Position), s.record n = some r →
    r.state.inTree = true → r.timer = .running l → after l s.clock = false → r.assigned = some a → r.watch = some p →
    s.claimOf p n = some c → s.expectedPosition p n = some x → x ≠ c.position →
    ∃ t w, exec (.lastMomentExpiry n) s = .next t ∧ t.record n = some w
      ∧ w.Noted r {
          point := p
          reason :=
            if s.claimsAhead p n ≠ [] then .catchup
            else if pointUsed s.layout p = true ∧ s.shownState (switchSection s.layout p) ≠ .clear then .blocked
            else if (s.point p).mode = .manual then .manual
            else if (s.point p).state = .fault then .pointFault
            else .tooLate }
      ∧ latched .diverted t = true ∧ w.state = r.state
      ∧ (∀ y, branchTarget s.layout p x = .sec y → s.tree.trackBelow a.track y = true → w.assigned = some a ∧ t.tracks = s.tracks)
      ∧ (∀ y, branchTarget s.layout p x = .sec y → s.tree.trackBelow a.track y = false →
          w.assigned = some { track := fallbackField s.layout p x, reason := .diverted })
      ∧ (∀ y, branchTarget s.layout p x = .track y → y ≠ a.track → w.assigned = some { track := y, reason := .diverted })
      ∧ (∀ g, w.assigned = some g → (∀ q, q ∉ (s.tree.route g.track).map Prod.fst → t.claimOf q n = none)
          ∧ (((s.tree.route g.track).map Prod.fst).Nodup → (p, x) ∈ s.tree.route g.track →
              t.claimOf p n = some { c with position := x, spent := true }))
      ∧ (∀ q m, m ≠ n → t.claimOf q m = s.claimOf q m) ∧ w.unplannedBelow = none
      ∧ (r.state = .releasing ∨ r.state = .rolling → t.WatchChosen w)
      ∧ t = { s with
          pending := t.pending, records := t.records, tracks := t.tracks, claims := t.claims, points := t.points, flags := t.flags
          humpPermit := t.humpPermit, attentionLine := t.attentionLine })
  ∧ (∀ (s : State) (n p : Nat) (r : Record) (l : Instant) (c : Claim) (a : Assignment), s.record n = some r →
    r.state.inTree = true → r.timer = .running l → after l s.clock = false → r.assigned = some a → r.watch = some p →
    s.claimOf p n = some c → s.expectedPosition p n = none →
    ∃ t w, exec (.lastMomentExpiry n) s = .next t ∧ t.record n = some w
      ∧ w.Noted r {
          point := p
          reason :=
            if s.claimsAhead p n ≠ [] then .catchup
            else if pointUsed s.layout p = true ∧ s.shownState (switchSection s.layout p) ≠ .clear then .blocked
            else if (s.point p).mode = .manual then .manual
            else if (s.point p).state = .fault then .pointFault
            else .tooLate }
      ∧ latched .diverted t = true ∧ w.state = r.state ∧ w.assigned = r.assigned ∧ w.unplannedBelow = some p ∧ w.marks = r.marks
      ∧ t.claimOf p n = some { c with spent := true }
      ∧ (∀ q, q ≠ p → s.tree.sectionBelow (switchSection s.layout q) (switchSection s.layout p) = true → t.claimOf q n = none)
      ∧ (∀ q, q ≠ p → s.tree.sectionBelow (switchSection s.layout q) (switchSection s.layout p) = false → t.claimsAt q = s.claimsAt q)
      ∧ (∀ q m, m ≠ n → t.claimOf q m = s.claimOf q m)
      ∧ (r.state = .releasing ∨ r.state = .rolling → t.WatchChosen w)
      ∧ t = { s with
          pending := t.pending, records := t.records, claims := t.claims, points := t.points, flags := t.flags
          humpPermit := t.humpPermit, attentionLine := t.attentionLine })

/-! ### The invariant of the committed totals -/

/-- R69: each track's running total is the sum of the effective lengths of the in-tree groups assigned to it; with what that rests on (R29, R152)
and, as its ground, the agreement of records, queue, counts, lists and claims above. -/
def Obligations.StepsKeepCommittedTotals : Prop :=
  ∀ s t : State, Followed s → Accounted s → step s = .next t → Accounted t
end

