-- ==== Sys2Proof/Laws/State.lean ====
section
/-! SUPPORT. One lemma for each field and each named update of the state: what the update leaves there. -/

namespace Sys2Proof.Machine

variable (s : State)

/-! ### latch -/

@[simp] theorem latch_pending (c : Cause) : (latch c s).pending = s.pending := rfl
@[simp] theorem latch_receiver (c : Cause) : (latch c s).receiver = s.receiver := rfl
@[simp] theorem latch_inHand (c : Cause) : (latch c s).inHand = s.inHand := rfl
@[simp] theorem latch_held (c : Cause) : (latch c s).held = s.held := rfl
@[simp] theorem latch_records (c : Cause) : (latch c s).records = s.records := rfl
@[simp] theorem latch_queue (c : Cause) : (latch c s).queue = s.queue := rfl
@[simp] theorem latch_seqCounter (c : Cause) : (latch c s).seqCounter = s.seqCounter := rfl
@[simp] theorem latch_unlistedCounter (c : Cause) : (latch c s).unlistedCounter = s.unlistedCounter := rfl
@[simp] theorem latch_crest (c : Cause) : (latch c s).crest = s.crest := rfl
@[simp] theorem latch_crestCut (c : Cause) : (latch c s).crestCut = s.crestCut := rfl
@[simp] theorem latch_target (c : Cause) : (latch c s).target = s.target := rfl
@[simp] theorem latch_separation (c : Cause) : (latch c s).separation = s.separation := rfl
@[simp] theorem latch_remnantDue (c : Cause) : (latch c s).remnantDue = s.remnantDue := rfl
@[simp] theorem latch_tracks (c : Cause) : (latch c s).tracks = s.tracks := rfl
@[simp] theorem latch_channels (c : Cause) : (latch c s).channels = s.channels := rfl
@[simp] theorem latch_sections (c : Cause) : (latch c s).sections = s.sections := rfl
@[simp] theorem latch_claims (c : Cause) : (latch c s).claims = s.claims := rfl
@[simp] theorem latch_detections (c : Cause) : (latch c s).detections = s.detections := rfl
@[simp] theorem latch_points (c : Cause) : (latch c s).points = s.points := rfl
@[simp] theorem latch_runState (c : Cause) : (latch c s).runState = s.runState := rfl
@[simp] theorem latch_clock (c : Cause) : (latch c s).clock = s.clock := rfl
@[simp] theorem latch_inTree (c : Cause) : (latch c s).inTree = s.inTree := rfl
@[simp] theorem latch_humpPermit (c : Cause) : (latch c s).humpPermit = s.humpPermit := rfl
@[simp] theorem latch_tree (c : Cause) : (latch c s).tree = s.tree := rfl
@[simp] theorem latch_active (c : Cause) : (latch c s).active = s.active := rfl
@[simp] theorem latch_activeGeneration (c : Cause) : (latch c s).activeGeneration = s.activeGeneration := rfl
@[simp] theorem latch_working (c : Cause) : (latch c s).working = s.working := rfl
@[simp] theorem latch_slots (c : Cause) : (latch c s).slots = s.slots := rfl
@[simp] theorem latch_activeSlot (c : Cause) : (latch c s).activeSlot = s.activeSlot := rfl
@[simp] theorem latch_commit (c : Cause) : (latch c s).commit = s.commit := rfl
@[simp] theorem latch_lastCommit (c : Cause) : (latch c s).lastCommit = s.lastCommit := rfl
@[simp] theorem latch_flags (c : Cause) : (latch c s).flags = s.flags ||| causeBit c := rfl
@[simp] theorem latch_enables (c : Cause) : (latch c s).enables = s.enables := rfl
@[simp] theorem latch_attentionLine (c : Cause) : (latch c s).attentionLine = s.attentionLine := rfl

/-! ### latchIf -/

@[simp] theorem latchIf_pending (b : Bool) (c : Cause) : (latchIf b c s).pending = s.pending := by cases b <;> rfl
@[simp] theorem latchIf_receiver (b : Bool) (c : Cause) : (latchIf b c s).receiver = s.receiver := by cases b <;> rfl
@[simp] theorem latchIf_inHand (b : Bool) (c : Cause) : (latchIf b c s).inHand = s.inHand := by cases b <;> rfl
@[simp] theorem latchIf_held (b : Bool) (c : Cause) : (latchIf b c s).held = s.held := by cases b <;> rfl
@[simp] theorem latchIf_records (b : Bool) (c : Cause) : (latchIf b c s).records = s.records := by cases b <;> rfl
@[simp] theorem latchIf_queue (b : Bool) (c : Cause) : (latchIf b c s).queue = s.queue := by cases b <;> rfl
@[simp] theorem latchIf_seqCounter (b : Bool) (c : Cause) : (latchIf b c s).seqCounter = s.seqCounter := by cases b <;> rfl
@[simp] theorem latchIf_unlistedCounter (b : Bool) (c : Cause) : (latchIf b c s).unlistedCounter = s.unlistedCounter := by cases b <;> rfl
@[simp] theorem latchIf_crest (b : Bool) (c : Cause) : (latchIf b c s).crest = s.crest := by cases b <;> rfl
@[simp] theorem latchIf_crestCut (b : Bool) (c : Cause) : (latchIf b c s).crestCut = s.crestCut := by cases b <;> rfl
@[simp] theorem latchIf_target (b : Bool) (c : Cause) : (latchIf b c s).target = s.target := by cases b <;> rfl
@[simp] theorem latchIf_separation (b : Bool) (c : Cause) : (latchIf b c s).separation = s.separation := by cases b <;> rfl
@[simp] theorem latchIf_remnantDue (b : Bool) (c : Cause) : (latchIf b c s).remnantDue = s.remnantDue := by cases b <;> rfl
@[simp] theorem latchIf_tracks (b : Bool) (c : Cause) : (latchIf b c s).tracks = s.tracks := by cases b <;> rfl
@[simp] theorem latchIf_channels (b : Bool) (c : Cause) : (latchIf b c s).channels = s.channels := by cases b <;> rfl
@[simp] theorem latchIf_sections (b : Bool) (c : Cause) : (latchIf b c s).sections = s.sections := by cases b <;> rfl
@[simp] theorem latchIf_claims (b : Bool) (c : Cause) : (latchIf b c s).claims = s.claims := by cases b <;> rfl
@[simp] theorem latchIf_detections (b : Bool) (c : Cause) : (latchIf b c s).detections = s.detections := by cases b <;> rfl
@[simp] theorem latchIf_points (b : Bool) (c : Cause) : (latchIf b c s).points = s.points := by cases b <;> rfl
@[simp] theorem latchIf_runState (b : Bool) (c : Cause) : (latchIf b c s).runState = s.runState := by cases b <;> rfl
@[simp] theorem latchIf_clock (b : Bool) (c : Cause) : (latchIf b c s).clock = s.clock := by cases b <;> rfl
@[simp] theorem latchIf_inTree (b : Bool) (c : Cause) : (latchIf b c s).inTree = s.inTree := by cases b <;> rfl
@[simp] theorem latchIf_humpPermit (b : Bool) (c : Cause) : (latchIf b c s).humpPermit = s.humpPermit := by cases b <;> rfl
@[simp] theorem latchIf_tree (b : Bool) (c : Cause) : (latchIf b c s).tree = s.tree := by cases b <;> rfl
@[simp] theorem latchIf_active (b : Bool) (c : Cause) : (latchIf b c s).active = s.active := by cases b <;> rfl
@[simp] theorem latchIf_activeGeneration (b : Bool) (c : Cause) : (latchIf b c s).activeGeneration = s.activeGeneration := by cases b <;> rfl
@[simp] theorem latchIf_working (b : Bool) (c : Cause) : (latchIf b c s).working = s.working := by cases b <;> rfl
@[simp] theorem latchIf_slots (b : Bool) (c : Cause) : (latchIf b c s).slots = s.slots := by cases b <;> rfl
@[simp] theorem latchIf_activeSlot (b : Bool) (c : Cause) : (latchIf b c s).activeSlot = s.activeSlot := by cases b <;> rfl
@[simp] theorem latchIf_commit (b : Bool) (c : Cause) : (latchIf b c s).commit = s.commit := by cases b <;> rfl
@[simp] theorem latchIf_lastCommit (b : Bool) (c : Cause) : (latchIf b c s).lastCommit = s.lastCommit := by cases b <;> rfl
@[simp] theorem latchIf_enables (b : Bool) (c : Cause) : (latchIf b c s).enables = s.enables := by cases b <;> rfl
@[simp] theorem latchIf_attentionLine (b : Bool) (c : Cause) : (latchIf b c s).attentionLine = s.attentionLine := by cases b <;> rfl

/-! ### addRecord -/

@[simp] theorem addRecord_pending (r : Record) : (addRecord r s).pending = s.pending := rfl
@[simp] theorem addRecord_receiver (r : Record) : (addRecord r s).receiver = s.receiver := rfl
@[simp] theorem addRecord_inHand (r : Record) : (addRecord r s).inHand = s.inHand := rfl
@[simp] theorem addRecord_held (r : Record) : (addRecord r s).held = s.held := rfl
@[simp] theorem addRecord_records (r : Record) : (addRecord r s).records = s.records ++ [{ r with unseen := true }] := rfl
@[simp] theorem addRecord_queue (r : Record) : (addRecord r s).queue = s.queue := rfl
@[simp] theorem addRecord_seqCounter (r : Record) : (addRecord r s).seqCounter = s.seqCounter := rfl
@[simp] theorem addRecord_unlistedCounter (r : Record) : (addRecord r s).unlistedCounter = s.unlistedCounter := rfl
@[simp] theorem addRecord_crest (r : Record) : (addRecord r s).crest = s.crest := rfl
@[simp] theorem addRecord_crestCut (r : Record) : (addRecord r s).crestCut = s.crestCut := rfl
@[simp] theorem addRecord_target (r : Record) : (addRecord r s).target = s.target := rfl
@[simp] theorem addRecord_separation (r : Record) : (addRecord r s).separation = s.separation := rfl
@[simp] theorem addRecord_remnantDue (r : Record) : (addRecord r s).remnantDue = s.remnantDue := rfl
@[simp] theorem addRecord_tracks (r : Record) : (addRecord r s).tracks = s.tracks := rfl
@[simp] theorem addRecord_channels (r : Record) : (addRecord r s).channels = s.channels := rfl
@[simp] theorem addRecord_sections (r : Record) : (addRecord r s).sections = s.sections := rfl
@[simp] theorem addRecord_claims (r : Record) : (addRecord r s).claims = s.claims := rfl
@[simp] theorem addRecord_detections (r : Record) : (addRecord r s).detections = s.detections := rfl
@[simp] theorem addRecord_points (r : Record) : (addRecord r s).points = s.points := rfl
@[simp] theorem addRecord_runState (r : Record) : (addRecord r s).runState = s.runState := rfl
@[simp] theorem addRecord_clock (r : Record) : (addRecord r s).clock = s.clock := rfl
@[simp] theorem addRecord_inTree (r : Record) : (addRecord r s).inTree = s.inTree := rfl
@[simp] theorem addRecord_humpPermit (r : Record) : (addRecord r s).humpPermit = s.humpPermit := rfl
@[simp] theorem addRecord_tree (r : Record) : (addRecord r s).tree = s.tree := rfl
@[simp] theorem addRecord_active (r : Record) : (addRecord r s).active = s.active := rfl
@[simp] theorem addRecord_activeGeneration (r : Record) : (addRecord r s).activeGeneration = s.activeGeneration := rfl
@[simp] theorem addRecord_working (r : Record) : (addRecord r s).working = s.working := rfl
@[simp] theorem addRecord_slots (r : Record) : (addRecord r s).slots = s.slots := rfl
@[simp] theorem addRecord_activeSlot (r : Record) : (addRecord r s).activeSlot = s.activeSlot := rfl
@[simp] theorem addRecord_commit (r : Record) : (addRecord r s).commit = s.commit := rfl
@[simp] theorem addRecord_lastCommit (r : Record) : (addRecord r s).lastCommit = s.lastCommit := rfl
@[simp] theorem addRecord_flags (r : Record) : (addRecord r s).flags = s.flags ||| causeBit .cutChanged := rfl
@[simp] theorem addRecord_enables (r : Record) : (addRecord r s).enables = s.enables := rfl
@[simp] theorem addRecord_attentionLine (r : Record) : (addRecord r s).attentionLine = s.attentionLine := rfl

/-! ### freeRecord -/

@[simp] theorem freeRecord_pending (n : Nat) : (freeRecord n s).pending = s.pending := rfl
@[simp] theorem freeRecord_receiver (n : Nat) : (freeRecord n s).receiver = s.receiver := rfl
@[simp] theorem freeRecord_inHand (n : Nat) : (freeRecord n s).inHand = s.inHand := rfl
@[simp] theorem freeRecord_held (n : Nat) : (freeRecord n s).held = s.held := rfl
@[simp] theorem freeRecord_records (n : Nat) : (freeRecord n s).records = s.records.filter (fun r => r.number != n) := rfl
@[simp] theorem freeRecord_queue (n : Nat) : (freeRecord n s).queue = s.queue := rfl
@[simp] theorem freeRecord_seqCounter (n : Nat) : (freeRecord n s).seqCounter = s.seqCounter := rfl
@[simp] theorem freeRecord_unlistedCounter (n : Nat) : (freeRecord n s).unlistedCounter = s.unlistedCounter := rfl
@[simp] theorem freeRecord_crest (n : Nat) : (freeRecord n s).crest = s.crest := rfl
@[simp] theorem freeRecord_crestCut (n : Nat) : (freeRecord n s).crestCut = s.crestCut := rfl
@[simp] theorem freeRecord_target (n : Nat) : (freeRecord n s).target = s.target := rfl
@[simp] theorem freeRecord_separation (n : Nat) : (freeRecord n s).separation = s.separation := rfl
@[simp] theorem freeRecord_remnantDue (n : Nat) : (freeRecord n s).remnantDue = s.remnantDue := rfl
@[simp] theorem freeRecord_tracks (n : Nat) : (freeRecord n s).tracks = s.tracks := rfl
@[simp] theorem freeRecord_channels (n : Nat) : (freeRecord n s).channels = s.channels := rfl
@[simp] theorem freeRecord_sections (n : Nat) : (freeRecord n s).sections = s.sections := rfl
@[simp] theorem freeRecord_claims (n : Nat) : (freeRecord n s).claims = s.claims := rfl
@[simp] theorem freeRecord_detections (n : Nat) : (freeRecord n s).detections = s.detections := rfl
@[simp] theorem freeRecord_points (n : Nat) : (freeRecord n s).points = s.points := rfl
@[simp] theorem freeRecord_runState (n : Nat) : (freeRecord n s).runState = s.runState := rfl
@[simp] theorem freeRecord_clock (n : Nat) : (freeRecord n s).clock = s.clock := rfl
@[simp] theorem freeRecord_inTree (n : Nat) : (freeRecord n s).inTree = s.inTree := rfl
@[simp] theorem freeRecord_humpPermit (n : Nat) : (freeRecord n s).humpPermit = s.humpPermit := rfl
@[simp] theorem freeRecord_tree (n : Nat) : (freeRecord n s).tree = s.tree := rfl
@[simp] theorem freeRecord_active (n : Nat) : (freeRecord n s).active = s.active := rfl
@[simp] theorem freeRecord_activeGeneration (n : Nat) : (freeRecord n s).activeGeneration = s.activeGeneration := rfl
@[simp] theorem freeRecord_working (n : Nat) : (freeRecord n s).working = s.working := rfl
@[simp] theorem freeRecord_slots (n : Nat) : (freeRecord n s).slots = s.slots := rfl
@[simp] theorem freeRecord_activeSlot (n : Nat) : (freeRecord n s).activeSlot = s.activeSlot := rfl
@[simp] theorem freeRecord_commit (n : Nat) : (freeRecord n s).commit = s.commit := rfl
@[simp] theorem freeRecord_lastCommit (n : Nat) : (freeRecord n s).lastCommit = s.lastCommit := rfl
@[simp] theorem freeRecord_flags (n : Nat) : (freeRecord n s).flags = s.flags := rfl
@[simp] theorem freeRecord_enables (n : Nat) : (freeRecord n s).enables = s.enables := rfl
@[simp] theorem freeRecord_attentionLine (n : Nat) : (freeRecord n s).attentionLine = s.attentionLine := rfl

/-! ### changeRecord -/

@[simp] theorem changeRecord_pending (n : Nat) (f : Record → Record) : (changeRecord n f s).pending = s.pending := latchIf_pending _ _ _
@[simp] theorem changeRecord_receiver (n : Nat) (f : Record → Record) : (changeRecord n f s).receiver = s.receiver := latchIf_receiver _ _ _
@[simp] theorem changeRecord_inHand (n : Nat) (f : Record → Record) : (changeRecord n f s).inHand = s.inHand := latchIf_inHand _ _ _
@[simp] theorem changeRecord_held (n : Nat) (f : Record → Record) : (changeRecord n f s).held = s.held := latchIf_held _ _ _
@[simp] theorem changeRecord_queue (n : Nat) (f : Record → Record) : (changeRecord n f s).queue = s.queue := latchIf_queue _ _ _
@[simp] theorem changeRecord_seqCounter (n : Nat) (f : Record → Record) : (changeRecord n f s).seqCounter = s.seqCounter := latchIf_seqCounter _ _ _
@[simp] theorem changeRecord_unlistedCounter (n : Nat) (f : Record → Record) : (changeRecord n f s).unlistedCounter = s.unlistedCounter := latchIf_unlistedCounter _ _ _
@[simp] theorem changeRecord_crest (n : Nat) (f : Record → Record) : (changeRecord n f s).crest = s.crest := latchIf_crest _ _ _
@[simp] theorem changeRecord_crestCut (n : Nat) (f : Record → Record) : (changeRecord n f s).crestCut = s.crestCut := latchIf_crestCut _ _ _
@[simp] theorem changeRecord_target (n : Nat) (f : Record → Record) : (changeRecord n f s).target = s.target := latchIf_target _ _ _
@[simp] theorem changeRecord_separation (n : Nat) (f : Record → Record) : (changeRecord n f s).separation = s.separation := latchIf_separation _ _ _
@[simp] theorem changeRecord_remnantDue (n : Nat) (f : Record → Record) : (changeRecord n f s).remnantDue = s.remnantDue := latchIf_remnantDue _ _ _
@[simp] theorem changeRecord_tracks (n : Nat) (f : Record → Record) : (changeRecord n f s).tracks = s.tracks := latchIf_tracks _ _ _
@[simp] theorem changeRecord_channels (n : Nat) (f : Record → Record) : (changeRecord n f s).channels = s.channels := latchIf_channels _ _ _
@[simp] theorem changeRecord_sections (n : Nat) (f : Record → Record) : (changeRecord n f s).sections = s.sections := latchIf_sections _ _ _
@[simp] theorem changeRecord_claims (n : Nat) (f : Record → Record) : (changeRecord n f s).claims = s.claims := latchIf_claims _ _ _
@[simp] theorem changeRecord_detections (n : Nat) (f : Record → Record) : (changeRecord n f s).detections = s.detections := latchIf_detections _ _ _
@[simp] theorem changeRecord_points (n : Nat) (f : Record → Record) : (changeRecord n f s).points = s.points := latchIf_points _ _ _
@[simp] theorem changeRecord_runState (n : Nat) (f : Record → Record) : (changeRecord n f s).runState = s.runState := latchIf_runState _ _ _
@[simp] theorem changeRecord_clock (n : Nat) (f : Record → Record) : (changeRecord n f s).clock = s.clock := latchIf_clock _ _ _
@[simp] theorem changeRecord_inTree (n : Nat) (f : Record → Record) : (changeRecord n f s).inTree = s.inTree := latchIf_inTree _ _ _
@[simp] theorem changeRecord_humpPermit (n : Nat) (f : Record → Record) : (changeRecord n f s).humpPermit = s.humpPermit := latchIf_humpPermit _ _ _
@[simp] theorem changeRecord_tree (n : Nat) (f : Record → Record) : (changeRecord n f s).tree = s.tree := latchIf_tree _ _ _
@[simp] theorem changeRecord_active (n : Nat) (f : Record → Record) : (changeRecord n f s).active = s.active := latchIf_active _ _ _
@[simp] theorem changeRecord_activeGeneration (n : Nat) (f : Record → Record) : (changeRecord n f s).activeGeneration = s.activeGeneration := latchIf_activeGeneration _ _ _
@[simp] theorem changeRecord_working (n : Nat) (f : Record → Record) : (changeRecord n f s).working = s.working := latchIf_working _ _ _
@[simp] theorem changeRecord_slots (n : Nat) (f : Record → Record) : (changeRecord n f s).slots = s.slots := latchIf_slots _ _ _
@[simp] theorem changeRecord_activeSlot (n : Nat) (f : Record → Record) : (changeRecord n f s).activeSlot = s.activeSlot := latchIf_activeSlot _ _ _
@[simp] theorem changeRecord_commit (n : Nat) (f : Record → Record) : (changeRecord n f s).commit = s.commit := latchIf_commit _ _ _
@[simp] theorem changeRecord_lastCommit (n : Nat) (f : Record → Record) : (changeRecord n f s).lastCommit = s.lastCommit := latchIf_lastCommit _ _ _
@[simp] theorem changeRecord_enables (n : Nat) (f : Record → Record) : (changeRecord n f s).enables = s.enables := latchIf_enables _ _ _
@[simp] theorem changeRecord_attentionLine (n : Nat) (f : Record → Record) : (changeRecord n f s).attentionLine = s.attentionLine := latchIf_attentionLine _ _ _

/-! ### changeTrack -/

@[simp] theorem changeTrack_pending (x : Nat) (f : TrackEntry → TrackEntry) : (changeTrack x f s).pending = s.pending := latchIf_pending _ _ _
@[simp] theorem changeTrack_receiver (x : Nat) (f : TrackEntry → TrackEntry) : (changeTrack x f s).receiver = s.receiver := latchIf_receiver _ _ _
@[simp] theorem changeTrack_inHand (x : Nat) (f : TrackEntry → TrackEntry) : (changeTrack x f s).inHand = s.inHand := latchIf_inHand _ _ _
@[simp] theorem changeTrack_held (x : Nat) (f : TrackEntry → TrackEntry) : (changeTrack x f s).held = s.held := latchIf_held _ _ _
@[simp] theorem changeTrack_records (x : Nat) (f : TrackEntry → TrackEntry) : (changeTrack x f s).records = s.records := latchIf_records _ _ _
@[simp] theorem changeTrack_queue (x : Nat) (f : TrackEntry → TrackEntry) : (changeTrack x f s).queue = s.queue := latchIf_queue _ _ _
@[simp] theorem changeTrack_seqCounter (x : Nat) (f : TrackEntry → TrackEntry) : (changeTrack x f s).seqCounter = s.seqCounter := latchIf_seqCounter _ _ _
@[simp] theorem changeTrack_unlistedCounter (x : Nat) (f : TrackEntry → TrackEntry) : (changeTrack x f s).unlistedCounter = s.unlistedCounter := latchIf_unlistedCounter _ _ _
@[simp] theorem changeTrack_crest (x : Nat) (f : TrackEntry → TrackEntry) : (changeTrack x f s).crest = s.crest := latchIf_crest _ _ _
@[simp] theorem changeTrack_crestCut (x : Nat) (f : TrackEntry → TrackEntry) : (changeTrack x f s).crestCut = s.crestCut := latchIf_crestCut _ _ _
@[simp] theorem changeTrack_target (x : Nat) (f : TrackEntry → TrackEntry) : (changeTrack x f s).target = s.target := latchIf_target _ _ _
@[simp] theorem changeTrack_separation (x : Nat) (f : TrackEntry → TrackEntry) : (changeTrack x f s).separation = s.separation := latchIf_separation _ _ _
@[simp] theorem changeTrack_remnantDue (x : Nat) (f : TrackEntry → TrackEntry) : (changeTrack x f s).remnantDue = s.remnantDue := latchIf_remnantDue _ _ _
@[simp] theorem changeTrack_channels (x : Nat) (f : TrackEntry → TrackEntry) : (changeTrack x f s).channels = s.channels := latchIf_channels _ _ _
@[simp] theorem changeTrack_sections (x : Nat) (f : TrackEntry → TrackEntry) : (changeTrack x f s).sections = s.sections := latchIf_sections _ _ _
@[simp] theorem changeTrack_claims (x : Nat) (f : TrackEntry → TrackEntry) : (changeTrack x f s).claims = s.claims := latchIf_claims _ _ _
@[simp] theorem changeTrack_detections (x : Nat) (f : TrackEntry → TrackEntry) : (changeTrack x f s).detections = s.detections := latchIf_detections _ _ _
@[simp] theorem changeTrack_points (x : Nat) (f : TrackEntry → TrackEntry) : (changeTrack x f s).points = s.points := latchIf_points _ _ _
@[simp] theorem changeTrack_runState (x : Nat) (f : TrackEntry → TrackEntry) : (changeTrack x f s).runState = s.runState := latchIf_runState _ _ _
@[simp] theorem changeTrack_clock (x : Nat) (f : TrackEntry → TrackEntry) : (changeTrack x f s).clock = s.clock := latchIf_clock _ _ _
@[simp] theorem changeTrack_inTree (x : Nat) (f : TrackEntry → TrackEntry) : (changeTrack x f s).inTree = s.inTree := latchIf_inTree _ _ _
@[simp] theorem changeTrack_humpPermit (x : Nat) (f : TrackEntry → TrackEntry) : (changeTrack x f s).humpPermit = s.humpPermit := latchIf_humpPermit _ _ _
@[simp] theorem changeTrack_tree (x : Nat) (f : TrackEntry → TrackEntry) : (changeTrack x f s).tree = s.tree := latchIf_tree _ _ _
@[simp] theorem changeTrack_active (x : Nat) (f : TrackEntry → TrackEntry) : (changeTrack x f s).active = s.active := latchIf_active _ _ _
@[simp] theorem changeTrack_activeGeneration (x : Nat) (f : TrackEntry → TrackEntry) : (changeTrack x f s).activeGeneration = s.activeGeneration := latchIf_activeGeneration _ _ _
@[simp] theorem changeTrack_working (x : Nat) (f : TrackEntry → TrackEntry) : (changeTrack x f s).working = s.working := latchIf_working _ _ _
@[simp] theorem changeTrack_slots (x : Nat) (f : TrackEntry → TrackEntry) : (changeTrack x f s).slots = s.slots := latchIf_slots _ _ _
@[simp] theorem changeTrack_activeSlot (x : Nat) (f : TrackEntry → TrackEntry) : (changeTrack x f s).activeSlot = s.activeSlot := latchIf_activeSlot _ _ _
@[simp] theorem changeTrack_commit (x : Nat) (f : TrackEntry → TrackEntry) : (changeTrack x f s).commit = s.commit := latchIf_commit _ _ _
@[simp] theorem changeTrack_lastCommit (x : Nat) (f : TrackEntry → TrackEntry) : (changeTrack x f s).lastCommit = s.lastCommit := latchIf_lastCommit _ _ _
@[simp] theorem changeTrack_enables (x : Nat) (f : TrackEntry → TrackEntry) : (changeTrack x f s).enables = s.enables := latchIf_enables _ _ _
@[simp] theorem changeTrack_attentionLine (x : Nat) (f : TrackEntry → TrackEntry) : (changeTrack x f s).attentionLine = s.attentionLine := latchIf_attentionLine _ _ _

/-! ### changeSection -/

@[simp] theorem changeSection_pending (x : Nat) (f : SectionEntry → SectionEntry) : (changeSection x f s).pending = s.pending := rfl
@[simp] theorem changeSection_receiver (x : Nat) (f : SectionEntry → SectionEntry) : (changeSection x f s).receiver = s.receiver := rfl
@[simp] theorem changeSection_inHand (x : Nat) (f : SectionEntry → SectionEntry) : (changeSection x f s).inHand = s.inHand := rfl
@[simp] theorem changeSection_held (x : Nat) (f : SectionEntry → SectionEntry) : (changeSection x f s).held = s.held := rfl
@[simp] theorem changeSection_records (x : Nat) (f : SectionEntry → SectionEntry) : (changeSection x f s).records = s.records := rfl
@[simp] theorem changeSection_queue (x : Nat) (f : SectionEntry → SectionEntry) : (changeSection x f s).queue = s.queue := rfl
@[simp] theorem changeSection_seqCounter (x : Nat) (f : SectionEntry → SectionEntry) : (changeSection x f s).seqCounter = s.seqCounter := rfl
@[simp] theorem changeSection_unlistedCounter (x : Nat) (f : SectionEntry → SectionEntry) : (changeSection x f s).unlistedCounter = s.unlistedCounter := rfl
@[simp] theorem changeSection_crest (x : Nat) (f : SectionEntry → SectionEntry) : (changeSection x f s).crest = s.crest := rfl
@[simp] theorem changeSection_crestCut (x : Nat) (f : SectionEntry → SectionEntry) : (changeSection x f s).crestCut = s.crestCut := rfl
@[simp] theorem changeSection_target (x : Nat) (f : SectionEntry → SectionEntry) : (changeSection x f s).target = s.target := rfl
@[simp] theorem changeSection_separation (x : Nat) (f : SectionEntry → SectionEntry) : (changeSection x f s).separation = s.separation := rfl
@[simp] theorem changeSection_remnantDue (x : Nat) (f : SectionEntry → SectionEntry) : (changeSection x f s).remnantDue = s.remnantDue := rfl
@[simp] theorem changeSection_tracks (x : Nat) (f : SectionEntry → SectionEntry) : (changeSection x f s).tracks = s.tracks := rfl
@[simp] theorem changeSection_channels (x : Nat) (f : SectionEntry → SectionEntry) : (changeSection x f s).channels = s.channels := rfl
@[simp] theorem changeSection_sections (x : Nat) (f : SectionEntry → SectionEntry) : (changeSection x f s).sections = Table.write SectionEntry.initial s.sections x (f (s.section x)) := rfl
@[simp] theorem changeSection_claims (x : Nat) (f : SectionEntry → SectionEntry) : (changeSection x f s).claims = s.claims := rfl
@[simp] theorem changeSection_detections (x : Nat) (f : SectionEntry → SectionEntry) : (changeSection x f s).detections = s.detections := rfl
@[simp] theorem changeSection_points (x : Nat) (f : SectionEntry → SectionEntry) : (changeSection x f s).points = s.points := rfl
@[simp] theorem changeSection_runState (x : Nat) (f : SectionEntry → SectionEntry) : (changeSection x f s).runState = s.runState := rfl
@[simp] theorem changeSection_clock (x : Nat) (f : SectionEntry → SectionEntry) : (changeSection x f s).clock = s.clock := rfl
@[simp] theorem changeSection_inTree (x : Nat) (f : SectionEntry → SectionEntry) : (changeSection x f s).inTree = s.inTree := rfl
@[simp] theorem changeSection_humpPermit (x : Nat) (f : SectionEntry → SectionEntry) : (changeSection x f s).humpPermit = s.humpPermit := rfl
@[simp] theorem changeSection_tree (x : Nat) (f : SectionEntry → SectionEntry) : (changeSection x f s).tree = s.tree := rfl
@[simp] theorem changeSection_active (x : Nat) (f : SectionEntry → SectionEntry) : (changeSection x f s).active = s.active := rfl
@[simp] theorem changeSection_activeGeneration (x : Nat) (f : SectionEntry → SectionEntry) : (changeSection x f s).activeGeneration = s.activeGeneration := rfl
@[simp] theorem changeSection_working (x : Nat) (f : SectionEntry → SectionEntry) : (changeSection x f s).working = s.working := rfl
@[simp] theorem changeSection_slots (x : Nat) (f : SectionEntry → SectionEntry) : (changeSection x f s).slots = s.slots := rfl
@[simp] theorem changeSection_activeSlot (x : Nat) (f : SectionEntry → SectionEntry) : (changeSection x f s).activeSlot = s.activeSlot := rfl
@[simp] theorem changeSection_commit (x : Nat) (f : SectionEntry → SectionEntry) : (changeSection x f s).commit = s.commit := rfl
@[simp] theorem changeSection_lastCommit (x : Nat) (f : SectionEntry → SectionEntry) : (changeSection x f s).lastCommit = s.lastCommit := rfl
@[simp] theorem changeSection_flags (x : Nat) (f : SectionEntry → SectionEntry) : (changeSection x f s).flags = s.flags := rfl
@[simp] theorem changeSection_enables (x : Nat) (f : SectionEntry → SectionEntry) : (changeSection x f s).enables = s.enables := rfl
@[simp] theorem changeSection_attentionLine (x : Nat) (f : SectionEntry → SectionEntry) : (changeSection x f s).attentionLine = s.attentionLine := rfl

/-! ### changePoint -/

@[simp] theorem changePoint_pending (p : Nat) (f : PointEntry → PointEntry) : (changePoint p f s).pending = s.pending := rfl
@[simp] theorem changePoint_receiver (p : Nat) (f : PointEntry → PointEntry) : (changePoint p f s).receiver = s.receiver := rfl
@[simp] theorem changePoint_inHand (p : Nat) (f : PointEntry → PointEntry) : (changePoint p f s).inHand = s.inHand := rfl
@[simp] theorem changePoint_held (p : Nat) (f : PointEntry → PointEntry) : (changePoint p f s).held = s.held := rfl
@[simp] theorem changePoint_records (p : Nat) (f : PointEntry → PointEntry) : (changePoint p f s).records = s.records := rfl
@[simp] theorem changePoint_queue (p : Nat) (f : PointEntry → PointEntry) : (changePoint p f s).queue = s.queue := rfl
@[simp] theorem changePoint_seqCounter (p : Nat) (f : PointEntry → PointEntry) : (changePoint p f s).seqCounter = s.seqCounter := rfl
@[simp] theorem changePoint_unlistedCounter (p : Nat) (f : PointEntry → PointEntry) : (changePoint p f s).unlistedCounter = s.unlistedCounter := rfl
@[simp] theorem changePoint_crest (p : Nat) (f : PointEntry → PointEntry) : (changePoint p f s).crest = s.crest := rfl
@[simp] theorem changePoint_crestCut (p : Nat) (f : PointEntry → PointEntry) : (changePoint p f s).crestCut = s.crestCut := rfl
@[simp] theorem changePoint_target (p : Nat) (f : PointEntry → PointEntry) : (changePoint p f s).target = s.target := rfl
@[simp] theorem changePoint_separation (p : Nat) (f : PointEntry → PointEntry) : (changePoint p f s).separation = s.separation := rfl
@[simp] theorem changePoint_remnantDue (p : Nat) (f : PointEntry → PointEntry) : (changePoint p f s).remnantDue = s.remnantDue := rfl
@[simp] theorem changePoint_tracks (p : Nat) (f : PointEntry → PointEntry) : (changePoint p f s).tracks = s.tracks := rfl
@[simp] theorem changePoint_channels (p : Nat) (f : PointEntry → PointEntry) : (changePoint p f s).channels = s.channels := rfl
@[simp] theorem changePoint_sections (p : Nat) (f : PointEntry → PointEntry) : (changePoint p f s).sections = s.sections := rfl
@[simp] theorem changePoint_claims (p : Nat) (f : PointEntry → PointEntry) : (changePoint p f s).claims = s.claims := rfl
@[simp] theorem changePoint_detections (p : Nat) (f : PointEntry → PointEntry) : (changePoint p f s).detections = s.detections := rfl
@[simp] theorem changePoint_points (p : Nat) (f : PointEntry → PointEntry) : (changePoint p f s).points = Table.write PointEntry.initial s.points p (f (s.point p)) := rfl
@[simp] theorem changePoint_runState (p : Nat) (f : PointEntry → PointEntry) : (changePoint p f s).runState = s.runState := rfl
@[simp] theorem changePoint_clock (p : Nat) (f : PointEntry → PointEntry) : (changePoint p f s).clock = s.clock := rfl
@[simp] theorem changePoint_inTree (p : Nat) (f : PointEntry → PointEntry) : (changePoint p f s).inTree = s.inTree := rfl
@[simp] theorem changePoint_humpPermit (p : Nat) (f : PointEntry → PointEntry) : (changePoint p f s).humpPermit = s.humpPermit := rfl
@[simp] theorem changePoint_tree (p : Nat) (f : PointEntry → PointEntry) : (changePoint p f s).tree = s.tree := rfl
@[simp] theorem changePoint_active (p : Nat) (f : PointEntry → PointEntry) : (changePoint p f s).active = s.active := rfl
@[simp] theorem changePoint_activeGeneration (p : Nat) (f : PointEntry → PointEntry) : (changePoint p f s).activeGeneration = s.activeGeneration := rfl
@[simp] theorem changePoint_working (p : Nat) (f : PointEntry → PointEntry) : (changePoint p f s).working = s.working := rfl
@[simp] theorem changePoint_slots (p : Nat) (f : PointEntry → PointEntry) : (changePoint p f s).slots = s.slots := rfl
@[simp] theorem changePoint_activeSlot (p : Nat) (f : PointEntry → PointEntry) : (changePoint p f s).activeSlot = s.activeSlot := rfl
@[simp] theorem changePoint_commit (p : Nat) (f : PointEntry → PointEntry) : (changePoint p f s).commit = s.commit := rfl
@[simp] theorem changePoint_lastCommit (p : Nat) (f : PointEntry → PointEntry) : (changePoint p f s).lastCommit = s.lastCommit := rfl
@[simp] theorem changePoint_flags (p : Nat) (f : PointEntry → PointEntry) : (changePoint p f s).flags = s.flags := rfl
@[simp] theorem changePoint_enables (p : Nat) (f : PointEntry → PointEntry) : (changePoint p f s).enables = s.enables := rfl
@[simp] theorem changePoint_attentionLine (p : Nat) (f : PointEntry → PointEntry) : (changePoint p f s).attentionLine = s.attentionLine := rfl

/-! ### setClaims -/

@[simp] theorem setClaims_pending (p : Nat) (l : List Claim) : (setClaims p l s).pending = s.pending := rfl
@[simp] theorem setClaims_receiver (p : Nat) (l : List Claim) : (setClaims p l s).receiver = s.receiver := rfl
@[simp] theorem setClaims_inHand (p : Nat) (l : List Claim) : (setClaims p l s).inHand = s.inHand := rfl
@[simp] theorem setClaims_held (p : Nat) (l : List Claim) : (setClaims p l s).held = s.held := rfl
@[simp] theorem setClaims_records (p : Nat) (l : List Claim) : (setClaims p l s).records = s.records := rfl
@[simp] theorem setClaims_queue (p : Nat) (l : List Claim) : (setClaims p l s).queue = s.queue := rfl
@[simp] theorem setClaims_seqCounter (p : Nat) (l : List Claim) : (setClaims p l s).seqCounter = s.seqCounter := rfl
@[simp] theorem setClaims_unlistedCounter (p : Nat) (l : List Claim) : (setClaims p l s).unlistedCounter = s.unlistedCounter := rfl
@[simp] theorem setClaims_crest (p : Nat) (l : List Claim) : (setClaims p l s).crest = s.crest := rfl
@[simp] theorem setClaims_crestCut (p : Nat) (l : List Claim) : (setClaims p l s).crestCut = s.crestCut := rfl
@[simp] theorem setClaims_target (p : Nat) (l : List Claim) : (setClaims p l s).target = s.target := rfl
@[simp] theorem setClaims_separation (p : Nat) (l : List Claim) : (setClaims p l s).separation = s.separation := rfl
@[simp] theorem setClaims_remnantDue (p : Nat) (l : List Claim) : (setClaims p l s).remnantDue = s.remnantDue := rfl
@[simp] theorem setClaims_tracks (p : Nat) (l : List Claim) : (setClaims p l s).tracks = s.tracks := rfl
@[simp] theorem setClaims_channels (p : Nat) (l : List Claim) : (setClaims p l s).channels = s.channels := rfl
@[simp] theorem setClaims_sections (p : Nat) (l : List Claim) : (setClaims p l s).sections = s.sections := rfl
@[simp] theorem setClaims_claims (p : Nat) (l : List Claim) : (setClaims p l s).claims = Table.write [] s.claims p l := rfl
@[simp] theorem setClaims_detections (p : Nat) (l : List Claim) : (setClaims p l s).detections = s.detections := rfl
@[simp] theorem setClaims_points (p : Nat) (l : List Claim) : (setClaims p l s).points = s.points := rfl
@[simp] theorem setClaims_runState (p : Nat) (l : List Claim) : (setClaims p l s).runState = s.runState := rfl
@[simp] theorem setClaims_clock (p : Nat) (l : List Claim) : (setClaims p l s).clock = s.clock := rfl
@[simp] theorem setClaims_inTree (p : Nat) (l : List Claim) : (setClaims p l s).inTree = s.inTree := rfl
@[simp] theorem setClaims_humpPermit (p : Nat) (l : List Claim) : (setClaims p l s).humpPermit = s.humpPermit := rfl
@[simp] theorem setClaims_tree (p : Nat) (l : List Claim) : (setClaims p l s).tree = s.tree := rfl
@[simp] theorem setClaims_active (p : Nat) (l : List Claim) : (setClaims p l s).active = s.active := rfl
@[simp] theorem setClaims_activeGeneration (p : Nat) (l : List Claim) : (setClaims p l s).activeGeneration = s.activeGeneration := rfl
@[simp] theorem setClaims_working (p : Nat) (l : List Claim) : (setClaims p l s).working = s.working := rfl
@[simp] theorem setClaims_slots (p : Nat) (l : List Claim) : (setClaims p l s).slots = s.slots := rfl
@[simp] theorem setClaims_activeSlot (p : Nat) (l : List Claim) : (setClaims p l s).activeSlot = s.activeSlot := rfl
@[simp] theorem setClaims_commit (p : Nat) (l : List Claim) : (setClaims p l s).commit = s.commit := rfl
@[simp] theorem setClaims_lastCommit (p : Nat) (l : List Claim) : (setClaims p l s).lastCommit = s.lastCommit := rfl
@[simp] theorem setClaims_flags (p : Nat) (l : List Claim) : (setClaims p l s).flags = s.flags := rfl
@[simp] theorem setClaims_enables (p : Nat) (l : List Claim) : (setClaims p l s).enables = s.enables := rfl
@[simp] theorem setClaims_attentionLine (p : Nat) (l : List Claim) : (setClaims p l s).attentionLine = s.attentionLine := rfl

/-! ### leaveTree -/

@[simp] theorem leaveTree_pending : (leaveTree s).pending = s.pending := rfl
@[simp] theorem leaveTree_receiver : (leaveTree s).receiver = s.receiver := rfl
@[simp] theorem leaveTree_inHand : (leaveTree s).inHand = s.inHand := rfl
@[simp] theorem leaveTree_held : (leaveTree s).held = s.held := rfl
@[simp] theorem leaveTree_records : (leaveTree s).records = s.records := rfl
@[simp] theorem leaveTree_queue : (leaveTree s).queue = s.queue := rfl
@[simp] theorem leaveTree_seqCounter : (leaveTree s).seqCounter = s.seqCounter := rfl
@[simp] theorem leaveTree_unlistedCounter : (leaveTree s).unlistedCounter = s.unlistedCounter := rfl
@[simp] theorem leaveTree_crest : (leaveTree s).crest = s.crest := rfl
@[simp] theorem leaveTree_crestCut : (leaveTree s).crestCut = s.crestCut := rfl
@[simp] theorem leaveTree_target : (leaveTree s).target = s.target := rfl
@[simp] theorem leaveTree_separation : (leaveTree s).separation = s.separation := rfl
@[simp] theorem leaveTree_remnantDue : (leaveTree s).remnantDue = s.remnantDue := rfl
@[simp] theorem leaveTree_tracks : (leaveTree s).tracks = s.tracks := rfl
@[simp] theorem leaveTree_channels : (leaveTree s).channels = s.channels := rfl
@[simp] theorem leaveTree_sections : (leaveTree s).sections = s.sections := rfl
@[simp] theorem leaveTree_claims : (leaveTree s).claims = s.claims := rfl
@[simp] theorem leaveTree_detections : (leaveTree s).detections = s.detections := rfl
@[simp] theorem leaveTree_points : (leaveTree s).points = s.points := rfl
@[simp] theorem leaveTree_runState : (leaveTree s).runState = s.runState := rfl
@[simp] theorem leaveTree_clock : (leaveTree s).clock = s.clock := rfl
@[simp] theorem leaveTree_inTree : (leaveTree s).inTree = s.inTree - 1 := rfl
@[simp] theorem leaveTree_humpPermit : (leaveTree s).humpPermit = s.humpPermit := rfl
@[simp] theorem leaveTree_tree : (leaveTree s).tree = s.tree := rfl
@[simp] theorem leaveTree_active : (leaveTree s).active = s.active := rfl
@[simp] theorem leaveTree_activeGeneration : (leaveTree s).activeGeneration = s.activeGeneration := rfl
@[simp] theorem leaveTree_working : (leaveTree s).working = s.working := rfl
@[simp] theorem leaveTree_slots : (leaveTree s).slots = s.slots := rfl
@[simp] theorem leaveTree_activeSlot : (leaveTree s).activeSlot = s.activeSlot := rfl
@[simp] theorem leaveTree_commit : (leaveTree s).commit = s.commit := rfl
@[simp] theorem leaveTree_lastCommit : (leaveTree s).lastCommit = s.lastCommit := rfl
@[simp] theorem leaveTree_flags : (leaveTree s).flags = s.flags := rfl
@[simp] theorem leaveTree_enables : (leaveTree s).enables = s.enables := rfl
@[simp] theorem leaveTree_attentionLine : (leaveTree s).attentionLine = s.attentionLine := rfl

/-! ### joinTree -/

@[simp] theorem joinTree_pending : (joinTree s).pending = s.pending := rfl
@[simp] theorem joinTree_receiver : (joinTree s).receiver = s.receiver := rfl
@[simp] theorem joinTree_inHand : (joinTree s).inHand = s.inHand := rfl
@[simp] theorem joinTree_held : (joinTree s).held = s.held := rfl
@[simp] theorem joinTree_records : (joinTree s).records = s.records := rfl
@[simp] theorem joinTree_queue : (joinTree s).queue = s.queue := rfl
@[simp] theorem joinTree_seqCounter : (joinTree s).seqCounter = s.seqCounter := rfl
@[simp] theorem joinTree_unlistedCounter : (joinTree s).unlistedCounter = s.unlistedCounter := rfl
@[simp] theorem joinTree_crest : (joinTree s).crest = s.crest := rfl
@[simp] theorem joinTree_crestCut : (joinTree s).crestCut = s.crestCut := rfl
@[simp] theorem joinTree_target : (joinTree s).target = s.target := rfl
@[simp] theorem joinTree_separation : (joinTree s).separation = s.separation := rfl
@[simp] theorem joinTree_remnantDue : (joinTree s).remnantDue = s.remnantDue := rfl
@[simp] theorem joinTree_tracks : (joinTree s).tracks = s.tracks := rfl
@[simp] theorem joinTree_channels : (joinTree s).channels = s.channels := rfl
@[simp] theorem joinTree_sections : (joinTree s).sections = s.sections := rfl
@[simp] theorem joinTree_claims : (joinTree s).claims = s.claims := rfl
@[simp] theorem joinTree_detections : (joinTree s).detections = s.detections := rfl
@[simp] theorem joinTree_points : (joinTree s).points = s.points := rfl
@[simp] theorem joinTree_runState : (joinTree s).runState = s.runState := rfl
@[simp] theorem joinTree_clock : (joinTree s).clock = s.clock := rfl
@[simp] theorem joinTree_inTree : (joinTree s).inTree = s.inTree + 1 := rfl
@[simp] theorem joinTree_humpPermit : (joinTree s).humpPermit = s.humpPermit := rfl
@[simp] theorem joinTree_tree : (joinTree s).tree = s.tree := rfl
@[simp] theorem joinTree_active : (joinTree s).active = s.active := rfl
@[simp] theorem joinTree_activeGeneration : (joinTree s).activeGeneration = s.activeGeneration := rfl
@[simp] theorem joinTree_working : (joinTree s).working = s.working := rfl
@[simp] theorem joinTree_slots : (joinTree s).slots = s.slots := rfl
@[simp] theorem joinTree_activeSlot : (joinTree s).activeSlot = s.activeSlot := rfl
@[simp] theorem joinTree_commit : (joinTree s).commit = s.commit := rfl
@[simp] theorem joinTree_lastCommit : (joinTree s).lastCommit = s.lastCommit := rfl
@[simp] theorem joinTree_flags : (joinTree s).flags = s.flags := rfl
@[simp] theorem joinTree_enables : (joinTree s).enables = s.enables := rfl
@[simp] theorem joinTree_attentionLine : (joinTree s).attentionLine = s.attentionLine := rfl

/-! ### nextSequence -/

@[simp] theorem nextSequence_pending : (nextSequence s).pending = s.pending := rfl
@[simp] theorem nextSequence_receiver : (nextSequence s).receiver = s.receiver := rfl
@[simp] theorem nextSequence_inHand : (nextSequence s).inHand = s.inHand := rfl
@[simp] theorem nextSequence_held : (nextSequence s).held = s.held := rfl
@[simp] theorem nextSequence_records : (nextSequence s).records = s.records := rfl
@[simp] theorem nextSequence_queue : (nextSequence s).queue = s.queue := rfl
@[simp] theorem nextSequence_seqCounter : (nextSequence s).seqCounter = s.seqCounter + 1 := rfl
@[simp] theorem nextSequence_unlistedCounter : (nextSequence s).unlistedCounter = s.unlistedCounter := rfl
@[simp] theorem nextSequence_crest : (nextSequence s).crest = s.crest := rfl
@[simp] theorem nextSequence_crestCut : (nextSequence s).crestCut = s.crestCut := rfl
@[simp] theorem nextSequence_target : (nextSequence s).target = s.target := rfl
@[simp] theorem nextSequence_separation : (nextSequence s).separation = s.separation := rfl
@[simp] theorem nextSequence_remnantDue : (nextSequence s).remnantDue = s.remnantDue := rfl
@[simp] theorem nextSequence_tracks : (nextSequence s).tracks = s.tracks := rfl
@[simp] theorem nextSequence_channels : (nextSequence s).channels = s.channels := rfl
@[simp] theorem nextSequence_sections : (nextSequence s).sections = s.sections := rfl
@[simp] theorem nextSequence_claims : (nextSequence s).claims = s.claims := rfl
@[simp] theorem nextSequence_detections : (nextSequence s).detections = s.detections := rfl
@[simp] theorem nextSequence_points : (nextSequence s).points = s.points := rfl
@[simp] theorem nextSequence_runState : (nextSequence s).runState = s.runState := rfl
@[simp] theorem nextSequence_clock : (nextSequence s).clock = s.clock := rfl
@[simp] theorem nextSequence_inTree : (nextSequence s).inTree = s.inTree := rfl
@[simp] theorem nextSequence_humpPermit : (nextSequence s).humpPermit = s.humpPermit := rfl
@[simp] theorem nextSequence_tree : (nextSequence s).tree = s.tree := rfl
@[simp] theorem nextSequence_active : (nextSequence s).active = s.active := rfl
@[simp] theorem nextSequence_activeGeneration : (nextSequence s).activeGeneration = s.activeGeneration := rfl
@[simp] theorem nextSequence_working : (nextSequence s).working = s.working := rfl
@[simp] theorem nextSequence_slots : (nextSequence s).slots = s.slots := rfl
@[simp] theorem nextSequence_activeSlot : (nextSequence s).activeSlot = s.activeSlot := rfl
@[simp] theorem nextSequence_commit : (nextSequence s).commit = s.commit := rfl
@[simp] theorem nextSequence_lastCommit : (nextSequence s).lastCommit = s.lastCommit := rfl
@[simp] theorem nextSequence_flags : (nextSequence s).flags = s.flags := rfl
@[simp] theorem nextSequence_enables : (nextSequence s).enables = s.enables := rfl
@[simp] theorem nextSequence_attentionLine : (nextSequence s).attentionLine = s.attentionLine := rfl

/-! ### startGroup -/

@[simp] theorem startGroup_pending (n : Option Nat) : (startGroup n s).pending = s.pending := rfl
@[simp] theorem startGroup_receiver (n : Option Nat) : (startGroup n s).receiver = s.receiver := rfl
@[simp] theorem startGroup_inHand (n : Option Nat) : (startGroup n s).inHand = s.inHand := rfl
@[simp] theorem startGroup_held (n : Option Nat) : (startGroup n s).held = s.held := rfl
@[simp] theorem startGroup_records (n : Option Nat) : (startGroup n s).records = s.records := rfl
@[simp] theorem startGroup_queue (n : Option Nat) : (startGroup n s).queue = s.queue := rfl
@[simp] theorem startGroup_seqCounter (n : Option Nat) : (startGroup n s).seqCounter = s.seqCounter := rfl
@[simp] theorem startGroup_unlistedCounter (n : Option Nat) : (startGroup n s).unlistedCounter = s.unlistedCounter := rfl
@[simp] theorem startGroup_crest (n : Option Nat) : (startGroup n s).crest = .counting := rfl
@[simp] theorem startGroup_crestCut (n : Option Nat) : (startGroup n s).crestCut = n := rfl
@[simp] theorem startGroup_target (n : Option Nat) : (startGroup n s).target = n := rfl
@[simp] theorem startGroup_separation (n : Option Nat) : (startGroup n s).separation = s.separation := rfl
@[simp] theorem startGroup_remnantDue (n : Option Nat) : (startGroup n s).remnantDue = s.remnantDue := rfl
@[simp] theorem startGroup_tracks (n : Option Nat) : (startGroup n s).tracks = s.tracks := rfl
@[simp] theorem startGroup_channels (n : Option Nat) : (startGroup n s).channels = s.channels := rfl
@[simp] theorem startGroup_sections (n : Option Nat) : (startGroup n s).sections = s.sections := rfl
@[simp] theorem startGroup_claims (n : Option Nat) : (startGroup n s).claims = s.claims := rfl
@[simp] theorem startGroup_detections (n : Option Nat) : (startGroup n s).detections = s.detections := rfl
@[simp] theorem startGroup_points (n : Option Nat) : (startGroup n s).points = s.points := rfl
@[simp] theorem startGroup_runState (n : Option Nat) : (startGroup n s).runState = s.runState := rfl
@[simp] theorem startGroup_clock (n : Option Nat) : (startGroup n s).clock = s.clock := rfl
@[simp] theorem startGroup_inTree (n : Option Nat) : (startGroup n s).inTree = s.inTree := rfl
@[simp] theorem startGroup_humpPermit (n : Option Nat) : (startGroup n s).humpPermit = s.humpPermit := rfl
@[simp] theorem startGroup_tree (n : Option Nat) : (startGroup n s).tree = s.tree := rfl
@[simp] theorem startGroup_active (n : Option Nat) : (startGroup n s).active = s.active := rfl
@[simp] theorem startGroup_activeGeneration (n : Option Nat) : (startGroup n s).activeGeneration = s.activeGeneration := rfl
@[simp] theorem startGroup_working (n : Option Nat) : (startGroup n s).working = s.working := rfl
@[simp] theorem startGroup_slots (n : Option Nat) : (startGroup n s).slots = s.slots := rfl
@[simp] theorem startGroup_activeSlot (n : Option Nat) : (startGroup n s).activeSlot = s.activeSlot := rfl
@[simp] theorem startGroup_commit (n : Option Nat) : (startGroup n s).commit = s.commit := rfl
@[simp] theorem startGroup_lastCommit (n : Option Nat) : (startGroup n s).lastCommit = s.lastCommit := rfl
@[simp] theorem startGroup_flags (n : Option Nat) : (startGroup n s).flags = s.flags := rfl
@[simp] theorem startGroup_enables (n : Option Nat) : (startGroup n s).enables = s.enables := rfl
@[simp] theorem startGroup_attentionLine (n : Option Nat) : (startGroup n s).attentionLine = s.attentionLine := rfl

/-! ### forgetCrest -/

@[simp] theorem forgetCrest_pending (n : Nat) : (forgetCrest n s).pending = s.pending := rfl
@[simp] theorem forgetCrest_receiver (n : Nat) : (forgetCrest n s).receiver = s.receiver := rfl
@[simp] theorem forgetCrest_inHand (n : Nat) : (forgetCrest n s).inHand = s.inHand := rfl
@[simp] theorem forgetCrest_held (n : Nat) : (forgetCrest n s).held = s.held := rfl
@[simp] theorem forgetCrest_records (n : Nat) : (forgetCrest n s).records = s.records := rfl
@[simp] theorem forgetCrest_queue (n : Nat) : (forgetCrest n s).queue = s.queue := rfl
@[simp] theorem forgetCrest_seqCounter (n : Nat) : (forgetCrest n s).seqCounter = s.seqCounter := rfl
@[simp] theorem forgetCrest_unlistedCounter (n : Nat) : (forgetCrest n s).unlistedCounter = s.unlistedCounter := rfl
@[simp] theorem forgetCrest_crest (n : Nat) : (forgetCrest n s).crest = s.crest := rfl
@[simp] theorem forgetCrest_crestCut (n : Nat) : (forgetCrest n s).crestCut = if s.crestCut = some n then none else s.crestCut := rfl
@[simp] theorem forgetCrest_target (n : Nat) : (forgetCrest n s).target = if s.target = some n then none else s.target := rfl
@[simp] theorem forgetCrest_separation (n : Nat) : (forgetCrest n s).separation = s.separation := rfl
@[simp] theorem forgetCrest_remnantDue (n : Nat) : (forgetCrest n s).remnantDue = s.remnantDue := rfl
@[simp] theorem forgetCrest_tracks (n : Nat) : (forgetCrest n s).tracks = s.tracks := rfl
@[simp] theorem forgetCrest_channels (n : Nat) : (forgetCrest n s).channels = s.channels := rfl
@[simp] theorem forgetCrest_sections (n : Nat) : (forgetCrest n s).sections = s.sections := rfl
@[simp] theorem forgetCrest_claims (n : Nat) : (forgetCrest n s).claims = s.claims := rfl
@[simp] theorem forgetCrest_detections (n : Nat) : (forgetCrest n s).detections = s.detections := rfl
@[simp] theorem forgetCrest_points (n : Nat) : (forgetCrest n s).points = s.points := rfl
@[simp] theorem forgetCrest_runState (n : Nat) : (forgetCrest n s).runState = s.runState := rfl
@[simp] theorem forgetCrest_clock (n : Nat) : (forgetCrest n s).clock = s.clock := rfl
@[simp] theorem forgetCrest_inTree (n : Nat) : (forgetCrest n s).inTree = s.inTree := rfl
@[simp] theorem forgetCrest_humpPermit (n : Nat) : (forgetCrest n s).humpPermit = s.humpPermit := rfl
@[simp] theorem forgetCrest_tree (n : Nat) : (forgetCrest n s).tree = s.tree := rfl
@[simp] theorem forgetCrest_active (n : Nat) : (forgetCrest n s).active = s.active := rfl
@[simp] theorem forgetCrest_activeGeneration (n : Nat) : (forgetCrest n s).activeGeneration = s.activeGeneration := rfl
@[simp] theorem forgetCrest_working (n : Nat) : (forgetCrest n s).working = s.working := rfl
@[simp] theorem forgetCrest_slots (n : Nat) : (forgetCrest n s).slots = s.slots := rfl
@[simp] theorem forgetCrest_activeSlot (n : Nat) : (forgetCrest n s).activeSlot = s.activeSlot := rfl
@[simp] theorem forgetCrest_commit (n : Nat) : (forgetCrest n s).commit = s.commit := rfl
@[simp] theorem forgetCrest_lastCommit (n : Nat) : (forgetCrest n s).lastCommit = s.lastCommit := rfl
@[simp] theorem forgetCrest_flags (n : Nat) : (forgetCrest n s).flags = s.flags := rfl
@[simp] theorem forgetCrest_enables (n : Nat) : (forgetCrest n s).enables = s.enables := rfl
@[simp] theorem forgetCrest_attentionLine (n : Nat) : (forgetCrest n s).attentionLine = s.attentionLine := rfl

/-! ### crestQuiet -/

@[simp] theorem crestQuiet_pending : (crestQuiet s).pending = s.pending := rfl
@[simp] theorem crestQuiet_receiver : (crestQuiet s).receiver = s.receiver := rfl
@[simp] theorem crestQuiet_inHand : (crestQuiet s).inHand = s.inHand := rfl
@[simp] theorem crestQuiet_held : (crestQuiet s).held = s.held := rfl
@[simp] theorem crestQuiet_records : (crestQuiet s).records = s.records := rfl
@[simp] theorem crestQuiet_queue : (crestQuiet s).queue = s.queue := rfl
@[simp] theorem crestQuiet_seqCounter : (crestQuiet s).seqCounter = s.seqCounter := rfl
@[simp] theorem crestQuiet_unlistedCounter : (crestQuiet s).unlistedCounter = s.unlistedCounter := rfl
@[simp] theorem crestQuiet_crest : (crestQuiet s).crest = .idle := rfl
@[simp] theorem crestQuiet_crestCut : (crestQuiet s).crestCut = none := rfl
@[simp] theorem crestQuiet_target : (crestQuiet s).target = none := rfl
@[simp] theorem crestQuiet_separation : (crestQuiet s).separation = none := rfl
@[simp] theorem crestQuiet_remnantDue : (crestQuiet s).remnantDue = none := rfl
@[simp] theorem crestQuiet_tracks : (crestQuiet s).tracks = s.tracks := rfl
@[simp] theorem crestQuiet_channels : (crestQuiet s).channels = s.channels := rfl
@[simp] theorem crestQuiet_sections : (crestQuiet s).sections = s.sections := rfl
@[simp] theorem crestQuiet_claims : (crestQuiet s).claims = s.claims := rfl
@[simp] theorem crestQuiet_detections : (crestQuiet s).detections = s.detections := rfl
@[simp] theorem crestQuiet_points : (crestQuiet s).points = s.points := rfl
@[simp] theorem crestQuiet_runState : (crestQuiet s).runState = s.runState := rfl
@[simp] theorem crestQuiet_clock : (crestQuiet s).clock = s.clock := rfl
@[simp] theorem crestQuiet_inTree : (crestQuiet s).inTree = s.inTree := rfl
@[simp] theorem crestQuiet_humpPermit : (crestQuiet s).humpPermit = s.humpPermit := rfl
@[simp] theorem crestQuiet_tree : (crestQuiet s).tree = s.tree := rfl
@[simp] theorem crestQuiet_active : (crestQuiet s).active = s.active := rfl
@[simp] theorem crestQuiet_activeGeneration : (crestQuiet s).activeGeneration = s.activeGeneration := rfl
@[simp] theorem crestQuiet_working : (crestQuiet s).working = s.working := rfl
@[simp] theorem crestQuiet_slots : (crestQuiet s).slots = s.slots := rfl
@[simp] theorem crestQuiet_activeSlot : (crestQuiet s).activeSlot = s.activeSlot := rfl
@[simp] theorem crestQuiet_commit : (crestQuiet s).commit = s.commit := rfl
@[simp] theorem crestQuiet_lastCommit : (crestQuiet s).lastCommit = s.lastCommit := rfl
@[simp] theorem crestQuiet_flags : (crestQuiet s).flags = s.flags := rfl
@[simp] theorem crestQuiet_enables : (crestQuiet s).enables = s.enables := rfl
@[simp] theorem crestQuiet_attentionLine : (crestQuiet s).attentionLine = s.attentionLine := rfl

/-! ### setChannel -/

@[simp] theorem setChannel_pending (c : Nat) (b : Bool) : (setChannel c b s).pending = s.pending := rfl
@[simp] theorem setChannel_receiver (c : Nat) (b : Bool) : (setChannel c b s).receiver = s.receiver := rfl
@[simp] theorem setChannel_inHand (c : Nat) (b : Bool) : (setChannel c b s).inHand = s.inHand := rfl
@[simp] theorem setChannel_held (c : Nat) (b : Bool) : (setChannel c b s).held = s.held := rfl
@[simp] theorem setChannel_records (c : Nat) (b : Bool) : (setChannel c b s).records = s.records := rfl
@[simp] theorem setChannel_queue (c : Nat) (b : Bool) : (setChannel c b s).queue = s.queue := rfl
@[simp] theorem setChannel_seqCounter (c : Nat) (b : Bool) : (setChannel c b s).seqCounter = s.seqCounter := rfl
@[simp] theorem setChannel_unlistedCounter (c : Nat) (b : Bool) : (setChannel c b s).unlistedCounter = s.unlistedCounter := rfl
@[simp] theorem setChannel_crest (c : Nat) (b : Bool) : (setChannel c b s).crest = s.crest := rfl
@[simp] theorem setChannel_crestCut (c : Nat) (b : Bool) : (setChannel c b s).crestCut = s.crestCut := rfl
@[simp] theorem setChannel_target (c : Nat) (b : Bool) : (setChannel c b s).target = s.target := rfl
@[simp] theorem setChannel_separation (c : Nat) (b : Bool) : (setChannel c b s).separation = s.separation := rfl
@[simp] theorem setChannel_remnantDue (c : Nat) (b : Bool) : (setChannel c b s).remnantDue = s.remnantDue := rfl
@[simp] theorem setChannel_tracks (c : Nat) (b : Bool) : (setChannel c b s).tracks = s.tracks := rfl
@[simp] theorem setChannel_channels (c : Nat) (b : Bool) : (setChannel c b s).channels = Table.write false s.channels c b := rfl
@[simp] theorem setChannel_sections (c : Nat) (b : Bool) : (setChannel c b s).sections = s.sections := rfl
@[simp] theorem setChannel_claims (c : Nat) (b : Bool) : (setChannel c b s).claims = s.claims := rfl
@[simp] theorem setChannel_detections (c : Nat) (b : Bool) : (setChannel c b s).detections = s.detections := rfl
@[simp] theorem setChannel_points (c : Nat) (b : Bool) : (setChannel c b s).points = s.points := rfl
@[simp] theorem setChannel_runState (c : Nat) (b : Bool) : (setChannel c b s).runState = s.runState := rfl
@[simp] theorem setChannel_clock (c : Nat) (b : Bool) : (setChannel c b s).clock = s.clock := rfl
@[simp] theorem setChannel_inTree (c : Nat) (b : Bool) : (setChannel c b s).inTree = s.inTree := rfl
@[simp] theorem setChannel_humpPermit (c : Nat) (b : Bool) : (setChannel c b s).humpPermit = s.humpPermit := rfl
@[simp] theorem setChannel_tree (c : Nat) (b : Bool) : (setChannel c b s).tree = s.tree := rfl
@[simp] theorem setChannel_active (c : Nat) (b : Bool) : (setChannel c b s).active = s.active := rfl
@[simp] theorem setChannel_activeGeneration (c : Nat) (b : Bool) : (setChannel c b s).activeGeneration = s.activeGeneration := rfl
@[simp] theorem setChannel_working (c : Nat) (b : Bool) : (setChannel c b s).working = s.working := rfl
@[simp] theorem setChannel_slots (c : Nat) (b : Bool) : (setChannel c b s).slots = s.slots := rfl
@[simp] theorem setChannel_activeSlot (c : Nat) (b : Bool) : (setChannel c b s).activeSlot = s.activeSlot := rfl
@[simp] theorem setChannel_commit (c : Nat) (b : Bool) : (setChannel c b s).commit = s.commit := rfl
@[simp] theorem setChannel_lastCommit (c : Nat) (b : Bool) : (setChannel c b s).lastCommit = s.lastCommit := rfl
@[simp] theorem setChannel_flags (c : Nat) (b : Bool) : (setChannel c b s).flags = s.flags := rfl
@[simp] theorem setChannel_enables (c : Nat) (b : Bool) : (setChannel c b s).enables = s.enables := rfl
@[simp] theorem setChannel_attentionLine (c : Nat) (b : Bool) : (setChannel c b s).attentionLine = s.attentionLine := rfl

/-! ### setInput -/

@[simp] theorem setInput_pending (d : Nat) (i : Position) (b : Bool) : (setInput d i b s).pending = s.pending := rfl
@[simp] theorem setInput_receiver (d : Nat) (i : Position) (b : Bool) : (setInput d i b s).receiver = s.receiver := rfl
@[simp] theorem setInput_inHand (d : Nat) (i : Position) (b : Bool) : (setInput d i b s).inHand = s.inHand := rfl
@[simp] theorem setInput_held (d : Nat) (i : Position) (b : Bool) : (setInput d i b s).held = s.held := rfl
@[simp] theorem setInput_records (d : Nat) (i : Position) (b : Bool) : (setInput d i b s).records = s.records := rfl
@[simp] theorem setInput_queue (d : Nat) (i : Position) (b : Bool) : (setInput d i b s).queue = s.queue := rfl
@[simp] theorem setInput_seqCounter (d : Nat) (i : Position) (b : Bool) : (setInput d i b s).seqCounter = s.seqCounter := rfl
@[simp] theorem setInput_unlistedCounter (d : Nat) (i : Position) (b : Bool) : (setInput d i b s).unlistedCounter = s.unlistedCounter := rfl
@[simp] theorem setInput_crest (d : Nat) (i : Position) (b : Bool) : (setInput d i b s).crest = s.crest := rfl
@[simp] theorem setInput_crestCut (d : Nat) (i : Position) (b : Bool) : (setInput d i b s).crestCut = s.crestCut := rfl
@[simp] theorem setInput_target (d : Nat) (i : Position) (b : Bool) : (setInput d i b s).target = s.target := rfl
@[simp] theorem setInput_separation (d : Nat) (i : Position) (b : Bool) : (setInput d i b s).separation = s.separation := rfl
@[simp] theorem setInput_remnantDue (d : Nat) (i : Position) (b : Bool) : (setInput d i b s).remnantDue = s.remnantDue := rfl
@[simp] theorem setInput_tracks (d : Nat) (i : Position) (b : Bool) : (setInput d i b s).tracks = s.tracks := rfl
@[simp] theorem setInput_channels (d : Nat) (i : Position) (b : Bool) : (setInput d i b s).channels = s.channels := rfl
@[simp] theorem setInput_sections (d : Nat) (i : Position) (b : Bool) : (setInput d i b s).sections = s.sections := rfl
@[simp] theorem setInput_claims (d : Nat) (i : Position) (b : Bool) : (setInput d i b s).claims = s.claims := rfl
@[simp] theorem setInput_detections (d : Nat) (i : Position) (b : Bool) : (setInput d i b s).detections = Table.write DetectionPair.off s.detections d ((s.pair d).set i b) := rfl
@[simp] theorem setInput_points (d : Nat) (i : Position) (b : Bool) : (setInput d i b s).points = s.points := rfl
@[simp] theorem setInput_runState (d : Nat) (i : Position) (b : Bool) : (setInput d i b s).runState = s.runState := rfl
@[simp] theorem setInput_clock (d : Nat) (i : Position) (b : Bool) : (setInput d i b s).clock = s.clock := rfl
@[simp] theorem setInput_inTree (d : Nat) (i : Position) (b : Bool) : (setInput d i b s).inTree = s.inTree := rfl
@[simp] theorem setInput_humpPermit (d : Nat) (i : Position) (b : Bool) : (setInput d i b s).humpPermit = s.humpPermit := rfl
@[simp] theorem setInput_tree (d : Nat) (i : Position) (b : Bool) : (setInput d i b s).tree = s.tree := rfl
@[simp] theorem setInput_active (d : Nat) (i : Position) (b : Bool) : (setInput d i b s).active = s.active := rfl
@[simp] theorem setInput_activeGeneration (d : Nat) (i : Position) (b : Bool) : (setInput d i b s).activeGeneration = s.activeGeneration := rfl
@[simp] theorem setInput_working (d : Nat) (i : Position) (b : Bool) : (setInput d i b s).working = s.working := rfl
@[simp] theorem setInput_slots (d : Nat) (i : Position) (b : Bool) : (setInput d i b s).slots = s.slots := rfl
@[simp] theorem setInput_activeSlot (d : Nat) (i : Position) (b : Bool) : (setInput d i b s).activeSlot = s.activeSlot := rfl
@[simp] theorem setInput_commit (d : Nat) (i : Position) (b : Bool) : (setInput d i b s).commit = s.commit := rfl
@[simp] theorem setInput_lastCommit (d : Nat) (i : Position) (b : Bool) : (setInput d i b s).lastCommit = s.lastCommit := rfl
@[simp] theorem setInput_flags (d : Nat) (i : Position) (b : Bool) : (setInput d i b s).flags = s.flags := rfl
@[simp] theorem setInput_enables (d : Nat) (i : Position) (b : Bool) : (setInput d i b s).enables = s.enables := rfl
@[simp] theorem setInput_attentionLine (d : Nat) (i : Position) (b : Bool) : (setInput d i b s).attentionLine = s.attentionLine := rfl

/-! ### setSlot -/

@[simp] theorem setSlot_pending (x : Nat) (c : Option SlotContents) : (setSlot x c s).pending = s.pending := rfl
@[simp] theorem setSlot_receiver (x : Nat) (c : Option SlotContents) : (setSlot x c s).receiver = s.receiver := rfl
@[simp] theorem setSlot_inHand (x : Nat) (c : Option SlotContents) : (setSlot x c s).inHand = s.inHand := rfl
@[simp] theorem setSlot_held (x : Nat) (c : Option SlotContents) : (setSlot x c s).held = s.held := rfl
@[simp] theorem setSlot_records (x : Nat) (c : Option SlotContents) : (setSlot x c s).records = s.records := rfl
@[simp] theorem setSlot_queue (x : Nat) (c : Option SlotContents) : (setSlot x c s).queue = s.queue := rfl
@[simp] theorem setSlot_seqCounter (x : Nat) (c : Option SlotContents) : (setSlot x c s).seqCounter = s.seqCounter := rfl
@[simp] theorem setSlot_unlistedCounter (x : Nat) (c : Option SlotContents) : (setSlot x c s).unlistedCounter = s.unlistedCounter := rfl
@[simp] theorem setSlot_crest (x : Nat) (c : Option SlotContents) : (setSlot x c s).crest = s.crest := rfl
@[simp] theorem setSlot_crestCut (x : Nat) (c : Option SlotContents) : (setSlot x c s).crestCut = s.crestCut := rfl
@[simp] theorem setSlot_target (x : Nat) (c : Option SlotContents) : (setSlot x c s).target = s.target := rfl
@[simp] theorem setSlot_separation (x : Nat) (c : Option SlotContents) : (setSlot x c s).separation = s.separation := rfl
@[simp] theorem setSlot_remnantDue (x : Nat) (c : Option SlotContents) : (setSlot x c s).remnantDue = s.remnantDue := rfl
@[simp] theorem setSlot_tracks (x : Nat) (c : Option SlotContents) : (setSlot x c s).tracks = s.tracks := rfl
@[simp] theorem setSlot_channels (x : Nat) (c : Option SlotContents) : (setSlot x c s).channels = s.channels := rfl
@[simp] theorem setSlot_sections (x : Nat) (c : Option SlotContents) : (setSlot x c s).sections = s.sections := rfl
@[simp] theorem setSlot_claims (x : Nat) (c : Option SlotContents) : (setSlot x c s).claims = s.claims := rfl
@[simp] theorem setSlot_detections (x : Nat) (c : Option SlotContents) : (setSlot x c s).detections = s.detections := rfl
@[simp] theorem setSlot_points (x : Nat) (c : Option SlotContents) : (setSlot x c s).points = s.points := rfl
@[simp] theorem setSlot_runState (x : Nat) (c : Option SlotContents) : (setSlot x c s).runState = s.runState := rfl
@[simp] theorem setSlot_clock (x : Nat) (c : Option SlotContents) : (setSlot x c s).clock = s.clock := rfl
@[simp] theorem setSlot_inTree (x : Nat) (c : Option SlotContents) : (setSlot x c s).inTree = s.inTree := rfl
@[simp] theorem setSlot_humpPermit (x : Nat) (c : Option SlotContents) : (setSlot x c s).humpPermit = s.humpPermit := rfl
@[simp] theorem setSlot_tree (x : Nat) (c : Option SlotContents) : (setSlot x c s).tree = s.tree := rfl
@[simp] theorem setSlot_active (x : Nat) (c : Option SlotContents) : (setSlot x c s).active = s.active := rfl
@[simp] theorem setSlot_activeGeneration (x : Nat) (c : Option SlotContents) : (setSlot x c s).activeGeneration = s.activeGeneration := rfl
@[simp] theorem setSlot_working (x : Nat) (c : Option SlotContents) : (setSlot x c s).working = s.working := rfl
@[simp] theorem setSlot_slots (x : Nat) (c : Option SlotContents) : (setSlot x c s).slots = Table.write none s.slots x c := rfl
@[simp] theorem setSlot_activeSlot (x : Nat) (c : Option SlotContents) : (setSlot x c s).activeSlot = s.activeSlot := rfl
@[simp] theorem setSlot_commit (x : Nat) (c : Option SlotContents) : (setSlot x c s).commit = s.commit := rfl
@[simp] theorem setSlot_lastCommit (x : Nat) (c : Option SlotContents) : (setSlot x c s).lastCommit = s.lastCommit := rfl
@[simp] theorem setSlot_flags (x : Nat) (c : Option SlotContents) : (setSlot x c s).flags = s.flags := rfl
@[simp] theorem setSlot_enables (x : Nat) (c : Option SlotContents) : (setSlot x c s).enables = s.enables := rfl
@[simp] theorem setSlot_attentionLine (x : Nat) (c : Option SlotContents) : (setSlot x c s).attentionLine = s.attentionLine := rfl

/-! ### answering -/

@[simp] theorem answering_pending (code : Byte) (body : List Byte) : (answering code body s).pending = s.pending := rfl
@[simp] theorem answering_receiver (code : Byte) (body : List Byte) : (answering code body s).receiver = s.receiver := rfl
@[simp] theorem answering_inHand (code : Byte) (body : List Byte) : (answering code body s).inHand = some { code := answerCode code, body := body } := rfl
@[simp] theorem answering_held (code : Byte) (body : List Byte) : (answering code body s).held = s.held := rfl
@[simp] theorem answering_records (code : Byte) (body : List Byte) : (answering code body s).records = s.records := rfl
@[simp] theorem answering_queue (code : Byte) (body : List Byte) : (answering code body s).queue = s.queue := rfl
@[simp] theorem answering_seqCounter (code : Byte) (body : List Byte) : (answering code body s).seqCounter = s.seqCounter := rfl
@[simp] theorem answering_unlistedCounter (code : Byte) (body : List Byte) : (answering code body s).unlistedCounter = s.unlistedCounter := rfl
@[simp] theorem answering_crest (code : Byte) (body : List Byte) : (answering code body s).crest = s.crest := rfl
@[simp] theorem answering_crestCut (code : Byte) (body : List Byte) : (answering code body s).crestCut = s.crestCut := rfl
@[simp] theorem answering_target (code : Byte) (body : List Byte) : (answering code body s).target = s.target := rfl
@[simp] theorem answering_separation (code : Byte) (body : List Byte) : (answering code body s).separation = s.separation := rfl
@[simp] theorem answering_remnantDue (code : Byte) (body : List Byte) : (answering code body s).remnantDue = s.remnantDue := rfl
@[simp] theorem answering_tracks (code : Byte) (body : List Byte) : (answering code body s).tracks = s.tracks := rfl
@[simp] theorem answering_channels (code : Byte) (body : List Byte) : (answering code body s).channels = s.channels := rfl
@[simp] theorem answering_sections (code : Byte) (body : List Byte) : (answering code body s).sections = s.sections := rfl
@[simp] theorem answering_claims (code : Byte) (body : List Byte) : (answering code body s).claims = s.claims := rfl
@[simp] theorem answering_detections (code : Byte) (body : List Byte) : (answering code body s).detections = s.detections := rfl
@[simp] theorem answering_points (code : Byte) (body : List Byte) : (answering code body s).points = s.points := rfl
@[simp] theorem answering_runState (code : Byte) (body : List Byte) : (answering code body s).runState = s.runState := rfl
@[simp] theorem answering_clock (code : Byte) (body : List Byte) : (answering code body s).clock = s.clock := rfl
@[simp] theorem answering_inTree (code : Byte) (body : List Byte) : (answering code body s).inTree = s.inTree := rfl
@[simp] theorem answering_humpPermit (code : Byte) (body : List Byte) : (answering code body s).humpPermit = s.humpPermit := rfl
@[simp] theorem answering_tree (code : Byte) (body : List Byte) : (answering code body s).tree = s.tree := rfl
@[simp] theorem answering_active (code : Byte) (body : List Byte) : (answering code body s).active = s.active := rfl
@[simp] theorem answering_activeGeneration (code : Byte) (body : List Byte) : (answering code body s).activeGeneration = s.activeGeneration := rfl
@[simp] theorem answering_working (code : Byte) (body : List Byte) : (answering code body s).working = s.working := rfl
@[simp] theorem answering_slots (code : Byte) (body : List Byte) : (answering code body s).slots = s.slots := rfl
@[simp] theorem answering_activeSlot (code : Byte) (body : List Byte) : (answering code body s).activeSlot = s.activeSlot := rfl
@[simp] theorem answering_commit (code : Byte) (body : List Byte) : (answering code body s).commit = s.commit := rfl
@[simp] theorem answering_lastCommit (code : Byte) (body : List Byte) : (answering code body s).lastCommit = s.lastCommit := rfl
@[simp] theorem answering_flags (code : Byte) (body : List Byte) : (answering code body s).flags = s.flags := rfl
@[simp] theorem answering_enables (code : Byte) (body : List Byte) : (answering code body s).enables = s.enables := rfl
@[simp] theorem answering_attentionLine (code : Byte) (body : List Byte) : (answering code body s).attentionLine = s.attentionLine := rfl

/-! ### hunt -/

@[simp] theorem hunt_pending : (hunt s).pending = s.pending := rfl
@[simp] theorem hunt_receiver : (hunt s).receiver = .hunting := rfl
@[simp] theorem hunt_inHand : (hunt s).inHand = s.inHand := rfl
@[simp] theorem hunt_held : (hunt s).held = s.held := rfl
@[simp] theorem hunt_records : (hunt s).records = s.records := rfl
@[simp] theorem hunt_queue : (hunt s).queue = s.queue := rfl
@[simp] theorem hunt_seqCounter : (hunt s).seqCounter = s.seqCounter := rfl
@[simp] theorem hunt_unlistedCounter : (hunt s).unlistedCounter = s.unlistedCounter := rfl
@[simp] theorem hunt_crest : (hunt s).crest = s.crest := rfl
@[simp] theorem hunt_crestCut : (hunt s).crestCut = s.crestCut := rfl
@[simp] theorem hunt_target : (hunt s).target = s.target := rfl
@[simp] theorem hunt_separation : (hunt s).separation = s.separation := rfl
@[simp] theorem hunt_remnantDue : (hunt s).remnantDue = s.remnantDue := rfl
@[simp] theorem hunt_tracks : (hunt s).tracks = s.tracks := rfl
@[simp] theorem hunt_channels : (hunt s).channels = s.channels := rfl
@[simp] theorem hunt_sections : (hunt s).sections = s.sections := rfl
@[simp] theorem hunt_claims : (hunt s).claims = s.claims := rfl
@[simp] theorem hunt_detections : (hunt s).detections = s.detections := rfl
@[simp] theorem hunt_points : (hunt s).points = s.points := rfl
@[simp] theorem hunt_runState : (hunt s).runState = s.runState := rfl
@[simp] theorem hunt_clock : (hunt s).clock = s.clock := rfl
@[simp] theorem hunt_inTree : (hunt s).inTree = s.inTree := rfl
@[simp] theorem hunt_humpPermit : (hunt s).humpPermit = s.humpPermit := rfl
@[simp] theorem hunt_tree : (hunt s).tree = s.tree := rfl
@[simp] theorem hunt_active : (hunt s).active = s.active := rfl
@[simp] theorem hunt_activeGeneration : (hunt s).activeGeneration = s.activeGeneration := rfl
@[simp] theorem hunt_working : (hunt s).working = s.working := rfl
@[simp] theorem hunt_slots : (hunt s).slots = s.slots := rfl
@[simp] theorem hunt_activeSlot : (hunt s).activeSlot = s.activeSlot := rfl
@[simp] theorem hunt_commit : (hunt s).commit = s.commit := rfl
@[simp] theorem hunt_lastCommit : (hunt s).lastCommit = s.lastCommit := rfl
@[simp] theorem hunt_flags : (hunt s).flags = s.flags := rfl
@[simp] theorem hunt_enables : (hunt s).enables = s.enables := rfl
@[simp] theorem hunt_attentionLine : (hunt s).attentionLine = s.attentionLine := rfl

/-! ### collect -/

@[simp] theorem collect_pending (bytes : List Byte) : (collect bytes s).pending = s.pending := rfl
@[simp] theorem collect_receiver (bytes : List Byte) : (collect bytes s).receiver = .collecting bytes s.clock := rfl
@[simp] theorem collect_inHand (bytes : List Byte) : (collect bytes s).inHand = s.inHand := rfl
@[simp] theorem collect_held (bytes : List Byte) : (collect bytes s).held = s.held := rfl
@[simp] theorem collect_records (bytes : List Byte) : (collect bytes s).records = s.records := rfl
@[simp] theorem collect_queue (bytes : List Byte) : (collect bytes s).queue = s.queue := rfl
@[simp] theorem collect_seqCounter (bytes : List Byte) : (collect bytes s).seqCounter = s.seqCounter := rfl
@[simp] theorem collect_unlistedCounter (bytes : List Byte) : (collect bytes s).unlistedCounter = s.unlistedCounter := rfl
@[simp] theorem collect_crest (bytes : List Byte) : (collect bytes s).crest = s.crest := rfl
@[simp] theorem collect_crestCut (bytes : List Byte) : (collect bytes s).crestCut = s.crestCut := rfl
@[simp] theorem collect_target (bytes : List Byte) : (collect bytes s).target = s.target := rfl
@[simp] theorem collect_separation (bytes : List Byte) : (collect bytes s).separation = s.separation := rfl
@[simp] theorem collect_remnantDue (bytes : List Byte) : (collect bytes s).remnantDue = s.remnantDue := rfl
@[simp] theorem collect_tracks (bytes : List Byte) : (collect bytes s).tracks = s.tracks := rfl
@[simp] theorem collect_channels (bytes : List Byte) : (collect bytes s).channels = s.channels := rfl
@[simp] theorem collect_sections (bytes : List Byte) : (collect bytes s).sections = s.sections := rfl
@[simp] theorem collect_claims (bytes : List Byte) : (collect bytes s).claims = s.claims := rfl
@[simp] theorem collect_detections (bytes : List Byte) : (collect bytes s).detections = s.detections := rfl
@[simp] theorem collect_points (bytes : List Byte) : (collect bytes s).points = s.points := rfl
@[simp] theorem collect_runState (bytes : List Byte) : (collect bytes s).runState = s.runState := rfl
@[simp] theorem collect_clock (bytes : List Byte) : (collect bytes s).clock = s.clock := rfl
@[simp] theorem collect_inTree (bytes : List Byte) : (collect bytes s).inTree = s.inTree := rfl
@[simp] theorem collect_humpPermit (bytes : List Byte) : (collect bytes s).humpPermit = s.humpPermit := rfl
@[simp] theorem collect_tree (bytes : List Byte) : (collect bytes s).tree = s.tree := rfl
@[simp] theorem collect_active (bytes : List Byte) : (collect bytes s).active = s.active := rfl
@[simp] theorem collect_activeGeneration (bytes : List Byte) : (collect bytes s).activeGeneration = s.activeGeneration := rfl
@[simp] theorem collect_working (bytes : List Byte) : (collect bytes s).working = s.working := rfl
@[simp] theorem collect_slots (bytes : List Byte) : (collect bytes s).slots = s.slots := rfl
@[simp] theorem collect_activeSlot (bytes : List Byte) : (collect bytes s).activeSlot = s.activeSlot := rfl
@[simp] theorem collect_commit (bytes : List Byte) : (collect bytes s).commit = s.commit := rfl
@[simp] theorem collect_lastCommit (bytes : List Byte) : (collect bytes s).lastCommit = s.lastCommit := rfl
@[simp] theorem collect_flags (bytes : List Byte) : (collect bytes s).flags = s.flags := rfl
@[simp] theorem collect_enables (bytes : List Byte) : (collect bytes s).enables = s.enables := rfl
@[simp] theorem collect_attentionLine (bytes : List Byte) : (collect bytes s).attentionLine = s.attentionLine := rfl

/-! ### finish -/

@[simp] theorem finish_pending : (finish s).pending = s.pending := rfl
@[simp] theorem finish_receiver : (finish s).receiver = s.receiver := rfl
@[simp] theorem finish_inHand : (finish s).inHand = s.inHand := rfl
@[simp] theorem finish_held : (finish s).held = s.held := rfl
@[simp] theorem finish_records : (finish s).records = s.records := rfl
@[simp] theorem finish_queue : (finish s).queue = s.queue := rfl
@[simp] theorem finish_seqCounter : (finish s).seqCounter = s.seqCounter := rfl
@[simp] theorem finish_unlistedCounter : (finish s).unlistedCounter = s.unlistedCounter := rfl
@[simp] theorem finish_crest : (finish s).crest = s.crest := rfl
@[simp] theorem finish_crestCut : (finish s).crestCut = s.crestCut := rfl
@[simp] theorem finish_target : (finish s).target = s.target := rfl
@[simp] theorem finish_separation : (finish s).separation = s.separation := rfl
@[simp] theorem finish_remnantDue : (finish s).remnantDue = s.remnantDue := rfl
@[simp] theorem finish_tracks : (finish s).tracks = s.tracks := rfl
@[simp] theorem finish_channels : (finish s).channels = s.channels := rfl
@[simp] theorem finish_sections : (finish s).sections = s.sections := rfl
@[simp] theorem finish_claims : (finish s).claims = s.claims := rfl
@[simp] theorem finish_detections : (finish s).detections = s.detections := rfl
@[simp] theorem finish_points : (finish s).points = s.points := rfl
@[simp] theorem finish_runState : (finish s).runState = s.runState := rfl
@[simp] theorem finish_clock : (finish s).clock = s.clock := rfl
@[simp] theorem finish_inTree : (finish s).inTree = s.inTree := rfl
@[simp] theorem finish_humpPermit : (finish s).humpPermit = permitCondition s := rfl
@[simp] theorem finish_tree : (finish s).tree = s.tree := rfl
@[simp] theorem finish_active : (finish s).active = s.active := rfl
@[simp] theorem finish_activeGeneration : (finish s).activeGeneration = s.activeGeneration := rfl
@[simp] theorem finish_working : (finish s).working = s.working := rfl
@[simp] theorem finish_slots : (finish s).slots = s.slots := rfl
@[simp] theorem finish_activeSlot : (finish s).activeSlot = s.activeSlot := rfl
@[simp] theorem finish_commit : (finish s).commit = s.commit := rfl
@[simp] theorem finish_lastCommit : (finish s).lastCommit = s.lastCommit := rfl
@[simp] theorem finish_flags : (finish s).flags = s.flags := rfl
@[simp] theorem finish_enables : (finish s).enables = s.enables := rfl
@[simp] theorem finish_attentionLine : (finish s).attentionLine = attentionCondition s := rfl

/-! ### The parts of an entry a read shows -/

@[simp] theorem latchIf_flags (b : Bool) (c : Cause) : (latchIf b c s).flags = if b then s.flags ||| causeBit c else s.flags := by
  cases b <;> rfl

@[simp] theorem changeRecord_records (n : Nat) (f : Record → Record) :
    (changeRecord n f s).records = s.records.map (fun r => if r.number = n then Record.changed f r else r) := latchIf_records _ _ _

@[simp] theorem changeTrack_tracks (x : Nat) (f : TrackEntry → TrackEntry) :
    (changeTrack x f s).tracks = Table.write TrackEntry.initial s.tracks x (f (s.track x)) := latchIf_tracks _ _ _

end Sys2Proof.Machine
end

