-- ==== Sys2Proof/Laws/Records.lean ====
section
/-! SUPPORT. What a lookup by cut number shows after each named operation on records. -/

namespace Sys2Proof.Machine

variable (s : State)

/-- A change keeps a record's number when the function does. -/
theorem Record.changed_number (f : Record → Record) (hf : ∀ r, (f r).number = r.number) (r : Record) :
    (Record.changed f r).number = r.number := by
  unfold Record.changed
  split <;> simp [hf]

/-- What a change does to a record (R33): the function's effect, with the unseen mark set when a shown field is altered. -/
theorem Record.changed_eq (f : Record → Record) (r : Record) :
    Record.changed f r = { f r with unseen := if (f r).shown = r.shown then (f r).unseen else true } := by
  unfold Record.changed
  split <;> simp

theorem find_map_number {g : Record → Record} (hg : ∀ r, (g r).number = r.number) (l : List Record) (k : Nat) :
    (l.map g).find? (fun r => r.number == k) = (l.find? (fun r => r.number == k)).map g := by
  induction l with
  | nil => rfl
  | cons r l ih => by_cases h : r.number = k <;> simp [hg, h, ih]

/-- A record found under a number carries it. -/
theorem record_number {n : Nat} {r : Record} (h : s.record n = some r) : r.number = n := by
  simpa using List.find?_some h

theorem record_mem {n : Nat} {r : Record} (h : s.record n = some r) : r ∈ s.records := List.mem_of_find?_eq_some h

/-- Lookups after a change of a record. -/
theorem record_changeRecord (n : Nat) (f : Record → Record) (hf : ∀ r, (f r).number = r.number) (k : Nat) :
    (changeRecord n f s).record k = if k = n then (s.record k).map (Record.changed f) else s.record k := by
  unfold State.record
  rw [changeRecord_records, find_map_number (fun r => by split <;> simp [Record.changed_number f hf])]
  cases h : s.records.find? (fun r => r.number == k) with
  | none => simp
  | some r =>
    have hr : r.number = k := by simpa using List.find?_some h
    by_cases hk : k = n <;> simp [hr, hk]

/-- The record changed. -/
theorem record_changeRecord_same (n : Nat) (f : Record → Record) (hf : ∀ r, (f r).number = r.number) :
    (changeRecord n f s).record n = (s.record n).map (Record.changed f) := by simp [record_changeRecord s n f hf]

/-- Every other record. -/
theorem record_changeRecord_other {n k : Nat} (f : Record → Record) (hf : ∀ r, (f r).number = r.number) (h : k ≠ n) :
    (changeRecord n f s).record k = s.record k := by simp [record_changeRecord s n f hf, h]

/-- The numbers in the table after a change. -/
theorem numbers_changeRecord (n : Nat) (f : Record → Record) (hf : ∀ r, (f r).number = r.number) :
    (changeRecord n f s).records.map Record.number = s.records.map Record.number := by
  rw [changeRecord_records, List.map_map]
  exact List.map_congr_left (fun r _ => by simp only [Function.comp]; split <;> simp [Record.changed_number f hf])

/-- A changed record is found where one was. -/
theorem isSome_record_changeRecord (n : Nat) (f : Record → Record) (hf : ∀ r, (f r).number = r.number) (k : Nat) :
    ((changeRecord n f s).record k).isSome = (s.record k).isSome := by
  rw [record_changeRecord s n f hf]
  split <;> simp

/-- Lookups after a record is added. -/
theorem record_addRecord (r : Record) (k : Nat) :
    (addRecord r s).record k = (s.record k).or (if r.number = k then some { r with unseen := true } else none) := by
  unfold State.record
  rw [addRecord_records, List.find?_append]
  congr 1
  by_cases h : r.number = k <;> simp [h]

/-- Lookups after a record is freed. -/
theorem record_freeRecord (n k : Nat) : (freeRecord n s).record k = if k = n then none else s.record k := by
  unfold State.record
  rw [freeRecord_records, List.find?_filter]
  by_cases hk : k = n
  · simp [hk]
  · rw [if_neg hk]
    congr 1
    funext r
    by_cases hr : r.number = k <;> simp [hr, hk]

/-- Being in a state is a fact about the record found. -/
theorem isIn_iff {n : Nat} {c : CutState} : s.isIn n c = true ↔ ∃ r, s.record n = some r ∧ r.state = c := by
  unfold State.isIn
  cases s.record n <;> simp

theorem isInTree_iff {n : Nat} : s.isInTree n = true ↔ ∃ r, s.record n = some r ∧ r.state.inTree = true := by
  unfold State.isInTree
  cases s.record n <;> simp

/-- The records after some changes of the same kind. -/
theorem record_changeRecords_other (l : List Nat) (f : Record → Record) (hf : ∀ r, (f r).number = r.number) {k : Nat} (h : k ∉ l) :
    (changeRecords l f s).record k = s.record k := by
  unfold changeRecords
  induction l generalizing s with
  | nil => rfl
  | cons n l ih =>
    simp only [List.mem_cons, not_or] at h
    rw [List.foldl_cons, ih _ h.2, record_changeRecord_other s f hf h.1]

end Sys2Proof.Machine
end

