-- ==== Sys2Proof/Laws/Frames.lean ====
section
/-! SUPPORT. What each shared operation can touch, said once: everything else stands as it did. -/

namespace Sys2Proof.Machine

/-- Only records, points and flags may differ, and last-moment expiries that have come may stand in front of the queue of commands: what the
throw decisions and watch choices at the end of a change can touch. -/
def WatchFrame (s t : State) : Prop :=
  ∃ l : List Nat, t = { s with
    pending := l.map Instr.lastMomentExpiry ++ s.pending, records := t.records, points := t.points, flags := t.flags }

/-- Only the records, the in-tree count, the tracks, the section entries, the claims, the points and the flags may differ, and last-moment
expiries that have come may stand in front of the queue of commands: what following a cut can touch. -/
def HumpFrame (s t : State) : Prop :=
  ∃ l : List Nat, t = { s with
    pending := l.map Instr.lastMomentExpiry ++ s.pending, records := t.records, inTree := t.inTree, tracks := t.tracks
    sections := t.sections, claims := t.claims, points := t.points, flags := t.flags }

theorem WatchFrame.refl (s : State) : WatchFrame s s := ⟨[], rfl⟩

theorem HumpFrame.refl (s : State) : HumpFrame s s := ⟨[], rfl⟩

theorem WatchFrame.trans {s t u : State} (h1 : WatchFrame s t) (h2 : WatchFrame t u) : WatchFrame s u := by
  obtain ⟨l, h1⟩ := h1
  obtain ⟨k, h2⟩ := h2
  exact ⟨k ++ l, by rw [h2, h1]; simp⟩

theorem HumpFrame.trans {s t u : State} (h1 : HumpFrame s t) (h2 : HumpFrame t u) : HumpFrame s u := by
  obtain ⟨l, h1⟩ := h1
  obtain ⟨k, h2⟩ := h2
  exact ⟨k ++ l, by rw [h2, h1]; simp⟩

theorem WatchFrame.hump {s t : State} (h : WatchFrame s t) : HumpFrame s t := by
  obtain ⟨l, h⟩ := h
  exact ⟨l, by rw [h]⟩

theorem WatchFrame.foldl {β : Type} (f : State → β → State) (h : ∀ s b, WatchFrame s (f s b)) (l : List β) (s : State) :
    WatchFrame s (l.foldl f s) := by
  induction l generalizing s with
  | nil => exact .refl s
  | cons b l ih => exact (h s b).trans (ih _)

theorem HumpFrame.foldl {β : Type} (f : State → β → State) (h : ∀ s b, HumpFrame s (f s b)) (l : List β) (s : State) :
    HumpFrame s (l.foldl f s) := by
  induction l generalizing s with
  | nil => exact .refl s
  | cons b l ih => exact (h s b).trans (ih _)

theorem HumpFrame.ite {c : Prop} [Decidable c] {s t u : State} (h1 : HumpFrame s t) (h2 : HumpFrame s u) :
    HumpFrame s (if c then t else u) := by split <;> assumption

/-! ### Basic operations -/

variable (s : State)

theorem latch_watch (c : Cause) : WatchFrame s (latch c s) := ⟨[], rfl⟩

theorem latchIf_watch (b : Bool) (c : Cause) : WatchFrame s (latchIf b c s) := by cases b <;> exact ⟨[], rfl⟩

theorem changeRecord_watch (n : Nat) (f : Record → Record) : WatchFrame s (changeRecord n f s) := by
  unfold changeRecord latchIf
  split <;> exact ⟨[], rfl⟩

theorem changePoint_watch (p : Nat) (f : PointEntry → PointEntry) : WatchFrame s (changePoint p f s) := ⟨[], rfl⟩

theorem changeTrack_hump (x : Nat) (f : TrackEntry → TrackEntry) : HumpFrame s (changeTrack x f s) := by
  unfold changeTrack latchIf
  dsimp only
  split <;> exact ⟨[], rfl⟩

theorem changeSection_hump (x : Nat) (f : SectionEntry → SectionEntry) : HumpFrame s (changeSection x f s) := ⟨[], rfl⟩

theorem setClaims_hump (p : Nat) (l : List Claim) : HumpFrame s (setClaims p l s) := ⟨[], rfl⟩

theorem leaveTree_hump : HumpFrame s (leaveTree s) := ⟨[], rfl⟩

theorem changeRecord_hump (n : Nat) (f : Record → Record) : HumpFrame s (changeRecord n f s) := (changeRecord_watch s n f).hump

theorem changeRecords_hump (l : List Nat) (f : Record → Record) : HumpFrame s (changeRecords l f s) :=
  HumpFrame.foldl _ (fun s n => changeRecord_hump s n f) l s

theorem addMark_hump (m : Mark) (n : Nat) : HumpFrame s (addMark m n s) := changeRecord_hump s n _

theorem addMarkIf_hump (b : Bool) (m : Mark) (n : Nat) : HumpFrame s (addMarkIf b m n s) := by
  cases b
  · exact .refl s
  · exact addMark_hump s m n

theorem addDiversion_hump (p : Nat) (w : DivertReason) (n : Nat) : HumpFrame s (addDiversion p w n s) := changeRecord_hump s n _

theorem addMisroute_hump (p : Nat) (w : DivertReason) (n : Nat) : HumpFrame s (addMisroute p w n s) :=
  (addMark_hump s .misroute n).trans (addDiversion_hump _ p w n)

/-! ### Tracks -/

theorem commitLength_hump (x len : Nat) : HumpFrame s (commitLength x len s) := changeTrack_hump s x _

theorem releaseFrom_hump (x : Option Nat) (len : Nat) : HumpFrame s (releaseFrom x len s) := by
  cases x with
  | none => exact .refl s
  | some x => exact changeTrack_hump s x (fun e => { e with committed := e.committed - len })

theorem settleLength_hump (a : Option Nat) (x len : Nat) : HumpFrame s (settleLength a x len s) := by
  unfold settleLength
  split
  · exact changeTrack_hump s _ _
  · exact (releaseFrom_hump s a len).trans (changeTrack_hump _ _ _)

theorem setAssignment_hump (n : Nat) (a : Assignment) : HumpFrame s (setAssignment n a s) := changeRecords_hump s _ _

theorem assignTrack_hump (n x : Nat) (w : AssignReason) : HumpFrame s (assignTrack n x w s) :=
  ((setAssignment_hump s n _).trans (commitLength_hump _ _ _)).trans (addMarkIf_hump _ _ _ _)

theorem releaseAssignment_hump (n x : Nat) : HumpFrame s (releaseAssignment n x s) := assignTrack_hump s n _ _

theorem reassign_hump (n x : Nat) (w : AssignReason) : HumpFrame s (reassign n x w s) := by
  unfold reassign
  split
  · exact setAssignment_hump s n _
  · exact (((setAssignment_hump s n _).trans (releaseFrom_hump _ _ _)).trans (commitLength_hump _ _ _)).trans (addMarkIf_hump _ _ _ _)

/-! ### Claims, throws and watches -/

theorem withdrawAt_hump (l : List Nat) (n : Nat) : HumpFrame s (withdrawAt l n s) := HumpFrame.foldl _ (fun s _ => setClaims_hump s _ _) l s

theorem withdrawAll_hump (n : Nat) : HumpFrame s (withdrawAll n s) := withdrawAt_hump s _ n

theorem rewriteClaim_hump (p n : Nat) (f : Claim → Claim) : HumpFrame s (rewriteClaim p n f s) := setClaims_hump s _ _

theorem claimOnRoute_hump (n : Nat) (r : Record) (pb : Nat × Position) : HumpFrame s (claimOnRoute n r s pb) := by
  unfold claimOnRoute
  split
  · exact rewriteClaim_hump s _ _ _
  · split
    · exact setClaims_hump s _ _
    · exact .refl s

theorem redoClaims_hump (n : Nat) : HumpFrame s (redoClaims n s) := by
  unfold redoClaims
  split
  · exact .refl s
  · split
    · exact .refl s
    · exact ((withdrawAt_hump s _ n).trans (changeRecord_hump _ n _)).trans (HumpFrame.foldl _ (fun s pb => claimOnRoute_hump s n _ pb) _ _)

theorem throwDecision_watch (p : Nat) : WatchFrame s (throwDecision p s) := by
  unfold throwDecision
  split
  · exact changePoint_watch s p _
  · exact .refl s

/-- A timer set to an instant already come puts its expiry in front of the queue, and touches nothing else (R103). -/
theorem expireAtOnce_eq (n : Nat) :
    expireAtOnce n s = s ∨ expireAtOnce n s = { s with pending := .lastMomentExpiry n :: s.pending } := by
  unfold expireAtOnce
  split
  · exact .inl rfl
  · split
    · exact .inr rfl
    · exact .inl rfl

theorem expireAtOnce_watch (n : Nat) : WatchFrame s (expireAtOnce n s) := by
  rcases expireAtOnce_eq s n with h | h
  · rw [h]
    exact .refl s
  · rw [h]
    exact ⟨[n], rfl⟩

theorem chooseWatch_watch (n : Nat) : WatchFrame s (chooseWatch n s) := by
  unfold chooseWatch
  split
  · exact .refl s
  · split
    · exact (changeRecord_watch s n _).trans (expireAtOnce_watch _ n)
    · exact .refl s

/-- The end of a change touches records, points and flags, and the front of the queue, only. -/
theorem followUp_watch (old : State) (ps cs : List Nat) : WatchFrame s (followUp old ps cs s) :=
  (WatchFrame.foldl _ (fun s p => throwDecision_watch s p) _ _).trans (WatchFrame.foldl _ (fun s n => chooseWatch_watch s n) _ _)

theorem followCut_watch (old : State) (n : Nat) : WatchFrame s (followCut old n s) := followUp_watch s old _ _

theorem followUp_hump (old : State) (ps cs : List Nat) : HumpFrame s (followUp old ps cs s) := (followUp_watch s old ps cs).hump

theorem followCut_hump (old : State) (n : Nat) : HumpFrame s (followCut old n s) := (followCut_watch s old n).hump

theorem replan_hump (n p : Nat) (b : Position) : HumpFrame s (replan n p b s) := by
  unfold replan
  split
  · exact redoClaims_hump s n
  · exact (reassign_hump s n _ _).trans (redoClaims_hump _ n)

theorem noteDiversion_hump (n p : Nat) : HumpFrame s (noteDiversion n p s) :=
  (addDiversion_hump s p _ n).trans (latch_watch _ _).hump

theorem divertTo_hump (n p : Nat) (x : Position) : HumpFrame s (divertTo n p x s) :=
  ((noteDiversion_hump s n p).trans (rewriteClaim_hump _ p n _)).trans (replan_hump _ n p x)

theorem divertUnknown_hump (n p : Nat) : HumpFrame s (divertUnknown n p s) :=
  (((noteDiversion_hump s n p).trans (rewriteClaim_hump _ p n _)).trans (withdrawAt_hump _ _ n)).trans (changeRecord_hump _ n _)

/-- A last-moment expiry. -/
theorem lastMomentExpires_hump (n : Nat) (r : Record) : HumpFrame s (lastMomentExpires n r s) := by
  unfold lastMomentExpires
  split
  · exact ((assignTrack_hump s n _ _).trans (redoClaims_hump _ n)).trans (followCut_hump _ s n)
  · unfold expireAt
    split
    · exact followUp_hump s s _ _
    · split
      · split
        · exact (rewriteClaim_hump s _ n _).trans (followUp_hump _ s _ _)
        · exact (divertTo_hump s n _ _).trans (followCut_hump _ s n)
      · exact (divertUnknown_hump s n _).trans (followUp_hump _ s _ _)
  · exact followUp_hump s s _ _

/-! ### Following cuts -/

theorem leaveSections_hump (l : List Nat) (n : Nat) : HumpFrame s (leaveSections l n s) :=
  HumpFrame.foldl _ (fun s _ => changeSection_hump s _ _) l s

theorem enterSection_hump (x n : Nat) : HumpFrame s (enterSection x n s) := changeSection_hump s _ _

theorem loseCut_hump (w : LostReason) (n : Nat) : HumpFrame s (loseCut w n s) := by
  unfold loseCut
  split
  · exact (((((changeRecord_hump s n _).trans (leaveTree_hump _)).trans (latch_watch _ _).hump).trans (changeRecords_hump _ _ _)).trans
      (withdrawAll_hump _ n)).trans ((leaveSections_hump _ _ n).trans (releaseFrom_hump _ _ _))
  · exact .refl s

theorem loseCuts_hump (w : LostReason) (l : List Nat) : HumpFrame s (loseCuts w l s) := HumpFrame.foldl _ (fun s n => loseCut_hump s w n) l s

theorem settleCut_hump (p x n : Nat) : HumpFrame s (settleCut p x n s) := by
  unfold settleCut
  refine HumpFrame.ite ?_ (.refl s)
  exact (HumpFrame.ite (addMisroute_hump s p _ n) (.refl s)).trans
    (((((changeRecord_hump _ n _).trans (leaveTree_hump _)).trans (changeRecords_hump _ _ _)).trans (withdrawAll_hump _ n)).trans
      ((leaveSections_hump _ _ n).trans (settleLength_hump _ _ _ _)))

theorem checkBranch_hump (n u x : Nat) : HumpFrame s (checkBranch n u x s) := by
  unfold checkBranch
  split
  · exact .refl s
  · split
    · exact .refl s
    · have noted : ∀ (c : Prop) [Decidable c] (p : Nat) (w : DivertReason), HumpFrame s (if c then addMisroute p w n s else s) :=
        fun _ _ p w => HumpFrame.ite (addMisroute_hump s p w n) (.refl s)
      exact HumpFrame.ite ((noted _ _ _).trans (replan_hump _ n _ _)) (noted _ _ _)

theorem endHold_hump (x : Nat) : HumpFrame s (endHold x s) := changeSection_hump s _ _

theorem creditHead_hump (n x : Nat) (held : Bool) (r : Record) : HumpFrame s (creditHead n x held r s) :=
  (((enterSection_hump s x n).trans (leaveSections_hump _ _ n)).trans (changeRecord_hump _ n _)).trans (addMarkIf_hump _ _ _ n)

theorem creditEntry_hump (n x : Nat) : HumpFrame s (creditEntry n x s) := by
  unfold creditEntry
  split
  · exact .refl s
  · split
    · exact (creditHead_hump s n x _ _).trans (endHold_hump _ x)
    · exact (((creditHead_hump s n x _ _).trans (endHold_hump _ x)).trans (checkBranch_hump _ n _ x)).trans (withdrawAt_hump _ _ n)

theorem becomeSet_watch (p : Nat) : WatchFrame s (becomeSet p s) := changePoint_watch s p _

theorem becomeFault_watch (p : Nat) : WatchFrame s (becomeFault p s) := (changePoint_watch s p _).trans (latch_watch _ _)

theorem startSettle_watch (p : Nat) (x : Position) : WatchFrame s (startSettle p x s) := by
  unfold startSettle
  split
  · exact becomeSet_watch s p
  · exact changePoint_watch s p _

theorem tellDrivers_hump (x : Nat) (e : Option Nat) : HumpFrame s (tellDrivers x e s) := by
  unfold tellDrivers
  split
  · unfold wheelsOnPoint
    split
    · cases e
      · exact ((changePoint_watch s _ _).trans (latch_watch _ _)).hump
      · exact ((changePoint_watch s _ _).trans (latch_watch _ _)).hump.trans (addMark_hump _ _ _)
    · cases e
      · exact (becomeSet_watch s _).hump
      · exact (becomeSet_watch s _).hump.trans (addMark_hump _ _ _)
    · exact .refl s
    · exact .refl s
    · exact .refl s
  · exact .refl s

theorem unexplainedEntry_hump (x : Nat) : HumpFrame s (unexplainedEntry x s) := by
  unfold unexplainedEntry
  split
  · exact endHold_hump s x
  · exact (changeSection_hump s x _).trans (latch_watch _ _).hump

/-- A section has become occupied. -/
theorem sectionEntered_hump (old : State) (x : Nat) : HumpFrame s (sectionEntered old x s) := by
  unfold sectionEntered
  split
  · exact ((unexplainedEntry_hump s x).trans (tellDrivers_hump _ x _)).trans (followUp_hump _ old _ _)
  · split
    · exact (((loseCut_hump s _ _).trans (endHold_hump _ x)).trans (tellDrivers_hump _ x _)).trans (followUp_hump _ old _ _)
    · exact ((creditEntry_hump s _ x).trans (tellDrivers_hump _ x _)).trans (followCut_hump _ old _)

theorem drawOut_hump (u n : Nat) : HumpFrame s (drawOut u s n) :=
  ((leaveSections_hump s _ n).trans (changeRecord_hump _ n _)).trans (withdrawAt_hump _ _ n)

theorem closeUp_hump (u d n : Nat) : HumpFrame s (closeUp u d s n) := by
  unfold closeUp
  split
  · exact loseCut_hump s _ n
  · dsimp only
    have base : ∀ l : List Nat, ∀ f g, ∀ q : List Nat, HumpFrame s
        (withdrawAt q n (addMark .closedUp n (changeRecord n f (leaveSections l n (enterSection d g s))))) := fun l f g q =>
      ((((enterSection_hump s d g).trans (leaveSections_hump _ l n)).trans (changeRecord_hump _ n f)).trans (addMark_hump _ _ n)).trans
        (withdrawAt_hump _ q n)
    split
    · exact (base _ _ _ _).trans
        (HumpFrame.ite ((HumpFrame.ite (addMisroute_hump _ _ _ n) (.refl _)).trans (replan_hump _ n _ _))
          (HumpFrame.ite (addMisroute_hump _ _ _ n) (.refl _)))
    · exact base _ _ _ _

theorem dealWithHeld_hump (u : Nat) (l : List Nat) : HumpFrame s (dealWithHeld u l s) := by
  unfold dealWithHeld
  split
  · split
    · exact HumpFrame.foldl _ (fun s n => closeUp_hump s u _ n) l s
    · exact changeSection_hump s u _
  · exact HumpFrame.foldl _ (fun s n => settleCut_hump s _ _ n) l s
  · split
    · split
      · exact loseCuts_hump s _ l
      · exact changeSection_hump s u _
    · exact changeSection_hump s u _

/-- A section has become clear. -/
theorem sectionLeft_hump (old : State) (u : Nat) : HumpFrame s (sectionLeft old u s) := by
  unfold sectionLeft
  dsimp only
  refine HumpFrame.trans ?_ (followUp_hump _ old _ _)
  split
  · exact (changeSection_hump s u _).trans (HumpFrame.foldl _ (fun s n => drawOut_hump s u n) _ _)
  · exact ((changeSection_hump s u _).trans (HumpFrame.foldl _ (fun s n => drawOut_hump s u n) _ _)).trans (dealWithHeld_hump _ u _)

theorem provingExpires_hump (x : Nat) : HumpFrame s (provingExpires x s) :=
  (((loseCuts_hump s _ _).trans (changeSection_hump _ x _)).trans (latch_watch _ _).hump).trans (followUp_hump _ s _ _)

theorem addMarkIf_watch (b : Bool) (m : Mark) (n : Nat) : WatchFrame s (addMarkIf b m n s) := by
  cases b
  · exact .refl s
  · exact changeRecord_watch s n _

theorem stallPasses_watch (n : Nat) (r : Record) : WatchFrame s (stallPasses n r s) :=
  ((changeRecord_watch s n Record.stall).trans (addMarkIf_watch _ _ .foul n)).trans (latch_watch _ _)

theorem standPasses_watch (n : Nat) : WatchFrame s (standPasses n s) := changeRecord_watch s n _

end Sys2Proof.Machine
end

