-- ==== Sys2Proof/Laws/Table.lean ====
section
/-! SUPPORT. The laws of the keyed tables: a read after a write, and the canonical form that every operation keeps. -/

namespace Sys2Proof.Machine

variable {α : Type}

/-! ### Reads -/

theorem Table.read_insert_same (d v : α) (k : Nat) (t : Table α) (h : ∀ c ∈ t, c.1 ≠ k) : Table.read d (Table.insert k v t) k = v := by
  induction t with
  | nil => simp [Table.insert, Table.read]
  | cons c t ih =>
    obtain ⟨j, w⟩ := c
    have hj : j ≠ k := h (j, w) (by simp)
    unfold Table.insert
    split
    · simp [Table.read]
    · simp only [Table.read, if_neg hj]
      exact ih (fun c hc => h c (by simp [hc]))

theorem Table.read_insert_other (d v : α) {k x : Nat} (hx : x ≠ k) (t : Table α) :
    Table.read d (Table.insert k v t) x = Table.read d t x := by
  induction t with
  | nil => simp [Table.insert, Table.read, hx.symm]
  | cons c t ih =>
    obtain ⟨j, w⟩ := c
    unfold Table.insert
    split
    · simp [Table.read, hx.symm]
    · simp only [Table.read, ih]

theorem Table.read_others_same (d : α) (t : Table α) (k : Nat) : Table.read d (t.filter (fun c => c.1 != k)) k = d := by
  induction t with
  | nil => rfl
  | cons c t ih =>
    obtain ⟨j, w⟩ := c
    by_cases hj : j = k
    · simp [hj, ih]
    · simp [hj, Table.read, ih]

theorem Table.read_others_other (d : α) (t : Table α) {k x : Nat} (hx : x ≠ k) :
    Table.read d (t.filter (fun c => c.1 != k)) x = Table.read d t x := by
  induction t with
  | nil => rfl
  | cons c t ih =>
    obtain ⟨j, w⟩ := c
    by_cases hj : j = k
    · subst hj
      simp [ih, Table.read, hx.symm]
    · simp [hj, Table.read, ih]

/-- A number just written reads as what was written. -/
@[simp] theorem Table.read_write_same [DecidableEq α] (d : α) (t : Table α) (k : Nat) (v : α) :
    Table.read d (Table.write d t k v) k = v := by
  unfold Table.write
  by_cases hv : v = d
  · simp only [hv, if_true]
    exact Table.read_others_same d t k
  · simp only [hv, if_false]
    exact Table.read_insert_same d v k _ (by simp)

/-- A write leaves every other number alone. -/
theorem Table.read_write_other [DecidableEq α] (d : α) (t : Table α) {k x : Nat} (v : α) (hx : x ≠ k) :
    Table.read d (Table.write d t k v) x = Table.read d t x := by
  unfold Table.write
  by_cases hv : v = d
  · simp only [hv, if_true]
    exact Table.read_others_other d t hx
  · simp only [hv, if_false]
    rw [Table.read_insert_other d v hx, Table.read_others_other d t hx]

/-- What a read shows after a write. -/
theorem Table.read_write [DecidableEq α] (d : α) (t : Table α) (k : Nat) (v : α) (x : Nat) :
    Table.read d (Table.write d t k v) x = if x = k then v else Table.read d t x := by
  by_cases hx : x = k
  · subst hx; simp
  · simp [hx, Table.read_write_other d t v hx]

/-- What a read shows after every entry is changed; `f` keeps what an unlisted number reads as. -/
theorem Table.read_update [DecidableEq α] (d : α) (f : α → α) (hf : f d = d) (t : Table α) (hr : Table.rising t = true) (k : Nat) :
    Table.read d (Table.update d f t) k = f (Table.read d t k) := by
  induction t with
  | nil => simp [Table.update, Table.read, hf]
  | cons c t ih =>
    obtain ⟨j, w⟩ := c
    simp only [Table.rising, Bool.and_eq_true, List.all_eq_true, decide_eq_true_eq] at hr
    have ih := ih hr.2
    by_cases hw : f w = d
    · have step : Table.update d f ((j, w) :: t) = Table.update d f t := by simp [Table.update, hw]
      rw [step, ih]
      by_cases hj : j = k
      · subst hj
        have absent : ∀ u : Table α, (∀ e ∈ u, j < e.1) → Table.read d u j = d := by
          intro u hu
          induction u with
          | nil => rfl
          | cons e u ihu =>
            obtain ⟨i, z⟩ := e
            have := hu (i, z) (by simp)
            simp only [Table.read, if_neg (by omega : ¬ i = j)]
            exact ihu (fun e he => hu e (by simp [he]))
        simp [Table.read, absent t hr.1, hf, hw]
      · simp [Table.read, hj]
    · have step : Table.update d f ((j, w) :: t) = (j, f w) :: Table.update d f t := by simp [Table.update, hw]
      rw [step]
      by_cases hj : j = k
      · simp [Table.read, hj]
      · simp [Table.read, hj, ih]

/-! ### The canonical form -/

theorem Table.rising_filter (p : Nat × α → Bool) (t : Table α) (h : Table.rising t = true) : Table.rising (t.filter p) = true := by
  induction t with
  | nil => rfl
  | cons c t ih =>
    simp only [Table.rising, Bool.and_eq_true, List.all_eq_true, decide_eq_true_eq] at h
    by_cases hp : p c = true
    · simp only [List.filter_cons, hp, if_true, Table.rising, Bool.and_eq_true, List.all_eq_true, decide_eq_true_eq]
      exact ⟨fun e he => h.1 e (List.mem_of_mem_filter he), ih h.2⟩
    · simp only [List.filter_cons, hp]
      exact ih h.2

theorem Table.mem_insert {k : Nat} {v : α} {t : Table α} {c : Nat × α} (h : c ∈ Table.insert k v t) : c = (k, v) ∨ c ∈ t := by
  induction t with
  | nil => simpa [Table.insert] using h
  | cons e t ih =>
    obtain ⟨j, w⟩ := e
    unfold Table.insert at h
    split at h
    · simpa using h
    · rcases List.mem_cons.1 h with h | h
      · exact .inr (by simp [h])
      · rcases ih h with h | h
        · exact .inl h
        · exact .inr (by simp [h])

theorem Table.rising_insert (k : Nat) (v : α) (t : Table α) (h : Table.rising t = true) (hk : ∀ c ∈ t, c.1 ≠ k) :
    Table.rising (Table.insert k v t) = true := by
  induction t with
  | nil => simp [Table.insert, Table.rising]
  | cons e t ih =>
    obtain ⟨j, w⟩ := e
    simp only [Table.rising, Bool.and_eq_true, List.all_eq_true, decide_eq_true_eq] at h
    have hj : j ≠ k := hk (j, w) (by simp)
    unfold Table.insert
    split
    · simp only [Table.rising, Bool.and_eq_true, List.all_eq_true, decide_eq_true_eq]
      refine ⟨fun e he => ?_, h.1, h.2⟩
      rcases List.mem_cons.1 he with rfl | he
      · assumption
      · exact Nat.lt_trans ‹_› (h.1 e he)
    · simp only [Table.rising, Bool.and_eq_true, List.all_eq_true, decide_eq_true_eq]
      refine ⟨fun e he => ?_, ih h.2 (fun c hc => hk c (by simp [hc]))⟩
      rcases Table.mem_insert he with rfl | he
      · show j < k
        omega
      · exact h.1 e he

/-- A write keeps the canonical form. -/
theorem Table.write_wf [DecidableEq α] (d : α) (t : Table α) (k : Nat) (v : α) (h : Table.wf d t = true) :
    Table.wf d (Table.write d t k v) = true := by
  simp only [Table.wf, Bool.and_eq_true, List.all_eq_true, bne_iff_ne] at h ⊢
  have hr := Table.rising_filter (fun c => c.1 != k) t h.1
  unfold Table.write
  by_cases hv : v = d
  · simp only [hv, if_true]
    exact ⟨hr, fun c hc => h.2 c (List.mem_of_mem_filter hc)⟩
  · simp only [hv, if_false]
    refine ⟨Table.rising_insert k v _ hr (by simp), fun c hc => ?_⟩
    rcases Table.mem_insert hc with rfl | hc
    · exact hv
    · exact h.2 c (List.mem_of_mem_filter hc)

theorem Table.rising_map (f : α → α) (t : Table α) : Table.rising (t.map (fun c => (c.1, f c.2))) = Table.rising t := by
  induction t with
  | nil => rfl
  | cons c t ih => simp [Table.rising, ih, List.all_map, Function.comp_def]

/-- A change of every entry keeps the canonical form. -/
theorem Table.update_wf [DecidableEq α] (d : α) (f : α → α) (t : Table α) (h : Table.wf d t = true) :
    Table.wf d (Table.update d f t) = true := by
  simp only [Table.wf, Bool.and_eq_true, List.all_eq_true, bne_iff_ne] at h ⊢
  unfold Table.update
  refine ⟨Table.rising_filter _ _ (by rw [Table.rising_map]; exact h.1), fun c hc => ?_⟩
  have := List.of_mem_filter hc
  simpa using this

/-! ### Layout images -/

/-- Writing some bytes keeps an image canonical. -/
theorem Image.writeBytes_wf (m : Image) (a : Nat) (l : List Byte) (h : Table.wf 0#8 m = true) :
    Table.wf 0#8 (Image.writeBytes m a l) = true := by
  induction l generalizing m a with
  | nil => exact h
  | cons b l ih => exact ih _ _ (Table.write_wf 0#8 m a b h)

/-- What a byte of an image reads as after some bytes are written. -/
theorem Image.byte_writeBytes (m : Image) (a : Nat) (l : List Byte) (x : Nat) :
    Image.byte (Image.writeBytes m a l) x = if a ≤ x then (l[x - a]?).getD (Image.byte m x) else Image.byte m x := by
  induction l generalizing m a with
  | nil => simp [Image.writeBytes]
  | cons b l ih =>
    rw [Image.writeBytes, ih]
    simp only [Image.byte, Table.read_write]
    by_cases h1 : a + 1 ≤ x
    · have h2 : a ≤ x := by omega
      have h3 : x - a = (x - (a + 1)) + 1 := by omega
      have h4 : ¬ x = a := by omega
      simp only [h1, h2, h3, h4, if_true, if_false, List.getElem?_cons_succ]
    · by_cases h2 : x = a
      · subst h2; simp
      · have h3 : ¬ a ≤ x := by omega
        simp only [h1, h2, h3, if_false]

@[simp] theorem Image.length_readBytes (m : Image) (a n : Nat) : (Image.readBytes m a n).length = n := by simp [Image.readBytes]

end Sys2Proof.Machine
end

