-- ==== Sys2Proof/Laws/Arbiter.lean ====
section
/-! SUPPORT. What the arbiter's shared operations give, in the terms of Safety.lean: where an item is put by release sequence, when a point is lined,
what a throw decision does at its point, and what a watched record shows. -/

namespace Sys2Proof.Machine

variable (s : State)

theorem State.earlier_iff (n m : Nat) : s.earlier n m = true ↔ s.ReleasedBefore n m := by
  simp [State.earlier, State.ReleasedBefore, eq_comm (a := s.age m)]

/-- A cut is put in a list at its place by release sequence (R82). -/
theorem insertCut_placed (n : Nat) (l : List Nat) : s.Placed id n l (insertCut s n l) := by
  induction l with
  | nil => exact ⟨[], [], rfl, rfl, by simp, by simp⟩
  | cons m l ih =>
    by_cases h : s.earlier n m = true
    · exact ⟨[], m :: l, rfl, by simp [insertCut, h], by simp, fun b hb => by simp at hb; subst hb; exact (s.earlier_iff n m).mp h⟩
    · obtain ⟨front, back, hl, hi, hf, hb⟩ := ih
      refine ⟨m :: front, back, by simp [hl], by simp [insertCut, h, hi], fun b hm => ?_, hb⟩
      rcases List.mem_cons.mp hm with rfl | hm
      · exact fun hr => h ((s.earlier_iff n b).mpr hr)
      · exact hf b hm

/-- A claim is put in a queue at its place by release sequence (R114). -/
theorem insertClaim_placed (c : Claim) (l : List Claim) : s.Placed Claim.cut c l (insertClaim s c l) := by
  induction l with
  | nil => exact ⟨[], [], rfl, rfl, by simp, by simp⟩
  | cons d l ih =>
    by_cases h : s.earlier c.cut d.cut = true
    · exact ⟨[], d :: l, rfl, by simp [insertClaim, h], by simp, fun b hb => by simp at hb; subst hb; exact (s.earlier_iff _ _).mp h⟩
    · obtain ⟨front, back, hl, hi, hf, hb⟩ := ih
      refine ⟨d :: front, back, by simp [hl], by simp [insertClaim, h, hi], fun b hm => ?_, hb⟩
      rcases List.mem_cons.mp hm with rfl | hm
      · exact fun hr => h ((s.earlier_iff _ _).mpr hr)
      · exact hf b hm

/-- The watch fields of a record that has been set to a watch point, or to none (R109, R122). -/
theorem Record.watching_at (w : Option Nat) (r : Record) :
    (Record.watching s w r).watch = w
      ∧ (Record.watching s w r).lastMoment = w.map (s.lastMomentAt r)
      ∧ (Record.watching s w r).timer = (match w with
          | some p => .running (later (s.lastMomentAt r p) 1)
          | none => .stopped) := by
  cases w <;> exact ⟨rfl, rfl, rfl⟩

/-- A throw decision is wanted exactly where the head claim asks for the throw (R120). -/
theorem throwWanted_iff (p : Nat) (x : Position) :
    throwWanted p s = some x ↔
      ∃ c rest r, s.claimsAt p = c :: rest ∧ s.record c.cut = some r ∧ s.ThrowAsked p c r ∧ c.position = x := by
  unfold throwWanted
  cases hc : s.claimsAt p with
  | nil => simp
  | cons c rest =>
    cases hr : s.record c.cut with
    | none => simp [hr]
    | some r =>
      have hk : ((s.supervised && s.detected p != .at c.position && (s.point p).state == .atRest && (s.point p).mode == .auto
          && pointUsed s.layout p && !s.locked p && !after s.clock (s.lastMomentAt r p)) = true) ↔ s.ThrowAsked p c r := by
        simp only [State.ThrowAsked, State.supervised, State.locked, Bool.and_eq_true, bne_iff_ne, beq_iff_eq, Bool.not_eq_true',
          Bool.and_eq_false_iff, bne_eq_false_iff_eq]
        constructor
        · rintro ⟨⟨⟨⟨⟨⟨h1, h2⟩, h3⟩, h4⟩, h5⟩, h6⟩, h7⟩
          exact ⟨h1, h5, h2, h3, h4, h6.resolve_left (by simp [h5]), h7⟩
        · rintro ⟨h1, h5, h2, h3, h4, h6, h7⟩
          exact ⟨⟨⟨⟨⟨⟨h1, h2⟩, h3⟩, h4⟩, h5⟩, .inr h6⟩, h7⟩
      by_cases ha : s.ThrowAsked p c r
      · simp only [hr]
        rw [if_pos (hk.mpr ha)]
        constructor
        · intro h; exact ⟨c, rest, r, rfl, hr, ha, Option.some.inj h⟩
        · rintro ⟨c', rest', r', h1, h2, -, rfl⟩; cases h1; rfl
      · simp only [hr]
        rw [if_neg (fun h => ha (hk.mp h))]
        constructor
        · intro h; cases h
        · rintro ⟨c', rest', r', h1, h2, h3, -⟩; cases h1; rw [hr] at h2; cases h2; exact absurd h3 ha

/-- What a throw decision leaves at its point (R120, R136). -/
theorem throwDecision_decided (p : Nat) : s.Decided p ((throwDecision p s).point p) := by
  constructor
  · intro c rest r hc hr ha
    have hw : throwWanted p s = some c.position := (throwWanted_iff s p _).mpr ⟨c, rest, r, hc, hr, ha, rfl⟩
    simp [throwDecision, hw, startThrow, changePoint, State.point, State.thrownEntry]
  · intro hn
    have hw : throwWanted p s = none := by
      cases h : throwWanted p s with
      | none => rfl
      | some x =>
        obtain ⟨c, rest, r, hc, hr, ha, -⟩ := (throwWanted_iff s p x).mp h
        exact absurd ha (hn c rest r hc hr)
    simp [throwDecision, hw]

/-- A point is lined for a cut exactly where the four parts of R119 hold. -/
theorem State.lined_iff (p n : Nat) : s.lined p n = true ↔ s.LinedFor p n := by
  have key : ∀ l : List Claim, ∀ c, l.find? (fun c => c.cut == n) = some c →
      ∃ behind, l = l.takeWhile (fun c => c.cut != n) ++ c :: behind ∧ c.cut = n := by
    intro l
    induction l with
    | nil => intro c h; cases h
    | cons d l ih =>
      intro c h
      by_cases hd : d.cut = n
      · have : d = c := by simpa [List.find?, hd] using h
        subst this
        exact ⟨l, by simp [List.takeWhile, hd], hd⟩
      · obtain ⟨behind, hl, hc⟩ := ih c (by rwa [List.find?_cons_of_neg (by simpa using hd)] at h)
        refine ⟨behind, ?_, hc⟩
        have hw : List.takeWhile (fun c => c.cut != n) (d :: l) = d :: List.takeWhile (fun c => c.cut != n) l := by
          rw [List.takeWhile_cons_of_pos (by simpa using hd)]
        rw [hw, List.cons_append, ← hl]
  have split : ∀ (ahead : List Claim) (c : Claim) (behind : List Claim), (∀ d ∈ ahead, d.cut ≠ n) → c.cut = n →
      (ahead ++ c :: behind).find? (fun c => c.cut == n) = some c
        ∧ (ahead ++ c :: behind).takeWhile (fun c => c.cut != n) = ahead := by
    intro ahead c behind
    induction ahead with
    | nil => intro _ hc; exact ⟨by simp [hc], by simp [hc]⟩
    | cons d l ih =>
      intro h hc
      have hd : d.cut ≠ n := h d (by simp)
      obtain ⟨h1, h2⟩ := ih (fun e he => h e (by simp [he])) hc
      exact ⟨by rw [List.cons_append, List.find?_cons_of_neg (by simpa using hd)]; exact h1,
        by rw [List.cons_append, List.takeWhile_cons_of_pos (by simpa using hd), h2]⟩
  unfold State.lined State.claimOf State.claimsAhead
  constructor
  · intro h
    cases hf : (s.claimsAt p).find? (fun c => c.cut == n) with
    | none => simp [hf] at h
    | some c =>
      obtain ⟨behind, hl, hc⟩ := key _ c hf
      simp only [hf, Bool.and_eq_true, beq_iff_eq, List.all_eq_true] at h
      refine ⟨_, c, behind, hl, hc, fun d hd => ⟨?_, h.2 d hd⟩, h.1.1, h.1.2⟩
      simpa using List.mem_takeWhile_imp hd
  · rintro ⟨ahead, c, behind, hl, hc, ha, hs, hd⟩
    obtain ⟨h1, h2⟩ := split ahead c behind (fun d h => (ha d h).1) hc
    rw [hl, h1]
    simp only [h2, hs, hd, Bool.and_eq_true, beq_iff_eq, List.all_eq_true]
    exact ⟨⟨trivial, trivial⟩, fun d h => (ha d h).2⟩

end Sys2Proof.Machine
end

