-- ==== Sys2Proof/Laws/Link.lean ====
section
/-! SUPPORT. Everything that taking a complete good frame can do, case by case (R158, R162, R163); the receiver and its gap (R160); and
the end of a change. -/

namespace Sys2Proof.Machine

variable {α : Type} (s : State) (code : Byte) (owner : α → State → Owned)

/-- A request is in hand: the frame is held or discarded. -/
theorem takeRequest_held (body : Option α) (h : s.inHand.isSome = true) :
    takeRequest code body owner s = holdFrame code (hunt s) := by
  unfold takeRequest
  exact if_pos h

/-- The store is COMMITTING. -/
theorem takeRequest_busy (body : Option α) (h : s.inHand = none) (hc : s.commit.isSome = true) (hs : code ≠ statusCode) :
    takeRequest code body owner s = answering code [replyByte .busy] (hunt s) := by
  simp [takeRequest, h, hc, hs, hunt]

/-- The body does not parse. -/
theorem takeRequest_badFormat (h : s.inHand = none) (hc : s.commit = none) :
    takeRequest code (none : Option α) owner s = answering code [replyByte .badFormat] (hunt s) := by
  simp [takeRequest, h, hc, hunt]

/-- The owner takes the request. -/
theorem takeRequest_taken (q : α) (h : s.inHand = none) (hc : s.commit = none) :
    takeRequest code (some q) owner s = answering code (owner q (hunt s)).2 (owner q (hunt s)).1 := by
  simp [takeRequest, h, hc, hunt]

/-- STATUS is taken while the store is COMMITTING too. -/
theorem takeRequest_status (q : α) (h : s.inHand = none) :
    takeRequest statusCode (some q) owner s = answering statusCode (owner q (hunt s)).2 (owner q (hunt s)).1 := by
  simp [takeRequest, h, hunt]

/-! ### The receiver (R160) -/

theorem gapPassed_hunting (h : s.receiver = .hunting) : s.gapPassed = false := by
  unfold State.gapPassed
  rw [h]

theorem gapPassed_collecting (bytes : List Byte) (a : Instant) (h : s.receiver = .collecting bytes a) :
    s.gapPassed = decide (Config.byteGap < (s.clock - a).toNat) := by
  unfold State.gapPassed
  rw [h]

/-- No gap has passed since a byte that has come now. -/
@[simp] theorem gapPassed_collect (bytes : List Byte) : (collect bytes s).gapPassed = false := by
  simp [gapPassed_collecting (collect bytes s) bytes s.clock rfl]

/-- The byte that ends a gap is taken by the hunting receiver. -/
theorem byteArrives_late (b : Byte) (h : s.gapPassed = true) : byteArrives b s = receiveByte b (hunt s) := by
  simp [byteArrives, h]

/-- A byte in time is taken by the receiver as it stands. -/
theorem byteArrives_inTime (b : Byte) (h : s.gapPassed = false) : byteArrives b s = receiveByte b s := by
  simp [byteArrives, h]

/-- The hunting receiver starts a frame on A5h and discards every other byte. -/
theorem receiveByte_hunting (b : Byte) (h : s.receiver = .hunting) :
    receiveByte b s = if b = 0xA5#8 then collect [b] s else s := by
  unfold receiveByte
  rw [h]

/-- The length byte. -/
theorem receiveByte_length (b start : Byte) (a : Instant) (h : s.receiver = .collecting [start] a) :
    receiveByte b s = if b = 0#8 ∨ 250 < b.toNat then hunt s else collect [start, b] s := by
  unfold receiveByte
  rw [h]

/-- A byte past the length: the frame grows by it, or is complete with it. -/
theorem receiveByte_later (b start len : Byte) (rest : List Byte) (a : Instant) (h : s.receiver = .collecting (start :: len :: rest) a) :
    receiveByte b s
      = if (start :: len :: rest ++ [b]).length < len.toNat + 4 then collect (start :: len :: rest ++ [b]) s
        else completeFrame (start :: len :: rest ++ [b]) s := by
  unfold receiveByte
  rw [h]

/-- A complete frame as the line carries one is served. -/
theorem completeFrame_good (code : Byte) (body : List Byte) (h : body.length ≤ 249) :
    completeFrame (frameBytes code body) s = serveFrame code body (hunt s) := by
  have hl : (BitVec.ofNat 8 (body.length + 1)).toNat - 1 = body.length := by simp; omega
  simp only [frameBytes, completeFrame, List.cons_append, hl, List.take_left, List.drop_left, if_true]

/-- The end of a change leaves outputs that agree with the state. -/
theorem finish_reckoned : OutputsReckoned (finish s) := ⟨rfl, rfl⟩

/-- A state whose outputs agree is its own end of change. -/
theorem finish_eq_self (h : OutputsReckoned s) : finish s = s := by
  obtain ⟨h1, h2⟩ := h
  show { s with humpPermit := permitCondition s, attentionLine := attentionCondition s } = s
  rw [← h1, ← h2]

theorem ready_hunt (h : Ready s) : Ready (hunt s) := h

end Sys2Proof.Machine
end

