-- ==== Sys2Proof/Laws/PerInstr.lean ====
section
/-! SUPPORT. The family BodyFits: a well-formed request is a frame of R160's shape, with a code of R164's table. -/

namespace Sys2Proof.Laws

open Sys2Proof Sys2Proof.Machine

/-- A well-formed request has a code of R164, and its code and body fit the length byte of a frame (R160). -/
def BodyFits.Statement (i : Instr) : Prop :=
  i.wf = true → ∀ code body, requestFrame i = some (code, body) →
    code ∈ requestCodes ∧ body.length ≤ 249 ∧ (frameBytes code body).length = body.length + 5

/-- The shape of a request whose body fits. -/
theorem bodyFits_of_request {i : Instr} {c : Byte} {b : List Byte} (hf : requestFrame i = some (c, b)) (hc : c ∈ requestCodes)
    (hw : i.wf = true → bodyFits b = true) : BodyFits.Statement i := by
  intro h code body he
  obtain ⟨rfl, rfl⟩ : c = code ∧ b = body := by simpa using hf.symm.trans he
  exact ⟨hc, by simpa [bodyFits] using hw h, by simp [frameBytes, byte2]⟩

/-- A command that is no request. -/
theorem bodyFits_of_none {i : Instr} (hf : requestFrame i = none) : BodyFits.Statement i := by
  intro _ code body he
  simp [hf] at he

theorem BodyFits.enter (body : List Byte) : BodyFits.Statement (.enter body) := bodyFits_of_request rfl (by decide) id
theorem BodyFits.amend (body : List Byte) : BodyFits.Statement (.amend body) := bodyFits_of_request rfl (by decide) id
theorem BodyFits.withdraw (body : List Byte) : BodyFits.Statement (.withdraw body) := bodyFits_of_request rfl (by decide) id
theorem BodyFits.query (body : List Byte) : BodyFits.Statement (.query body) := bodyFits_of_request rfl (by decide) id
theorem BodyFits.list (body : List Byte) : BodyFits.Statement (.list body) := bodyFits_of_request rfl (by decide) id
theorem BodyFits.collect (body : List Byte) : BodyFits.Statement (.collect body) := bodyFits_of_request rfl (by decide) id
theorem BodyFits.abandon (body : List Byte) : BodyFits.Statement (.abandon body) := bodyFits_of_request rfl (by decide) id
theorem BodyFits.trackSet (body : List Byte) : BodyFits.Statement (.trackSet body) := bodyFits_of_request rfl (by decide) id
theorem BodyFits.trackRead (body : List Byte) : BodyFits.Statement (.trackRead body) := bodyFits_of_request rfl (by decide) id
theorem BodyFits.sectionRead (body : List Byte) : BodyFits.Statement (.sectionRead body) := bodyFits_of_request rfl (by decide) id
theorem BodyFits.pointMode (body : List Byte) : BodyFits.Statement (.pointMode body) := bodyFits_of_request rfl (by decide) id
theorem BodyFits.pointThrow (body : List Byte) : BodyFits.Statement (.pointThrow body) := bodyFits_of_request rfl (by decide) id
theorem BodyFits.pointReset (body : List Byte) : BodyFits.Statement (.pointReset body) := bodyFits_of_request rfl (by decide) id
theorem BodyFits.pointRead (body : List Byte) : BodyFits.Statement (.pointRead body) := bodyFits_of_request rfl (by decide) id
theorem BodyFits.run (body : List Byte) : BodyFits.Statement (.run body) := bodyFits_of_request rfl (by decide) id
theorem BodyFits.warmReset (body : List Byte) : BodyFits.Statement (.warmReset body) := bodyFits_of_request rfl (by decide) id
theorem BodyFits.layoutLoad (body : List Byte) : BodyFits.Statement (.layoutLoad body) := bodyFits_of_request rfl (by decide) id
theorem BodyFits.layoutWrite (body : List Byte) : BodyFits.Statement (.layoutWrite body) := bodyFits_of_request rfl (by decide) id
theorem BodyFits.layoutCommit (body : List Byte) : BodyFits.Statement (.layoutCommit body) := bodyFits_of_request rfl (by decide) id
theorem BodyFits.layoutSelect (body : List Byte) : BodyFits.Statement (.layoutSelect body) := bodyFits_of_request rfl (by decide) id
theorem BodyFits.layoutRead (body : List Byte) : BodyFits.Statement (.layoutRead body) := bodyFits_of_request rfl (by decide) id
theorem BodyFits.status (body : List Byte) : BodyFits.Statement (.status body) := bodyFits_of_request rfl (by decide) id
theorem BodyFits.clearFlags (body : List Byte) : BodyFits.Statement (.clearFlags body) := bodyFits_of_request rfl (by decide) id
theorem BodyFits.enableFlags (body : List Byte) : BodyFits.Statement (.enableFlags body) := bodyFits_of_request rfl (by decide) id
theorem BodyFits.unknownCode (code : Byte) (body : List Byte) : BodyFits.Statement (.unknownCode code body) := bodyFits_of_none rfl
theorem BodyFits.frameBadCheck : BodyFits.Statement (.frameBadCheck) := bodyFits_of_none rfl
theorem BodyFits.interByteGap (next : Byte) : BodyFits.Statement (.interByteGap next) := bodyFits_of_none rfl
theorem BodyFits.requestHeld (code : Byte) (body : List Byte) : BodyFits.Statement (.requestHeld code body) := bodyFits_of_none rfl
theorem BodyFits.answerSent : BodyFits.Statement (.answerSent) := bodyFits_of_none rfl
theorem BodyFits.powerOn : BodyFits.Statement (.powerOn) := bodyFits_of_none rfl
theorem BodyFits.resetLine : BodyFits.Statement (.resetLine) := bodyFits_of_none rfl
theorem BodyFits.axlePulse : BodyFits.Statement (.axlePulse) := bodyFits_of_none rfl
theorem BodyFits.separation : BodyFits.Statement (.separation) := bodyFits_of_none rfl
theorem BodyFits.sectionOccupied (channel : Nat) : BodyFits.Statement (.sectionOccupied channel) := bodyFits_of_none rfl
theorem BodyFits.sectionClear (channel : Nat) : BodyFits.Statement (.sectionClear channel) := bodyFits_of_none rfl
theorem BodyFits.provingTimerExpiry (sec : Nat) : BodyFits.Statement (.provingTimerExpiry sec) := bodyFits_of_none rfl
theorem BodyFits.stallDeadlineExpiry (cut : Nat) : BodyFits.Statement (.stallDeadlineExpiry cut) := bodyFits_of_none rfl
theorem BodyFits.standTimerExpiry (cut : Nat) : BodyFits.Statement (.standTimerExpiry cut) := bodyFits_of_none rfl
theorem BodyFits.lastMomentExpiry (cut : Nat) : BodyFits.Statement (.lastMomentExpiry cut) := bodyFits_of_none rfl
theorem BodyFits.detectionChange (pair : Nat) (input : Position) (on : Bool) : BodyFits.Statement (.detectionChange pair input on) := bodyFits_of_none rfl
theorem BodyFits.throwLimitExpiry (point : Nat) : BodyFits.Statement (.throwLimitExpiry point) := bodyFits_of_none rfl
theorem BodyFits.settleTimerExpiry (point : Nat) : BodyFits.Statement (.settleTimerExpiry point) := bodyFits_of_none rfl
theorem BodyFits.idleTimerExpiry (point : Nat) : BodyFits.Statement (.idleTimerExpiry point) := bodyFits_of_none rfl
theorem BodyFits.commitComplete (readsBack : Bool) : BodyFits.Statement (.commitComplete readsBack) := bodyFits_of_none rfl
theorem BodyFits.commitTimerExpiry : BodyFits.Statement (.commitTimerExpiry) := bodyFits_of_none rfl
theorem BodyFits.startByte (byte : Byte) : BodyFits.Statement (.startByte byte) := bodyFits_of_none rfl
theorem BodyFits.badLengthByte (byte : Byte) : BodyFits.Statement (.badLengthByte byte) := bodyFits_of_none rfl
theorem BodyFits.badStopBit : BodyFits.Statement (.badStopBit) := bodyFits_of_none rfl

end Sys2Proof.Laws
end

