-- ==== Sys2Proof/Tests/Slice0.lean ====
section
/-! SUPPORT. The model's own tests: one step each, with the figures of 12_worked_sequences where it gives them, and for every statement with
hypotheses a state that meets them. -/

namespace Sys2Proof.Tests

open Sys2Proof Sys2Proof.Machine

set_option synthInstance.maxSize 2000
set_option synthInstance.maxHeartbeats 200000
set_option Elab.async false

/-! ### The example ladder (01_the_yard_layout, 12_worked_sequences) -/

def put (m : Image) (a : Nat) (l : List Nat) : Image := Image.writeBytes m a (l.map (BitVec.ofNat 8))
/-- A two-byte number of an image, high byte first. -/
def two (n : Nat) : List Nat := [n / 256, n % 256]
def body (l : List Nat) : List Byte := l.map (BitVec.ofNat 8)

def sections : Image :=
  [(1, 300, 1, 1, 2), (2, 150, 2, 2, 1), (3, 120, 3, 2, 2), (4, 120, 4, 2, 3), (5, 100, 5, 2, 4), (6, 100, 6, 2, 5)].foldl
    (fun m (x, len, c, k, y) => put m (sectionBase x) ([1] ++ two len ++ [c, k, y])) []

def points : Image :=
  [(1, [2, 1, 3, 3, 1, 4, 4], 900, 1600), (2, [3, 1, 5, 2, 2, 3, 0], 900, 1600), (3, [4, 2, 4, 0, 1, 6, 6], 900, 1600),
   (4, [5, 2, 1, 0, 2, 2, 0], 800, 1400), (5, [6, 2, 5, 0, 2, 6, 0], 800, 1400)].foldl
    (fun m (p, b, warm, cold) => put m (pointBase p) ([1] ++ b ++ two warm ++ two cold ++ [p, p])) []

def trackEntries : Image :=
  [(1, 6000, 200, 2), (2, 6000, 200, 1), (3, 5000, 200, 0), (4, 6500, 200, 5), (5, 6500, 200, 4), (6, 8000, 300, 0)].foldl
    (fun m (t, cap, near, alt) => put m (trackBase t) ([1] ++ two cap ++ two near ++ [alt])) []

/-- The settings of 12_worked_sequences, with the proving interval 3,000 ms and the unlisted length 500. -/
def settings : Image :=
  put (put [] settingsBase ([6] ++ two 400 ++ [10] ++ two 1200 ++ [8] ++ two 5000 ++ two 3000 ++ two 0 ++ two 100 ++ [1] ++ two 500 ++ two 200))
    leadBase [10, 15, 10, 10, 10, 10, 10, 20, 10, 25, 10, 10, 10, 10, 10, 10, 10, 10, 10, 10, 10, 10, 10, 10, 10, 10, 10, 10, 10, 10]

def ladder : Image := sections ++ points ++ trackEntries ++ settings

theorem test_ladder_passes_the_checks : imageCheck ladder = none ∧ Table.wf 0#8 ladder = true := by decide +kernel

theorem test_ladder_route_of_track_6 : (deriveTree ladder).route 6 = [(1, .reverse), (3, .reverse), (5, .reverse)] := by decide +kernel


/-! ### States of the worked sequence -/

/-- What a command leaves of the state, where it goes on. -/
def look {α : Type} (f : State → α) : Host.Outcome State Fault Refusal → Option α
  | .next s => some (f s)
  | .fault _ => none
  | .refused _ => none

/-- A listed PENDING cut of 140 dm and 4 axles, as ENTER creates it. -/
def cut (n track : Nat) : Record :=
  { number := n, state := .pending, origin := .listed, requested := some track, assigned := none, declaredLength := 140
    declaredAxles := some 4, measuredAxles := 0, releaseSeq := none, head := none, tail := none, headEntry := none, speed := none
    watch := none, lastMoment := none, stallDeadline := none, diversions := [], more := false, joined := none, marks := 0
    outcome := none, lostReason := none, unseen := true, timed := false, firstAxle := 0, standTimer := .stopped, timer := .stopped
    unplannedBelow := none }

/-- A cut in the tree, with its head and tail in one section. -/
def rolling (n track x seq : Nat) (entry : Instant) (speed : Nat) (deadline : Instant) : Record :=
  { cut n track with
    state := .rolling, assigned := some { track := track, reason := .requested }, measuredAxles := 4
    releaseSeq := some (BitVec.ofNat 16 seq), head := some x, tail := some x, headEntry := some entry, speed := some speed
    stallDeadline := some deadline, timed := true }

def claim (n : Nat) (x : Position) : Claim := { cut := n, position := x, spent := false }
def holding (l : List Nat) : SectionEntry := { SectionEntry.initial with occupants := l }
def openTrack (fill committed : Nat) : TrackEntry := { fill := fill, committed := committed, setting := .opened }
def setPoint : PointEntry := { PointEntry.initial with state := .atRest }
def north : DetectionPair := { normal := true, reverse := false }
def south : DetectionPair := { normal := false, reverse := true }

/-- The board in HALTED with the ladder active, points 1 to 4 detected NORMAL and point 5 REVERSE. -/
def halted : State :=
  { State.reset with
    active := some ladder, activeGeneration := some 1, working := ladder, clock := 500
    tracks := [(1, openTrack 1000 0), (4, openTrack 2000 0), (5, openTrack 0 0), (6, openTrack 2000 0)]
    detections := [(1, north), (2, north), (3, north), (4, north), (5, south)] }

/-- In RUNNING, every point SET, with no cut listed. -/
def empty : State :=
  finish { halted with
    runState := .running, tree := deriveTree ladder
    points := [(1, setPoint), (2, setPoint), (3, setPoint), (4, setPoint), (5, setPoint)] }

/-- At 1,000, with cuts A, B and C listed. -/
def listed : State :=
  finish { empty with clock := 1000, records := [cut 1001 1, cut 1002 6, cut 1003 4], queue := [1001, 1002, 1003] }

/-- At 8,000: A has its head in section 1 on its way to track 1, and B is the queue head. -/
def afterA : State :=
  finish { listed with
    clock := 8000, seqCounter := 1, inTree := 1, queue := [1002, 1003]
    records := [rolling 1001 1 1 0 6000 400 28500, cut 1002 6, cut 1003 4]
    tracks := [(1, openTrack 1000 150), (4, openTrack 2000 0), (5, openTrack 0 0), (6, openTrack 2000 0)]
    channels := [(1, true)], sections := [(1, holding [1001])]
    claims := [(1, [claim 1001 .normal]), (2, [claim 1001 .normal]), (4, [claim 1001 .normal])] }

/-- At 19,500: A is in section 5 alone, point 4 detected NORMAL. -/
def homeA : State :=
  finish { afterA with
    clock := 19500, records := [rolling 1001 1 5 0 17400 500 30000], queue := []
    channels := [(5, true)], sections := [(5, holding [1001])], claims := [(4, [claim 1001 .normal])] }

def stalledB : Record :=
  { rolling 1002 6 4 1 22000 500 29200 with state := .stalled, stallDeadline := none, timer := .suspended, standTimer := .running 2147505647 }
def lateC : Record :=
  { rolling 1003 4 2 2 27500 400 32500 with watch := some 3, lastMoment := some 30050, timer := .running 30051 }

/-- At 30,051: B stands STALLED in section 4, and C comes to it from section 2. -/
def caughtUp : State :=
  finish { empty with
    clock := 30051, seqCounter := 3, inTree := 2, records := [stalledB, lateC]
    tracks := [(1, openTrack 1150 0), (4, openTrack 2000 150), (5, openTrack 0 0), (6, openTrack 2000 150)]
    channels := [(2, true), (4, true)], sections := [(2, holding [1003]), (4, holding [1002])]
    detections := [(1, south), (2, north), (3, south), (4, north), (5, south)]
    claims := [(1, [claim 1003 .reverse]), (3, [claim 1002 .reverse, claim 1003 .normal]), (5, [claim 1002 .reverse])] }

/-- At 33,300: D is RELEASING with its four axles counted, and E is the queue head. -/
def together : State :=
  finish { empty with
    clock := 33300, seqCounter := 4, inTree := 1, queue := [1005, 1006], crest := .counting, crestCut := some 1004, target := some 1004
    separation := some 34100
    records :=
      [{ rolling 1004 5 1 3 0 400 0 with
          state := .releasing, head := none, tail := none, headEntry := none, stallDeadline := none, firstAxle := 32000, timed := false },
       cut 1005 2, cut 1006 2]
    tracks := [(1, openTrack 1150 0), (5, openTrack 0 150), (6, openTrack 2000 300)]
    claims := [(1, [claim 1004 .reverse]), (3, [claim 1004 .reverse]), (5, [claim 1004 .normal])] }

/-- A point being thrown from NORMAL to REVERSE. -/
def throwingPoint (limit : Instant) : PointEntry :=
  { setPoint with state := .throwing, target := some .reverse, drive := some .reverse, throwLimit := some limit }

/-- Point 3 of the empty yard in some state, with a detected position. -/
def withPoint3 (e : PointEntry) (d : DetectionPair) (clock : Instant) : State :=
  finish { empty with
    clock := clock, points := [(1, setPoint), (2, setPoint), (3, e), (4, setPoint), (5, setPoint)]
    detections := if d = DetectionPair.off then [(1, north), (2, north), (4, north), (5, south)]
      else [(1, north), (2, north), (3, d), (4, north), (5, south)] }

/-- The empty yard with one section's input, occupants and holds. -/
def withSection (x : Nat) (occupied : Bool) (e : SectionEntry) (rs : List Record) : State :=
  finish { empty with
    clock := 20000, seqCounter := 1, inTree := rs.length, records := rs, channels := if occupied then [(x, true)] else []
    sections := if e = SectionEntry.initial then [] else [(x, e)] }

/-! ### Which commands can arrive -/

theorem test_wf_refuses_a_body_of_250_bytes : (Instr.enter (List.replicate 250 0)).wf = false := by decide +kernel
theorem test_wf_refuses_a_known_code_as_unknown : (Instr.unknownCode 0x13#8 []).wf = false := by decide
theorem test_wf_refuses_channel_0_and_129 : (Instr.sectionOccupied 0).wf = false ∧ (Instr.sectionClear 129).wf = false := by decide
theorem test_wf_refuses_section_129 : (Instr.provingTimerExpiry 129).wf = false := by decide
theorem test_wf_refuses_cut_0 : (Instr.stallDeadlineExpiry 0).wf = false ∧ (Instr.lastMomentExpiry 65536).wf = false := by decide
theorem test_wf_refuses_pair_65 : (Instr.detectionChange 65 .normal true).wf = false := by decide
theorem test_wf_refuses_point_64 : (Instr.throwLimitExpiry 64).wf = false ∧ (Instr.idleTimerExpiry 0).wf = false := by decide
theorem test_wf_refuses_another_start_byte : (Instr.startByte 0x5A#8).wf = false := by decide
theorem test_wf_refuses_a_good_length_byte : (Instr.badLengthByte 250#8).wf = false := by decide
theorem test_wf_takes_the_bounds :
    (Instr.enter (List.replicate 249 0)).wf && (Instr.sectionOccupied 128).wf && (Instr.lastMomentExpiry 65535).wf
      && (Instr.detectionChange 64 .reverse false).wf && (Instr.idleTimerExpiry 63).wf && (Instr.badLengthByte 251#8).wf = true := by decide +kernel

/-- No row of the table gives bits. -/
theorem test_no_word_spells_a_command : decodeTableWord 8 0x10 = none := by decide

/-! ### The link -/

/-- R161. -/
theorem test_check_of_the_digits :
    crc [0x31#8, 0x32#8, 0x33#8, 0x34#8, 0x35#8, 0x36#8, 0x37#8, 0x38#8, 0x39#8] = 0x29B1#16 := by decide +kernel

theorem test_start_byte_starts_a_frame :
    look State.receiver (exec (.startByte 0xA5#8) State.reset) = some (.collecting [0xA5#8] 0) := by decide +kernel

theorem test_start_byte_other_is_discarded : look State.receiver (exec (.startByte 0x5A#8) State.reset) = some .hunting := by decide +kernel

theorem test_bad_length_drops_the_frame :
    look State.receiver (exec (.badLengthByte 251#8) { State.reset with receiver := .collecting [0xA5#8] 0 }) = some .hunting := by decide +kernel

/-- A receiver in a frame whose last byte came at 4294967290 ms, some ms before the clock's reading now (it has wrapped). -/
def partWay (now : Instant) : State := { State.reset with clock := now, receiver := .collecting [0xA5#8, 4#8, 0x13#8] 4294967290 }

/-- R160: 21 ms after the last byte. -/
theorem test_gap_drops_the_frame_and_the_next_byte_starts_one :
    look State.receiver (exec (.interByteGap 0xA5#8) (partWay 15)) = some (.collecting [0xA5#8] 15)
    ∧ look State.receiver (exec (.startByte 0x5A#8) (partWay 15)) = some .hunting := by decide +kernel

/-- R160: 20 ms after the last byte; A5h inside a frame is data. -/
theorem test_byte_in_time_is_taken_into_the_frame :
    look State.receiver (exec (.startByte 0xA5#8) (partWay 14)) = some (.collecting [0xA5#8, 4#8, 0x13#8, 0xA5#8] 14) := by decide +kernel

theorem test_bad_stop_bit : look State.receiver (exec .badStopBit { State.reset with receiver := .collecting [0xA5#8] 0 }) = some .hunting := by
  decide +kernel

theorem test_bad_check_is_not_answered :
    look (fun s => (s.receiver, s.inHand)) (exec .frameBadCheck { State.reset with receiver := .collecting [0xA5#8] 0 })
      = some (.hunting, none) := by decide +kernel

theorem test_unknown_code_is_bad_format :
    look State.inHand (exec (.unknownCode 0x7F#8 []) State.reset) = some (some { code := 0xFF#8, body := [1#8] }) := by decide +kernel

/-- R163: a request behind the one in hand is held, and answered BUSY when the first answer has gone. -/
theorem test_held_request_is_answered_busy :
    (look State.held (exec (.requestHeld 0x13#8 []) { State.reset with inHand := some { code := 0x90#8, body := [7#8] } }) = some (some 0x13#8))
    ∧ look (fun s => (s.inHand, s.held))
        (exec .answerSent { State.reset with inHand := some { code := 0x90#8, body := [7#8] }, held := some 0x13#8 })
      = some (some { code := 0x93#8, body := [0x0B#8] }, none) := by decide +kernel

theorem test_answer_sent_ends_the_request :
    look State.inHand (exec .answerSent { State.reset with inHand := some { code := 0x90#8, body := [7#8] } }) = some none := by decide +kernel

/-! ### Requests -/

theorem test_enter_lists_cut_d :
    look (fun s => (s.queue, s.inHand, (s.record 1004).map (fun r => (r.state, r.requested, r.declaredLength, r.declaredAxles))))
        (exec (.enter (body (two 1004 ++ [5] ++ two 140 ++ [4, 0] ++ two 0))) listed)
      = some ([1001, 1002, 1003, 1004], some { code := 0x90#8, body := body [0, 4, 44] }, some (.pending, some 5, 140, some 4)) := by
  decide +kernel

theorem test_enter_in_front_of_b :
    look State.queue (exec (.enter (body (two 1004 ++ [5] ++ two 140 ++ [4, 1] ++ two 1002))) listed) = some [1001, 1004, 1002, 1003] := by
  decide +kernel

theorem test_amend_axles_of_a_pending_cut :
    look (fun s => (s.record 1002).map (fun r => (r.requested, r.declaredLength, r.declaredAxles)))
        (exec (.amend (body (two 1002 ++ [4, 1] ++ two 99 ++ [6]))) listed) = some (some (some 6, 140, some 6)) := by decide +kernel

/-- R40: an in-tree cut cannot have its length amended. -/
theorem test_amend_length_of_an_in_tree_cut_is_refused :
    look (fun s => s.inHand.map Answer.body) (exec (.amend (body (two 1001 ++ [2, 0] ++ two 200 ++ [0]))) afterA) = some (some [6#8]) := by
  decide +kernel

theorem test_withdraw :
    look (fun s => (s.queue, s.inHand)) (exec (.withdraw (body (two 1002))) listed)
      = some ([1001, 1003], some { code := 0x92#8, body := body [0, 46] }) := by decide +kernel

theorem test_withdraw_of_an_in_tree_cut_is_refused :
    look (fun s => s.inHand.map Answer.body) (exec (.withdraw (body (two 1001))) afterA) = some (some [6#8]) := by decide +kernel

theorem test_query_clears_unseen :
    look (fun s => ((s.record 1001).map Record.unseen, s.inHand.map (fun a => (a.code, a.body.length)))) (exec (.query (body (two 1001))) listed)
      = some (some false, some (0x93#8, 57)) := by decide +kernel

/-- R45: PENDING cuts in queue order, then the others. -/
theorem test_list_order :
    look State.inHand (exec (.list (body [0, 0])) afterA)
      = some (some { code := 0x94#8, body := body ([0, 3] ++ two 1002 ++ two 1003 ++ two 1001) }) := by decide +kernel

theorem test_collect_of_a_pending_cut_is_refused :
    look (fun s => (s.inHand.map Answer.body, s.records.length)) (exec (.collect (body (two 1001))) listed) = some (some [6#8], 3) := by
  decide +kernel

theorem test_collect_frees_the_slot :
    look (fun s => s.records.map Record.number)
        (exec (.collect (body (two 1001))) { listed with records := [{ cut 1001 1 with state := .settled, outcome := some 1 }, cut 1002 6] })
      = some [1002] := by decide +kernel

theorem test_abandon :
    look (fun s => ((s.record 1003).map (fun r => (r.state, r.lostReason, r.head)), s.inTree, (s.track 4).committed, s.claimsAt 1, s.section 2))
        (exec (.abandon (body (two 1003))) caughtUp)
      = some (some (.lost, some .abandoned, none), 1, 0, [], SectionEntry.initial) := by decide +kernel

/-- R67: fill 6,400 of 6,500 leaves less than the near margin. -/
theorem test_track_set_near :
    look (fun s => (s.track 4, s.trackCondition 4, latched .trackNear s)) (exec (.trackSet (body ([4] ++ two 6400 ++ [1]))) empty)
      = some (openTrack 6400 0, .near, true) := by decide +kernel

theorem test_track_read_of_track_65_is_refused :
    look (fun s => s.inHand.map Answer.body) (exec (.trackRead (body [65])) empty) = some (some [2#8]) := by decide +kernel

/-- R168, track 1 of the worked sequence. -/
theorem test_track_read :
    look (fun s => s.inHand.map (fun a => a.body.take 8)) (exec (.trackRead (body [1])) afterA)
      = some (some (body ([0, 1, 1] ++ two 6000 ++ two 200 ++ [2]))) := by decide +kernel

theorem test_section_read_length :
    look (fun s => s.inHand.map (fun a => a.body.length)) (exec (.sectionRead (body [4])) caughtUp) = some (some 15) := by decide +kernel

theorem test_point_mode_manual :
    look (fun s => s.point 3) (exec (.pointMode (body [3, 1])) empty) = some { setPoint with mode := .manual } := by decide +kernel

theorem test_point_throw_needs_manual :
    look (fun s => s.inHand.map Answer.body) (exec (.pointThrow (body [3, 2])) empty) = some (some [0x0A#8]) := by decide +kernel

/-- R136: the limit is twice the budget 900. -/
theorem test_point_throw_of_a_manual_point :
    look (fun s => s.point 3) (exec (.pointThrow (body [3, 2])) (withPoint3 { setPoint with mode := .manual } north 20000))
      = some { throwingPoint 21800 with mode := .manual } := by decide +kernel

theorem test_point_reset_settles :
    look (fun s => ((s.point 3).state, (s.point 3).target, (s.point 3).settleTimer))
        (exec (.pointReset (body [3])) (withPoint3 { setPoint with state := .fault } south 20000))
      = some (.settling, some .reverse, some 20100) := by decide +kernel

theorem test_point_read_length :
    look (fun s => s.inHand.map (fun a => a.body.length)) (exec (.pointRead (body [3])) caughtUp) = some (some 33) := by decide +kernel

/-- The worked sequence at 40,000: points SET at the instant of entry to STANDBY, an occupied section UNEXPLAINED. -/
theorem test_run_to_standby :
    look (fun s => (s.runState, s.point 5, s.shownState 6, s.locked 5, latched .sectionCause s, s.inHand))
        (exec (.run (body [1, 0])) { halted with clock := 40000, channels := [(6, true)] })
      = some (.standby, { setPoint with lastSettled := 40000 }, .unexplained, true, true, some { code := 0xC0#8, body := body [0, 1] }) := by
  decide +kernel

/-- The worked sequence at 36,000: without FORCE the halt is refused, with it the cuts are LOST. -/
theorem test_run_halts :
    look State.inHand (exec (.run (body [0, 0])) caughtUp) = some (some { code := 0xC0#8, body := [0x0C#8] })
    ∧ look (fun s => (s.runState, s.records.map (fun r => (r.number, r.lostReason)), s.claims, (s.track 6).committed, s.inTree))
        (exec (.run (body [0, 1])) caughtUp)
      = some (.halted, [(1002, some .halted), (1003, some .halted)], [], 0, 0) := by decide +kernel

theorem test_warm_reset :
    look (fun s => (s.runState, s.records, s.seqCounter, (s.track 6).fill, s.detections.length)) (exec (.warmReset []) caughtUp)
      = some (.halted, [], 3, 2000, 5) := by decide +kernel

theorem test_layout_load_with_no_layout_is_refused :
    look (fun s => s.inHand.map Answer.body) (exec (.layoutLoad []) State.reset) = some (some [3#8]) := by
  decide +kernel

theorem test_layout_select_of_a_slot_never_written_is_refused :
    look (fun s => s.inHand.map Answer.body) (exec (.layoutSelect (body [1])) halted) = some (some [3#8]) := by decide +kernel

theorem test_layout_commit_out_of_halted_is_refused :
    look (fun s => s.inHand.map Answer.body) (exec (.layoutCommit (body [1, 65, 66, 67, 68, 69, 70, 71, 72])) empty) = some (some [7#8]) := by
  decide +kernel

theorem test_layout_write_out_of_halted_is_refused :
    look (fun s => s.inHand.map Answer.body) (exec (.layoutWrite (body [0, 0] ++ List.replicate 128 7#8)) empty) = some (some [7#8]) := by
  decide +kernel

/-- The first section entry of the ladder, read from the working copy. -/
theorem test_layout_read :
    look (fun s => s.inHand.map (fun a => a.body.take 9)) (exec (.layoutRead (body [1, 0, 0])) halted)
      = some (some (body [0, 0, 0, 1, 1, 44, 1, 1, 2])) := by decide +kernel

/-- R173: the answer is the outcome and the 25 bytes of the image. -/
theorem test_status_length :
    look (fun s => s.inHand.map (fun a => (a.code, a.body.length))) (exec (.status []) caughtUp) = some (some (0xE0#8, 26)) := by decide +kernel

theorem test_clear_flags :
    look (fun s => (s.flags, s.attentionLine)) (exec (.clearFlags (body [0, 1])) { empty with flags := 3 }) = some (2#11, true) := by
  decide +kernel

theorem test_enable_flags :
    look (fun s => (s.enables, s.attentionLine)) (exec (.enableFlags (body [4, 1])) { empty with flags := 2 }) = some (0x401#11, false) := by
  decide +kernel

/-! ### Resets -/

theorem test_power_on_and_reset_line :
    look (fun s => (s.runState, s.enables, s.records, s.detections.length, s.active)) (exec .powerOn caughtUp)
      = some (.halted, 2047#11, [], 5, none)
    ∧ look State.clock (exec .resetLine caughtUp) = some 0 := by decide +kernel

/-! ### The crest -/

/-- A's release at 1,000. -/
theorem test_first_axle_releases_a :
    look (fun s => ((s.record 1001).map (fun r => (r.state, r.releaseSeq, r.assigned, r.watch)), (s.track 1).committed, s.separation))
        (exec .axlePulse listed)
      = some (some (.releasing, some 0, some { track := 1, reason := .requested }, none), 150, some 2200) := by decide +kernel

/-- B's release at 8,000: watched at point 1 with its last moment at 19,300, point 3 thrown with its limit at 9,800. -/
theorem test_first_axle_releases_b :
    look (fun s => ((s.record 1002).map (fun r => (r.watch, r.lastMoment)), (s.point 3).state, (s.point 3).throwLimit, (s.point 1).state))
        (exec .axlePulse afterA)
      = some (some (some 1, some 19300), .throwing, some 9800, .atRest) := by decide +kernel

/-- E's joining at 33,300. -/
theorem test_pulse_joins_e_to_d :
    look (fun s => ((s.record 1005).map (fun r => (r.state, r.joined, r.assigned, r.measuredAxles)), (s.track 5).committed, s.queue))
        (exec .axlePulse together)
      = some (some (.joined, some (.follower 1004), some { track := 5, reason := .requested }, 1), 300, [1006]) := by decide +kernel

/-- The separation timer at 34,100 makes D ROLLING; all its axles have come. -/
theorem test_separation :
    look (fun s => (s.crest, (s.record 1004).map (fun r => (r.state, r.marks)), s.remnantDue)) (exec .separation { together with clock := 34100 })
      = some (.idle, some (.rolling, 0), none) := by decide +kernel

/-! ### The ladder -/

/-- B comes into section 6 at 33,000 and is measured at 109 cm/s, with a stall deadline of 101,805. -/
theorem test_section_occupied_measures_the_speed :
    look (fun s => (s.record 1002).map (fun r => (r.state, r.head, r.speed, r.stallDeadline)))
        (exec (.sectionOccupied 6) { caughtUp with clock := 33000 })
      = some (some (.rolling, some 6, some 109, some 101805)) := by decide +kernel

theorem test_section_occupied_by_nothing_known :
    look (fun s => (s.shownState 3, latched .sectionCause s)) (exec (.sectionOccupied 3) empty) = some (.unexplained, true) := by decide +kernel

/-- A settles on track 1 at 19,500: committed 0, fill 1,150. -/
theorem test_section_clear_settles_a :
    look (fun s => ((s.record 1001).map (fun r => (r.state, r.outcome)), s.track 1, s.inTree)) (exec (.sectionClear 5) homeA)
      = some (some (.settled, some 1), openTrack 1150 0, 0) := by decide +kernel

/-- C is closed up into section 4 at 31,300, with a stall deadline of 40,300. -/
theorem test_section_clear_closes_c_up :
    look (fun s => ((s.record 1003).map (fun r => (r.head, r.tail, r.stallDeadline, r.marks)), (s.section 4).occupants))
        (exec (.sectionClear 2) { caughtUp with clock := 31300, tracks := [(6, openTrack 2000 300)]
                                                records := [stalledB, { lateC with assigned := some { track := 6, reason := .diverted } }] })
      = some (some (some 4, some 4, some 40300, 0x040), [1002, 1003]) := by decide +kernel

theorem test_proving_timer :
    look (fun s => ((s.record 1001).map (fun r => (r.state, r.lostReason)), s.shownState 1, s.inTree))
        (exec (.provingTimerExpiry 1)
          (withSection 1 false { holding [1001] with unproven := true, proving := some 20000 } [rolling 1001 1 1 0 6000 400 28500]))
      = some (some (.lost, some .unproven), .clear, 0) := by decide +kernel

/-- B stalls at 29,200 in section 4, which is not the last of its route. -/
theorem test_stall :
    look (fun s => ((s.record 1002).map (fun r => (r.state, r.marks, r.stallDeadline)), latched .stall s))
        (exec (.stallDeadlineExpiry 1002)
          { caughtUp with clock := 29200, records := [rolling 1002 6 4 1 22000 500 29200, lateC] })
      = some (some (.stalled, 0, none), true) := by decide +kernel

theorem test_stand_timer :
    look (fun s => (s.record 1002).map Record.standTimer) (exec (.standTimerExpiry 1002) { caughtUp with clock := 2147505647 })
      = some (some .ranOut) := by decide +kernel

/-- C is caught up at point 3 at 30,051. -/
theorem test_last_moment_catches_c_up :
    look (fun s => ((s.record 1003).map (fun r => (r.assigned, r.diversions, r.watch, r.marks)),
          (s.track 4).committed, (s.track 6).committed, s.claimOf 3 1003, s.claimsAt 5))
        (exec (.lastMomentExpiry 1003) caughtUp)
      = some (some (some { track := 6, reason := .diverted }, [{ point := 3, reason := .catchup }], none, 0),
          0, 300, some { cut := 1003, position := .reverse, spent := true }, [claim 1002 .reverse, claim 1003 .reverse]) := by decide +kernel

/-- The head of a cut without a track comes to the root point's switch section, where its last moment has passed: its expiry is the next command
taken, before the one that waits (R103, R122). -/
def rootComing : State :=
  { withSection 1 true (holding [1003]) [{ rolling 1003 4 1 2 13000 400 28500 with requested := none, assigned := none }] with
    pending := [.axlePulse] }

theorem test_expiry_at_once_is_next :
    look State.pending (exec (.sectionOccupied 2) rootComing) = some [.lastMomentExpiry 1003, .axlePulse] := by decide +kernel

/-! ### Points -/

/-- Point 3 is detected REVERSE at 8,900 and comes SET at 9,000. -/
theorem test_detection_starts_the_settle :
    look (fun s => ((s.point 3).state, (s.point 3).drive, (s.point 3).settleTimer))
        (exec (.detectionChange 3 .reverse true) (withPoint3 (throwingPoint 9800) .off 8900))
      = some (.settling, none, some 9000) := by decide +kernel

theorem test_settle_timer :
    look (fun s => s.point 3)
        (exec (.settleTimerExpiry 3)
          (withPoint3 { setPoint with state := .settling, target := some .reverse, settleTimer := some 9000 } south 9000))
      = some { setPoint with lastSettled := 9000 } := by decide +kernel

theorem test_throw_limit :
    look (fun s => ((s.point 3).state, (s.point 3).drive, latched .pointFault s)) (exec (.throwLimitExpiry 3) (withPoint3 (throwingPoint 9800) .off 9800))
      = some (.fault, none, true) := by decide +kernel

theorem test_idle_timer :
    look (fun s => ((s.point 3).stood, (s.point 3).idleTimer)) (exec (.idleTimerExpiry 3) (withPoint3 { setPoint with idleTimer := some 9000 } north 9000))
      = some (true, none) := by decide +kernel

/-! ### The layout store -/

def programming : Commit :=
  { slot := 1, contents := { name := List.replicate 8 0, generation := 1, length := 2304, check := 0, image := [] }, timer := 3500 }

theorem test_commit_complete :
    look (fun s => (s.lastCommit, s.commit, latched .store s)) (exec (.commitComplete false) { halted with commit := some programming })
      = some (.failed 1, none, true) := by decide +kernel

theorem test_commit_timer :
    look (fun s => (s.lastCommit, s.commit)) (exec .commitTimerExpiry { halted with commit := some programming, clock := 3500 })
      = some (.failed 1, none) := by decide +kernel

/-! ### Every statement with hypotheses has states that meet them -/

theorem looked {α : Type} {o : Host.Outcome State Fault Refusal} {f : State → α} {v : α} (h : look f o = some v) :
    ∃ t, o = .next t ∧ f t = v := by
  cases o with
  | next s => exact ⟨s, rfl, by simpa [look] using h⟩
  | fault r => simp [look] at h
  | refused r => simp [look] at h

/-- A table entry is what an unlisted number reads as, or is listed. -/
theorem read_or_listed {α : Type} (d : α) (t : Table α) (k : Nat) : Table.read d t k = d ∨ ∃ c ∈ t, Table.read d t k = c.2 := by
  induction t with
  | nil => exact .inl rfl
  | cons c t ih =>
    rw [Table.read]
    split
    · exact .inr ⟨c, by simp, rfl⟩
    · rcases ih with h | ⟨e, he, h⟩
      · exact .inl h
      · exact .inr ⟨e, by simp [he], h⟩

/-- What holds of an unlisted entry and of every listed one holds of every entry. -/
theorem forall_read {α : Type} {P : α → Prop} (d : α) (t : Table α) (h0 : P d) (h : ∀ c ∈ t, P c.2) (k : Nat) : P (Table.read d t k) := by
  rcases read_or_listed d t k with e | ⟨c, hc, e⟩
  · rw [e]; exact h0
  · rw [e]; exact h c hc

theorem canonical_of (s : State) (m : Image) (ha : s.active = some m) (hm : Table.wf 0#8 m = true) (hk : s.commit = none)
    (hs : s.slots = []) (hw : s.working = m)
    (h : (Table.wf TrackEntry.initial s.tracks && Table.wf false s.channels && Table.wf SectionEntry.initial s.sections
      && Table.wf [] s.claims && Table.wf DetectionPair.off s.detections && Table.wf PointEntry.initial s.points) = true) : Canonical s := by
  simp only [Bool.and_eq_true] at h
  obtain ⟨⟨⟨⟨⟨h1, h2⟩, h3⟩, h4⟩, h5⟩, h6⟩ := h
  refine ⟨h1, h2, h3, h4, h5, h6, by simp [hs, Table.wf, Table.rising], hw ▸ hm, ?_, ?_, ?_⟩
  · intro i hi
    rw [ha] at hi
    exact (Option.some.inj hi) ▸ hm
  · intro x c hc
    simp [State.slot, hs, Table.read] at hc
  · intro k h; simp [hk] at h

theorem bounded_of (s : State)
    (h : s.records.all (fun r => decide (1 ≤ r.number ∧ r.number ≤ 65535 ∧ r.measuredAxles ≤ 255
      ∧ r.diversions.length ≤ Config.maxDiversions ∧ r.followers.length ≤ Config.maxFollowers)) = true) :
    ∀ r ∈ s.records, r.Bounded := by
  intro r hr
  have := List.all_eq_true.mp h r hr
  simp only [decide_eq_true_eq] at this
  exact ⟨⟨this.1, this.2.1⟩, this.2.2.1, this.2.2.2.1, this.2.2.2.2⟩

theorem canonical_empty : Canonical empty :=
  canonical_of _ ladder rfl test_ladder_passes_the_checks.2 rfl rfl rfl (by decide +kernel)

theorem canonical_caughtUp : Canonical caughtUp :=
  canonical_of _ ladder rfl test_ladder_passes_the_checks.2 rfl rfl rfl (by decide +kernel)

theorem ledger_listed : Ledger listed :=
  ⟨by decide +kernel, by decide +kernel, bounded_of _ (by decide +kernel), by decide +kernel, by decide +kernel, by decide +kernel,
   by decide +kernel, by decide +kernel, by decide +kernel⟩

theorem ledger_caughtUp : Ledger caughtUp :=
  ⟨by decide +kernel, by decide +kernel, bounded_of _ (by decide +kernel), by decide +kernel, by decide +kernel, by decide +kernel,
   by decide +kernel, by decide +kernel, by decide +kernel⟩

/-- Occupant lists and claim queues of two cuts each, and the rest of what the worked sequence has at 30,051. -/
theorem followed_caughtUp : Followed caughtUp :=
  ⟨canonical_caughtUp, ledger_caughtUp,
   forall_read (P := fun e : SectionEntry => ∀ n ∈ e.occupants, caughtUp.isInTree n = true) _ _ (by decide +kernel) (by decide +kernel),
   forall_read (P := fun e : SectionEntry => e.occupants.Nodup) _ _ (by decide +kernel) (by decide +kernel),
   forall_read (P := fun e : SectionEntry => e.occupants.length ≤ Config.maxOccupants) _ _ (by decide +kernel) (by decide +kernel),
   forall_read (P := fun l : List Claim => ∀ c ∈ l, caughtUp.isInTree c.cut = true) _ _ (by decide +kernel) (by decide +kernel),
   forall_read (P := fun l : List Claim => (l.map Claim.cut).Nodup) _ _ (by decide +kernel) (by decide +kernel)⟩

theorem ready_halted : Ready halted := ⟨rfl, rfl⟩
theorem ready_empty : Ready empty := ⟨rfl, rfl⟩
theorem ready_listed : Ready listed := ⟨rfl, rfl⟩
theorem ready_caughtUp : Ready caughtUp := ⟨rfl, rfl⟩

theorem witness_FrontCommandRuns :
    ({ State.reset with pending := [.answerSent, .axlePulse] } : State).pending = .answerSent :: [.axlePulse] := rfl

/-- Of the clauses: a tick, an expiry, and each timer not running, and running with its instant still to come. -/
theorem witness_TheYardClockAndItsTimers :
    (empty.pending = [] ∧ dueExpiries empty = [])
    ∧ ((withPoint3 (throwingPoint 9800) .off 9800).pending = [] ∧ dueExpiries (withPoint3 (throwingPoint 9800) .off 9800) ≠ [])
    ∧ ((empty.point 3).throwLimit = none ∧ (empty.point 3).settleTimer = none ∧ (empty.point 3).idleTimer = none
      ∧ (empty.section 4).proving = none ∧ empty.separation = none ∧ empty.commit = none ∧ empty.record 1001 = none)
    ∧ (.separation ∈ dueExpiries { together with clock := 34100 } ∧ .commitTimerExpiry ∈ dueExpiries { halted with
          clock := 3500, commit := some programming }
      ∧ .provingTimerExpiry 1 ∈ dueExpiries (withSection 1 false { holding [] with unproven := true, proving := some 20000 } [])
      ∧ .lastMomentExpiry 1003 ∈ dueExpiries caughtUp ∧ .stallDeadlineExpiry 1003 ∈ dueExpiries { caughtUp with clock := 32500 }
      ∧ .standTimerExpiry 1002 ∈ dueExpiries { caughtUp with clock := 2147505647 }
      ∧ .throwLimitExpiry 3 ∈ dueExpiries (withPoint3 (throwingPoint 9800) .off 9800)
      ∧ .settleTimerExpiry 3 ∈ dueExpiries (withPoint3 { setPoint with state := .settling, settleTimer := some 9000 } north 9000)
      ∧ .idleTimerExpiry 3 ∈ dueExpiries (withPoint3 { setPoint with idleTimer := some 9000 } north 9000))
    ∧ (caughtUp.record 1002 = some stalledB ∧ stalledB.stallDeadline = none ∧ stalledB.timer = .suspended ∧ lateC.standTimer = .stopped
      ∧ ({ stalledB with standTimer := .ranOut } : Record).standTimer = .ranOut)
    ∧ (((withPoint3 (throwingPoint 9800) .off 9799).point 3).throwLimit = some 9800 ∧ after 9800 9799 = true)
    ∧ (((withPoint3 { setPoint with settleTimer := some 9001 } north 9000).point 3).settleTimer = some 9001
      ∧ ((withPoint3 { setPoint with idleTimer := some 9001 } north 9000).point 3).idleTimer = some 9001 ∧ after 9001 9000 = true)
    ∧ (((withSection 1 false { holding [] with unproven := true, proving := some 20001 } []).section 1).proving = some 20001
      ∧ after 20001 20000 = true)
    ∧ (lateC.stallDeadline = some 32500 ∧ after 32500 caughtUp.clock = true ∧ lateC.timer = .running 30051 ∧ after 30051 30050 = true)
    ∧ (stalledB.standTimer = .running 2147505647 ∧ after 2147505647 caughtUp.clock = true)
    ∧ (together.separation = some 34100 ∧ after 34100 together.clock = true ∧ after 3500 halted.clock = true) := by decide +kernel

theorem witness_CommandsLeaveTheQueue :
    ∃ t, exec (.sectionOccupied 2) rootComing = .next t ∧ t.pending = [.lastMomentExpiry 1003, .axlePulse] := looked (by decide +kernel)

theorem witness_EveryArrivalIsTakenOrFaults :
    ((Instr.sectionOccupied 128).wf = true ∧ (Instr.detectionChange 64 .normal true).wf = true ∧ (Instr.sectionClear 1).wf = true)
    ∧ ((0 = 0 ∨ 128 < 0) ∧ (129 = 0 ∨ 128 < 129)) ∧ ((0 = 0 ∨ 64 < 0) ∧ (65 = 0 ∨ 64 < 65)) := by decide

def pulseComing : State := { listed with pending := [.axlePulse] }

theorem outputs_pulseComing : OutputsReckoned pulseComing := ⟨by decide +kernel, by decide +kernel⟩

theorem step_pulseComing : ∃ t, step pulseComing = .next t ∧ t.inTree = 1 := looked (f := State.inTree) (by decide +kernel)

theorem witness_StepsKeepOutputsReckoned : OutputsReckoned pulseComing ∧ ∃ t, step pulseComing = .next t ∧ t.inTree = 1 :=
  ⟨outputs_pulseComing, step_pulseComing⟩

def expiryComing : State := { caughtUp with pending := [.lastMomentExpiry 1003] }

theorem step_expiryComing : ∃ t, step expiryComing = .next t ∧ (t.track 6).committed = 300 :=
  looked (f := fun t => (t.track 6).committed) (by decide +kernel)

theorem witness_StepsKeepTablesCanonical : Canonical expiryComing ∧ ∃ t, step expiryComing = .next t ∧ (t.track 6).committed = 300 :=
  ⟨⟨canonical_caughtUp.tracks, canonical_caughtUp.channels, canonical_caughtUp.sections, canonical_caughtUp.claims,
    canonical_caughtUp.detections, canonical_caughtUp.points, canonical_caughtUp.slots, canonical_caughtUp.working,
    canonical_caughtUp.active, canonical_caughtUp.slotImages, canonical_caughtUp.commitImage⟩, step_expiryComing⟩

theorem followed_expiryComing : Followed expiryComing :=
  ⟨witness_StepsKeepTablesCanonical.1,
   ⟨ledger_caughtUp.slots, ledger_caughtUp.numbers, ledger_caughtUp.bounded, ledger_caughtUp.queueOnce, ledger_caughtUp.queued,
    ledger_caughtUp.pendings, ledger_caughtUp.unlisted, ledger_caughtUp.count, ledger_caughtUp.room⟩,
   followed_caughtUp.occupants, followed_caughtUp.listedOnce, followed_caughtUp.room, followed_caughtUp.claims, followed_caughtUp.claimedOnce⟩

theorem witness_StepsKeepFollowed : Followed expiryComing ∧ ∃ t, step expiryComing = .next t ∧ (t.track 6).committed = 300 :=
  ⟨followed_expiryComing, step_expiryComing⟩

theorem accounted_caughtUp : Accounted caughtUp where
  totals x := by
    have hr : caughtUp.records = [stalledB, lateC] := rfl
    have ht : caughtUp.tracks = [(1, openTrack 1150 0), (4, openTrack 2000 150), (5, openTrack 0 0), (6, openTrack 2000 150)] := rfl
    by_cases h4 : x = 4
    · subst h4; decide +kernel
    by_cases h6 : x = 6
    · subst h6; decide +kernel
    have hs : stalledB.assigned.map Assignment.track = some 6 := rfl
    have hl : lateC.assigned.map Assignment.track = some 4 := rfl
    have hg : caughtUp.groupsOn x = 0 := by simp [State.groupsOn, hr, hs, hl, Ne.symm h4, Ne.symm h6]
    rw [hg, State.track, ht]
    simp only [Table.read, if_neg (Ne.symm h4), if_neg (Ne.symm h6)]
    split <;> try rfl
    split <;> rfl
  leaders r hr _ m hm := by
    have h : ∀ r ∈ caughtUp.records, r.followers = [] := by decide +kernel
    simp [h r hr] at hm
  followers r hr hj := absurd hj ((by decide +kernel : ∀ r ∈ caughtUp.records, r.state ≠ .joined) r hr)
  pendings r hr hp := absurd hp ((by decide +kernel : ∀ r ∈ caughtUp.records, r.state ≠ .pending) r hr)
  crest c hc := by cases hc
  halted h := by cases h

theorem accounted_expiryComing : Accounted expiryComing :=
  ⟨accounted_caughtUp.totals, accounted_caughtUp.leaders, accounted_caughtUp.followers, accounted_caughtUp.pendings, accounted_caughtUp.crest,
   accounted_caughtUp.halted⟩

/-- A step that moves a group's length from one track to another. -/
theorem witness_StepsKeepCommittedTotals :
    Followed expiryComing ∧ Accounted expiryComing ∧ (expiryComing.track 6).committed = 150
    ∧ ∃ t, step expiryComing = .next t ∧ (t.track 6).committed = 300 :=
  ⟨followed_expiryComing, accounted_expiryComing, by decide +kernel, step_expiryComing⟩

def haltComing : State := { withPoint3 (throwingPoint 9800) .off 8900 with pending := [.run (body [0, 1])] }
def haltedComing : State := { halted with pending := [.run (body [1, 0])] }

/-- A step that a HALTED board takes out of HALTED, and one that puts a drive off. -/
theorem witness_StepsKeepPointsSound :
    (HaltedQuiet haltedComing ∧ haltedComing.runState = .halted ∧ ∃ t, step haltedComing = .next t ∧ t.runState = .standby)
    ∧ (DrivesSound haltComing ∧ (haltComing.point 3).drive = some .reverse ∧ ∃ t, step haltComing = .next t ∧ (t.point 3).drive = none) := by
  refine ⟨⟨?_, by decide +kernel, looked (f := State.runState) (by decide +kernel)⟩, ?_, by decide +kernel,
    looked (f := fun t => (t.point 3).drive) (by decide +kernel)⟩
  · intro _ p
    exact ⟨rfl, rfl, rfl, rfl, rfl, rfl⟩
  · exact forall_read (P := fun e : PointEntry => e.drive.isSome = true → (e.state = .throwing ∨ e.state = .fault) ∧ e.target = e.drive) _ _
      (by decide +kernel) (by decide +kernel)

def throwComing : State := { withPoint3 { setPoint with mode := .manual } north 20000 with pending := [.pointThrow (body [3, 2])] }

theorem witness_DrivesStartOnlyWhenSafe :
    (throwComing.point 3).drive = none ∧ ∃ t, step throwComing = .next t ∧ (t.point 3).drive = some .reverse :=
  ⟨by decide +kernel, looked (f := fun t => (t.point 3).drive) (by decide +kernel)⟩

/-- A slot whose header agrees with its image. -/
def good : SlotContents :=
  { name := List.replicate 8 0x41#8, generation := 4, length := Config.imageLength, check := Image.check [] Config.imageLength, image := [] }

theorem headerCheck_good : headerCheck (some good) = true := by simp [headerCheck, good]

def stored : State := { halted with slots := [(0, some good)] }

theorem witness_PowerOnState :
    (stored.slot stored.activeSlot = some good ∧ headerCheck (some good) = true) ∧ headerCheck (halted.slot halted.activeSlot) = false :=
  ⟨⟨rfl, headerCheck_good⟩, rfl⟩

theorem witness_WarmResetState :
    (Ready caughtUp ∧ Followed caughtUp)
    ∧ ({ halted with commit := some programming } : State).inHand = none
    ∧ ({ halted with commit := some programming } : State).commit.isSome = true := ⟨⟨ready_caughtUp, followed_caughtUp⟩, rfl, rfl⟩

def committing : State := { halted with commit := some programming }

/-- The last of the wrong lengths is a STATUS while the store is COMMITTING. -/
theorem witness_RequestsAreServedInOrder :
    requestFrame (.query (body [3, 233])) = some (0x13#8, body [3, 233])
    ∧ (committing.inHand = none ∧ committing.commit.isSome = true ∧ 0x61#8 ≠ 0x60#8)
    ∧ (halted.inHand = none ∧ halted.commit = none ∧ bodyLength 0x13#8 ≠ some ([] : List Byte).length
        ∧ bodyLength 0x7F#8 ≠ some ([] : List Byte).length)
    ∧ (committing.inHand = none ∧ (committing.commit = none ∨ 0x60#8 = 0x60#8) ∧ bodyLength 0x60#8 ≠ some [7#8].length)
    ∧ (Ready halted ∧ bodyLength 0xFF#8 = none) :=
  ⟨rfl, ⟨rfl, rfl, by decide⟩, ⟨rfl, rfl, by decide, by decide⟩, ⟨rfl, .inr rfl, by decide⟩, ready_halted, rfl⟩

theorem witness_RefusalsChangeNothing :
    (requestFrame (.withdraw (body (two 1001))) = some (0x12#8, body (two 1001)) ∧ Ready afterA
      ∧ ∃ t, exec (.withdraw (body (two 1001))) afterA = .next t ∧ t.inHand = some { code := 0x92#8, body := [6#8] })
    ∧ (requestFrame (.run (body [1, 0])) = some (0x40#8, body [1, 0]) ∧ Ready State.reset
      ∧ ∃ t, exec (.run (body [1, 0])) State.reset = .next t ∧ t.inHand = some { code := 0xC0#8, body := [0x0D#8, 8#8] }) :=
  ⟨⟨rfl, ⟨rfl, rfl⟩, looked (f := State.inHand) (by decide +kernel)⟩, rfl, ⟨rfl, rfl⟩, looked (f := State.inHand) (by decide +kernel)⟩

def answering : State := { empty with inHand := some { code := 0x90#8, body := [7#8] } }

theorem witness_HeldFramesAndAnswerEnds :
    answering.inHand = some { code := 0x90#8, body := [7#8] } ∧ answering.held = none
    ∧ ({ answering with held := some 0x13#8 } : State).held.isSome = true ∧ ({ answering with held := some 0x13#8 } : State).held = some 0x13#8 :=
  ⟨rfl, rfl, rfl, rfl⟩

/-- The receiver in a frame whose last byte came at 100, the clock reading now. -/
def inFrame (bytes : List Byte) (now : Instant) : State := { halted with clock := now, receiver := .collecting bytes 100 }

/-- The frame of QUERY 1001, but for its last byte (R161 gives the check). -/
def queryPart : List Byte := [0xA5#8, 3#8, 0x13#8, 3#8, 0xE9#8, 0x3C#8]

/-- Hunting, 21 ms after the last byte, and 20 ms after it: at the length byte, inside the frame, and at its last byte, right and wrong. -/
theorem witness_ReceiverByteEvents :
    (BringsByte (.startByte 0xA5#8) 0xA5#8 ∧ BringsByte (.interByteGap 0x5A#8) 0x5A#8 ∧ halted.FrameBroken
      ∧ (inFrame queryPart 121).FrameBroken)
    ∧ (BringsByte (.badLengthByte 251#8) 251#8 ∧ (inFrame [0xA5#8] 120).receiver = .collecting [0xA5#8] 100
      ∧ ((inFrame [0xA5#8] 120).clock - 100).toNat ≤ 20 ∧ (250 < (251#8).toNat ∧ 1 ≤ (1#8).toNat ∧ (250#8).toNat ≤ 250))
    ∧ ((inFrame queryPart 120).receiver = .collecting (0xA5#8 :: 3#8 :: [0x13#8, 3#8, 0xE9#8, 0x3C#8]) 100 ∧ 1 ≤ (3#8).toNat
      ∧ ([0xA5#8, 3#8] ++ [0x13#8]).length < (3#8).toNat + 4 ∧ (queryPart ++ [0x7B#8]).length = (3#8).toNat + 4)
    ∧ ([3#8, 0xE9#8].length ≤ 249 ∧ queryPart ++ [0x7B#8] = frameBytes 0x13#8 [3#8, 0xE9#8])
    ∧ (∀ code body, queryPart ++ [0x7A#8] ≠ frameBytes code body) := by
  refine ⟨⟨.inl rfl, .inr (.inr rfl), fun _ _ h => ?_, fun _ a h => ?_⟩, ⟨.inr (.inl rfl), by decide +kernel⟩, by decide +kernel,
    by decide +kernel, fun code body h => ?_⟩
  · simp [halted, State.reset] at h
  · simp only [inFrame, Receiver.collecting.injEq] at h
    simp [← h.2, inFrame]
  · have hb : body.length = 2 := by simpa [frameBytes, queryPart, byte2] using (congrArg List.length h).symm
    match body, hb with
    | [x, y], _ =>
      have hc : code = 0x13#8 ∧ x = 3#8 ∧ y = 0xE9#8 := by
        simp [frameBytes, queryPart] at h
        exact ⟨h.1.symm, h.2.1.symm, h.2.2.1.symm⟩
      obtain ⟨rfl, rfl, rfl⟩ := hc
      exact absurd h (by decide +kernel)

theorem witness_FrameByBytesIsTheRequest :
    (List.replicate 249 0#8).length ≤ 249 ∧ OutputsReckoned empty ∧ empty.receiver = .hunting ∧ empty.pending = [] :=
  ⟨by decide +kernel, ⟨by decide +kernel, by decide +kernel⟩, rfl, rfl⟩

theorem witness_FlagRequests :
    empty.inHand = none ∧ empty.commit = none ∧ 2047 < 65536 ∧ 2047 < 2048 ∧ 2048 ≤ 2048 ∧ 2048 ≤ 65535
    ∧ ({ halted with commit := some programming } : State).inHand = none
    ∧ ({ halted with commit := some programming } : State).commit.isSome = true := ⟨rfl, rfl, by decide, by decide, by decide, by decide, rfl, rfl⟩

theorem witness_AttentionLineFollowsFlags :
    ((pulseComing.attentionLine = true ↔ pulseComing.flags &&& pulseComing.enables ≠ 0) ∧ ∃ t, step pulseComing = .next t ∧ t.inTree = 1)
    ∧ (∃ t, exec .powerOn caughtUp = .next t) ∧ ∃ t, exec .resetLine caughtUp = .next t :=
  ⟨⟨by decide +kernel, step_pulseComing⟩, ⟨_, rfl⟩, _, rfl⟩

theorem witness_ReadsChangeNothing :
    (empty.inHand = none ∧ empty.commit = none ∧ (1 ≤ 64 ∧ 64 ≤ 64) ∧ (1 ≤ 128 ∧ 128 ≤ 128) ∧ (1 ≤ 63 ∧ 63 ≤ 63) ∧ 8 ≤ 8 ∧ 1 ≤ 1
      ∧ empty.active = some ladder)
    ∧ ((Ready empty ∧ Ready State.reset ∧ State.reset.active = none) ∧ (64 < 65 ∧ 128 < 129 ∧ 63 < 64 ∧ 129 < 256) ∧ 1 < 2 ∧ 8 < 9) :=
  ⟨⟨rfl, rfl, by decide, by decide, by decide, by decide, by decide, rfl⟩, ⟨ready_empty, ⟨rfl, rfl⟩, rfl⟩, by decide⟩

/-- A section in use is one of the 128. -/
theorem sectionUsed_le {m : Image} {x : Nat} (h : sectionUsed m x = true) : x ≤ 128 := by
  simp only [sectionUsed, Bool.and_eq_true, decide_eq_true_eq] at h
  exact h.1.2

/-- A point in use is one of the 63. -/
theorem pointUsed_le {m : Image} {p : Nat} (h : pointUsed m p = true) : p ≤ 63 := by
  simp only [pointUsed, Bool.and_eq_true, decide_eq_true_eq] at h
  exact h.1.2

/-- Section 6 on channel 9, the number of a section not in use. -/
def rechanneled : State := { empty with active := some (put ladder (sectionBase 6 + 3) [9]) }

/-- A record's image; each result of a commit and each generation; points, sections and tracks in use and not, a held section, and sections not in
use with the channel of their number free and taken. -/
theorem witness_ImageLayouts :
    stalledB.Bounded
    ∧ (State.reset.lastCommit = .none ∧ ({ halted with lastCommit := .done 2 } : State).lastCommit = .done 2
      ∧ ({ halted with lastCommit := .failed 2 } : State).lastCommit = .failed 2)
    ∧ (State.reset.activeGeneration = none ∧ halted.activeGeneration = some 1)
    ∧ (pointUsed caughtUp.layout 3 = true ∧ (caughtUp.claimsAt 3)[1]? = some (claim 1003 .normal) ∧ pointUsed caughtUp.layout 6 = false)
    ∧ (sectionUsed caughtUp.layout 4 = true ∧ (caughtUp.section 4).occupants[0]? = some 1002 ∧ pointOfSection caughtUp.layout 4 = some 3
      ∧ pointOfSection caughtUp.layout 1 = none ∧ caughtUp.shownState 4 ≠ .unproven ∧ sectionUsed caughtUp.layout 7 = false)
    ∧ ((withSection 1 false { holding [1001] with unproven := true, proving := some 20000 } []).shownState 1 = .unproven
      ∧ ((withSection 1 false { holding [1001] with unproven := true, proving := some 20000 } []).section 1).proving.isSome = true)
    ∧ trackUsed caughtUp.layout 7 = false
    ∧ (∀ y, sectionUsed caughtUp.layout y = true → sectionChannel caughtUp.layout y ≠ 7)
    ∧ (sectionUsed rechanneled.layout 9 = false ∧ sectionUsed rechanneled.layout 6 = true ∧ sectionChannel rechanneled.layout 6 = 9) :=
  ⟨⟨by decide, by decide, by decide, by decide⟩, by decide +kernel, by decide +kernel, by decide +kernel, by decide +kernel, by decide +kernel,
   by decide +kernel,
   fun y hy => (by decide +kernel : ∀ y ∈ List.range 129, sectionUsed ladder y = true → sectionChannel ladder y ≠ 7) y
    (List.mem_range.mpr (Nat.lt_succ_of_le (sectionUsed_le hy))) hy, by decide +kernel⟩

theorem witness_EnterListsTheCut :
    Ready listed ∧ listed.runState ≠ .halted ∧ (1 ≤ 1004 ∧ 1004 ≤ 61439) ∧ (5 = 0 ∨ trackUsed listed.layout 5 = true)
    ∧ (50 ≤ 140 ∧ 140 ≤ 4000) ∧ (2 ≤ 4 ∧ 4 ≤ 120) ∧ (1 ≤ 1002 ∧ 1002 < 65536) ∧ listed.record 1004 = none ∧ 1004 ∉ listed.queue
    ∧ listed.records.length < 48 ∧ listed.queue = [1001] ++ 1002 :: [1003] ∧ 1002 ∉ [1001] ∧ listed.isIn 1002 .pending = true :=
  ⟨ready_listed, by decide +kernel⟩

/-- Every slot taken. -/
def full : State := { empty with records := (List.range 48).map (fun i => cut (i + 1) 1), queue := (List.range 48).map (fun i => i + 1) }

theorem witness_EnterRefusals :
    (Ready halted ∧ halted.runState = .halted) ∧ (Ready listed ∧ listed.runState ≠ .halted)
    ∧ (trackUsed listed.layout 7 = false ∧ trackUsed listed.layout 5 = true ∧ 1 < 2 ∧ 255 < 256)
    ∧ ((listed.record 1002).isSome = true ∧ listed.record 1004 = none ∧ listed.isIn 1004 .pending = false)
    ∧ ((Ready full ∧ full.runState ≠ .halted) ∧ full.record 1004 = none ∧ full.isIn 1 .pending = true ∧ 48 ≤ full.records.length) :=
  ⟨⟨ready_halted, rfl⟩, ⟨ready_listed, by decide +kernel⟩, by decide +kernel, by decide +kernel,
   ⟨⟨rfl, rfl⟩, by decide +kernel⟩, by decide +kernel⟩

/-- An amendment of a PENDING cut; then, for the refusals: a board in HALTED, a bad body, no record, a SETTLED cut, and cuts in the tree, with a
length named, with a track that is not below the head, and with one that cannot take the cut. -/
theorem witness_AmendPending :
    (Ready listed ∧ listed.runState ≠ .halted ∧ (1 ≤ 1002 ∧ 1002 < 65536) ∧ (listed.records.map Record.number).Nodup
      ∧ (listed.record 1002 = some (cut 1002 6) ∧ (cut 1002 6).state = .pending) ∧ (7#8 ≠ 0 ∧ (7#8).toNat < 8)
      ∧ trackUsed listed.layout 1 = true ∧ (50 ≤ 50 ∧ 4000 ≤ 4000) ∧ (2 ≤ 2 ∧ 120 ≤ 120))
    ∧ ((Ready halted ∧ halted.runState = .halted) ∧ (0#8 = 0 ∧ 8 ≤ (8#8).toNat) ∧ trackUsed listed.layout 7 = false ∧ listed.record 1004 = none)
    ∧ (({ listed with records := [{ cut 1001 1 with state := .settled, outcome := some 1 }] } : State).record 1001
        = some { cut 1001 1 with state := .settled, outcome := some 1 })
    ∧ (Ready caughtUp ∧ caughtUp.runState ≠ .halted ∧ caughtUp.record 1002 = some stalledB ∧ stalledB.state.inTree = true
      ∧ (2#8).getLsbD 1 = true ∧ stalledB.assigned = some { track := 6, reason := .requested } ∧ 6 ≠ 1 ∧ trackUsed caughtUp.layout 1 = true
      ∧ caughtUp.tree.trackBelow 1 (stalledB.head.getD 1) = false)
    ∧ (caughtUp.record 1003 = some lateC ∧ lateC.assigned = some { track := 4, reason := .requested } ∧ 4 ≠ 2
      ∧ caughtUp.tree.trackBelow 2 (lateC.head.getD 1) = true ∧ caughtUp.canTake 2 (caughtUp.groupLength 1003) = false) :=
  ⟨⟨ready_listed, by decide +kernel⟩, ⟨⟨ready_halted, rfl⟩, by decide +kernel⟩, by decide +kernel, ⟨ready_caughtUp, by decide +kernel⟩,
   by decide +kernel⟩

def waitingC : Record := { lateC with requested := none, assigned := none, watch := some 1 }
def waiting : State := { caughtUp with records := [stalledB, waitingC] }

/-- To another track, with claims held and one to come, to the track the cut has, and of a cut that waits for its track. -/
theorem witness_AmendMovesTheGroup :
    (Ready caughtUp ∧ caughtUp.runState ≠ .halted ∧ (1 ≤ 1003 ∧ 1003 < 65536) ∧ caughtUp.record 1003 = some lateC
      ∧ lateC.state.inTree = true ∧ lateC.assigned = some { track := 4, reason := .requested } ∧ 4 ≠ 6 ∧ trackUsed caughtUp.layout 6 = true
      ∧ caughtUp.tree.trackBelow 6 (lateC.head.getD 1) = true ∧ caughtUp.canTake 6 (caughtUp.groupLength 1003) = true
      ∧ ((caughtUp.tree.route 6).map Prod.fst).Nodup ∧ (3, Position.reverse) ∈ caughtUp.tree.route 6
      ∧ caughtUp.claimOf 3 1003 = some (claim 1003 .normal) ∧ (5, Position.reverse) ∈ caughtUp.tree.route 6
      ∧ caughtUp.claimOf 5 1003 = none ∧ caughtUp.atOrBelowHead lateC 5 = true ∧ lateC.state = .rolling)
    ∧ ((caughtUp.records.map Record.number).Nodup ∧ trackUsed caughtUp.layout 4 = true ∧ lateC.requested = some 4)
    ∧ (Ready waiting ∧ waiting.runState ≠ .halted ∧ waiting.record 1003 = some waitingC ∧ waitingC.state.inTree = true
      ∧ waitingC.assigned = none ∧ trackUsed waiting.layout 4 = true ∧ (releaseChoice waiting 4 (waiting.groupLength 1003)).track = 4
      ∧ ((waiting.tree.route 4).map Prod.fst).Nodup ∧ (waiting.claimOf 1 1004 = none ∧ waiting.atOrBelowHead waitingC 3 = true)) :=
  ⟨⟨ready_caughtUp, by decide +kernel⟩, by decide +kernel, ⟨rfl, rfl⟩, by decide +kernel⟩

/-- Cut 0, an unknown cut, one in the tree, and one still listed. -/
theorem witness_WithdrawFreesTheSlot :
    Ready listed ∧ 0 < 65536 ∧ listed.record 1004 = none ∧ (listed.record 1002 = some (cut 1002 6) ∧ listed.isIn 1002 .pending = true)
    ∧ Ready caughtUp ∧ caughtUp.record 1003 = some lateC ∧ lateC.state ≠ .pending :=
  ⟨ready_listed, by decide, by decide +kernel, by decide +kernel, ready_caughtUp, by decide +kernel⟩

theorem witness_QueryClearsUnseen :
    Ready listed ∧ (1 ≤ 1002 ∧ 1002 < 65536) ∧ listed.record 1002 = some (cut 1002 6) ∧ listed.record 65535 = none :=
  ⟨ready_listed, by decide +kernel⟩

theorem witness_ListAnswersThePassing :
    Ready listed ∧ Ledger listed ∧ ((127#8).toNat < 128 ∧ 1 ≤ 1) ∧ (128 ≤ (128#8).toNat ∧ 1 < (2#8).toNat) :=
  ⟨ready_listed, ledger_listed, by decide, by decide⟩

def settledA : Record := { cut 1001 1 with state := .settled, outcome := some 1, releaseSeq := some 0 }

theorem witness_CollectFreesTheSlot :
    (Ready { listed with records := [settledA] } ∧ (1 ≤ 1001 ∧ 1001 < 65536)
      ∧ ({ listed with records := [settledA] } : State).record 1001 = some settledA ∧ (settledA.state = .settled ∨ settledA.state = .lost))
    ∧ (Ready caughtUp ∧ caughtUp.record 1001 = none ∧ caughtUp.record 1003 = some lateC ∧ lateC.state ≠ .settled ∧ lateC.state ≠ .lost) :=
  ⟨⟨⟨rfl, rfl⟩, by decide +kernel⟩, ready_caughtUp, by decide +kernel⟩

theorem witness_AbandonLosesTheGroup :
    (Ready caughtUp ∧ (1 ≤ 1003 ∧ 1003 < 65536) ∧ caughtUp.record 1003 = some lateC ∧ lateC.state.inTree = true)
    ∧ (Ready listed ∧ listed.record 1004 = none ∧ listed.record 1002 = some (cut 1002 6) ∧ (cut 1002 6).state.inTree = false) :=
  ⟨⟨ready_caughtUp, by decide +kernel⟩, ready_listed, by decide +kernel⟩

theorem witness_TrackSetWritesFillAndSetting :
    Ready empty ∧ (trackUsed empty.layout 4 = true ∧ 65535 < 65536) ∧ (1 < (2#8).toNat ∧ 255 < 256)
    ∧ (trackUsed empty.layout 0 = false ∧ trackUsed empty.layout 7 = false ∧ trackUsed empty.layout 65 = false) :=
  ⟨ready_empty, by decide +kernel⟩

/-- Tracks 1 to 4 in a chain of alternates, with the given ones open. -/
def chained (last : Nat) (opened : Table TrackEntry) : State :=
  { State.reset with
    active := some ([(1, 2), (2, 3), (3, 4), (4, last)].foldl (fun m (t, a) => put m (trackBase t) ([1] ++ two 1000 ++ two 0 ++ [a])) [])
    tracks := opened }

theorem witness_TracksAndTheReleaseAssignment :
    (trackUsed (chained 0 [(1, openTrack 0 0)]).layout 1 = true ∧ (chained 0 [(1, openTrack 0 0)]).canTake 1 150 = true)
    ∧ trackUsed (chained 0 []).layout 5 = false
    ∧ ((chained 0 [(2, openTrack 0 0)]).canTake 1 150 = false ∧ 2 = alternateTrack (chained 0 [(2, openTrack 0 0)]).layout 1
        ∧ (chained 0 [(2, openTrack 0 0)]).canTake 2 150 = true)
    ∧ ((chained 0 [(3, openTrack 0 0)]).canTake 2 150 = false ∧ 3 = alternateTrack (chained 0 [(3, openTrack 0 0)]).layout 2
        ∧ (chained 0 [(3, openTrack 0 0)]).canTake 3 150 = true)
    ∧ ((chained 0 [(4, openTrack 0 0)]).canTake 3 150 = false ∧ 4 = alternateTrack (chained 0 [(4, openTrack 0 0)]).layout 3
        ∧ (chained 0 [(4, openTrack 0 0)]).canTake 4 150 = true)
    ∧ ((chained 0 []).canTake 4 150 = false ∧ (chained 0 []).canTake 1 150 = false) := by decide +kernel

/-- Point 3 in MANUAL, lying NORMAL, with B's REVERSE claim at its head and B in section 2 since now. -/
def manualClaimed : State :=
  { withPoint3 { setPoint with mode := .manual } north 20000 with
    records := [rolling 1002 6 2 1 20000 500 25000], inTree := 1, claims := [(3, [claim 1002 .reverse])] }

theorem witness_PointModeAndTheReturnToAuto :
    (Ready empty ∧ empty.runState ≠ .halted ∧ pointUsed empty.layout 3 = true ∧ (empty.point 3).mode = .auto)
    ∧ (Ready manualClaimed ∧ manualClaimed.runState ≠ .halted ∧ pointUsed manualClaimed.layout 3 = true
      ∧ (manualClaimed.point 3).mode = .manual ∧ (manualClaimed.point 3).state = .atRest
      ∧ manualClaimed.shownState (switchSection manualClaimed.layout 3) = .clear
      ∧ manualClaimed.claimsAt 3 = claim 1002 .reverse :: [] ∧ manualClaimed.record 1002 = some (rolling 1002 6 2 1 20000 500 25000)
      ∧ manualClaimed.detected 3 ≠ .at .reverse
      ∧ after manualClaimed.clock (manualClaimed.lastMomentAt (rolling 1002 6 2 1 20000 500 25000) 3) = false)
    ∧ ((Ready halted ∧ halted.runState = .halted) ∧ 1 < 2 ∧ pointUsed empty.layout 6 = false) :=
  ⟨⟨ready_empty, by decide +kernel⟩, ⟨⟨rfl, rfl⟩, by decide +kernel⟩, ⟨ready_halted, rfl⟩, by decide +kernel⟩

def manualFree : State := withPoint3 { setPoint with mode := .manual } north 20000

theorem witness_PointThrowStartsAThrow :
    (Ready manualFree ∧ manualFree.runState ≠ .halted ∧ pointUsed manualFree.layout 3 = true ∧ (manualFree.point 3).mode = .manual
      ∧ (manualFree.point 3).state = .atRest ∧ manualFree.shownState (switchSection manualFree.layout 3) = .clear
      ∧ manualFree.claimsAt 3 = [] ∧ manualFree.detected 3 = .at .normal)
    ∧ ((Ready halted ∧ halted.runState = .halted) ∧ Ready empty ∧ pointUsed empty.layout 6 = false ∧ (empty.point 3).mode = .auto
      ∧ manualClaimed.claimsAt 3 ≠ []) :=
  ⟨⟨⟨rfl, rfl⟩, by decide +kernel⟩, ⟨ready_halted, rfl⟩, ready_empty, by decide +kernel⟩

def faulty : State := withPoint3 { setPoint with state := .fault } south 20000

theorem witness_PointResetSettles :
    (Ready faulty ∧ faulty.runState ≠ .halted ∧ pointUsed faulty.layout 3 = true ∧ (faulty.point 3).state = .fault
      ∧ (faulty.point 3).drive = none ∧ faulty.detected 3 = .at .reverse ∧ faulty.claimsAt 3 = [])
    ∧ ((Ready halted ∧ halted.runState = .halted) ∧ Ready empty ∧ pointUsed empty.layout 6 = false ∧ (empty.point 3).state ≠ .fault) :=
  ⟨⟨⟨rfl, rfl⟩, by decide +kernel⟩, ⟨ready_halted, rfl⟩, ready_empty, by decide +kernel⟩

/-- The detection of point 3 after a change at its pair. -/
def detectedAfter (i : Position) (on : Bool) (s : State) : Option Detected := look (fun t => t.detected 3) (exec (.detectionChange 3 i on) s)

def inFlight : PointEntry := { throwingPoint 9800 with state := .fault }
def settlingPoint : PointEntry := { setPoint with state := .settling, target := some .reverse, settleTimer := some 9000 }

/-- The ladder with a settle time of 0. -/
def quick (s : State) : State := { s with active := some (put ladder (settingsBase + 13) [0, 0]) }

/-- The clauses in their order: home, wrongly seen while THROWING, lost while SETTLING, lost at rest, home in flight, still under way, home with no
settle time, and a change of state at a point where C has a claim. -/
theorem witness_DetectionChanges :
    ((withPoint3 (throwingPoint 9800) .off 8900).runState ≠ .halted ∧ pointOfPair empty.layout 3 = some 3
        ∧ settleTime empty.layout ≠ 0 ∧ ((withPoint3 (throwingPoint 9800) .off 8900).pair 3).level .reverse ≠ true
        ∧ detectedAfter .reverse true (withPoint3 (throwingPoint 9800) .off 8900) = some (.at .reverse))
    ∧ (((withPoint3 (throwingPoint 9800) north 8900).pair 3).level .reverse ≠ true
        ∧ detectedAfter .reverse true (withPoint3 (throwingPoint 9800) north 8900) = some .both)
    ∧ (((withPoint3 settlingPoint south 8900).pair 3).level .reverse ≠ false
        ∧ detectedAfter .reverse false (withPoint3 settlingPoint south 8900) = some .none)
    ∧ (((withPoint3 setPoint north 8900).pair 3).level .normal ≠ false
        ∧ detectedAfter .normal false (withPoint3 setPoint north 8900) = some .none)
    ∧ ((withPoint3 inFlight .off 8900).point 3 = inFlight ∧ inFlight.drive ≠ none
        ∧ detectedAfter .reverse true (withPoint3 inFlight .off 8900) = some (.at .reverse))
    ∧ detectedAfter .normal false (withPoint3 (throwingPoint 9800) north 8900) = some .none
    ∧ (settleTime (quick (withPoint3 (throwingPoint 9800) .off 8900)).layout = 0
        ∧ detectedAfter .reverse true (quick (withPoint3 (throwingPoint 9800) .off 8900)) = some (.at .reverse))
    ∧ ((caughtUp.pair 3).level .reverse ≠ false ∧ detectedAfter .reverse false caughtUp = some .none ∧ caughtUp.detected 3 ≠ .none
        ∧ lateC.state = .rolling ∧ caughtUp.claimOf 3 1003 ≠ none) := by decide +kernel

/-- R137, R139: SET at once. -/
theorem test_home_with_no_settle_time :
    look (fun s => s.point 3) (exec (.detectionChange 3 .reverse true) (quick (withPoint3 (throwingPoint 9800) .off 8900)))
      = some { setPoint with lastSettled := 8900 } := by decide +kernel

/-- Point 3 about to be SET in REVERSE, with the claim of a cut in section 2 for NORMAL. -/
def wantedBack : State :=
  { withPoint3 settlingPoint south 9000 with
    records := [rolling 1003 4 2 1 8900 500 25000], inTree := 1, claims := [(3, [claim 1003 .normal])] }

/-- R120: the throw after the settle, with its limit at 9,000 and twice 900. -/
theorem test_settle_is_followed_by_the_throw :
    look (fun s => ((s.point 3).state, (s.point 3).drive, (s.point 3).throwLimit)) (exec (.settleTimerExpiry 3) wantedBack)
      = some (.throwing, some .normal, some 10800) := by decide +kernel

theorem witness_PointTimersRunOut :
    ((withPoint3 (throwingPoint 9800) .off 9800).point 3 = throwingPoint 9800 ∧ after 9800 9800 = false)
    ∧ ((withPoint3 inFlight .off 9801).point 3 = inFlight ∧ inFlight.throwLimit = some 9800 ∧ after 9800 9801 = false)
    ∧ ((withPoint3 settlingPoint south 9000).point 3 = settlingPoint ∧ settlingPoint.settleTimer = some 9000 ∧ after 9000 9000 = false)
    ∧ ((wantedBack.point 3).state = .settling ∧ wantedBack.claimsAt 3 = claim 1003 .normal :: []
      ∧ wantedBack.record 1003 = some (rolling 1003 4 2 1 8900 500 25000) ∧ wantedBack.detected 3 ≠ .at .normal
      ∧ after wantedBack.clock (wantedBack.lastMomentAt (rolling 1003 4 2 1 8900 500 25000) 3) = false)
    ∧ (((withPoint3 { setPoint with idleTimer := some 9000 } north 9000).point 3).idleTimer = some 9000) := by decide +kernel

theorem witness_RunEntersStandby :
    (Ready halted ∧ halted.runState = .halted ∧ layoutCheck halted.active = none)
    ∧ layoutCheck (some ladder) = none ∧ (deriveTree ladder).tracks.length = 6 ∧ (deriveTree ladder).sections.length = 6 :=
  ⟨⟨ready_halted, rfl, test_ladder_passes_the_checks.1⟩, test_ladder_passes_the_checks.1, by decide +kernel⟩

theorem witness_RunMovesAndRefusals :
    (Ready { empty with runState := .standby } ∧ ({ empty with runState := .standby } : State).runState = .standby)
    ∧ (Ready empty ∧ empty.runState = .running) ∧ (Ready halted ∧ halted.runState = .halted ∧ (1#8).toNat ≤ 1)
    ∧ (Ready State.reset ∧ State.reset.runState = .halted ∧ layoutCheck State.reset.active = some .none)
    ∧ (Ready caughtUp ∧ caughtUp.runState ≠ .halted ∧ 0 < caughtUp.inTree) ∧ 1 < (2#8).toNat ∧ 2 < (3#8).toNat :=
  ⟨⟨⟨rfl, rfl⟩, rfl⟩, ⟨ready_empty, rfl⟩, ⟨ready_halted, rfl, by decide⟩, ⟨⟨rfl, rfl⟩, rfl, rfl⟩,
   ⟨ready_caughtUp, by decide +kernel, by decide +kernel⟩, by decide, by decide⟩

theorem witness_RunHalts :
    Ready caughtUp ∧ Followed caughtUp ∧ Accounted caughtUp ∧ caughtUp.runState ≠ .halted ∧ (true = true ∨ caughtUp.inTree = 0) :=
  ⟨ready_caughtUp, followed_caughtUp, accounted_caughtUp, by decide +kernel, .inl rfl⟩

theorem witness_WorkingCopyRequests :
    (Ready halted ∧ halted.active = some ladder ∧ halted.runState = .halted) ∧ (0 ≤ 8 ∧ 8 ≤ 8) ∧ (0 ≤ 1 ∧ 1 ≤ 1)
    ∧ (List.replicate 128 7#8).length = 128
    ∧ ((Ready State.reset ∧ State.reset.active = none) ∧ (Ready empty ∧ empty.runState ≠ .halted) ∧ 8 < 9 ∧ 1 < 2) :=
  ⟨⟨ready_halted, rfl, rfl⟩, by decide, by decide, by simp, ⟨⟨rfl, rfl⟩, rfl⟩, ⟨ready_empty, by decide +kernel⟩, by decide⟩

def finishing : State := { halted with commit := some { slot := 2, contents := good, timer := 500 } }

theorem witness_LayoutCommitBeginsAndEnds :
    (Ready stored ∧ stored.runState = .halted ∧ (0 ≤ 2 ∧ 2 ≤ 2) ∧ (List.replicate 8 0x42#8).length = 8)
    ∧ (stored.slot 0 = some good ∧ headerCheck (some good) = true) ∧ headerCheck (stored.slot 2) = false
    ∧ (finishing.commit = some { slot := 2, contents := good, timer := 500 } ∧ after 500 finishing.clock = false)
    ∧ (Ready empty ∧ empty.runState ≠ .halted ∧ 2 < 3) :=
  ⟨⟨⟨rfl, rfl⟩, rfl, by decide, by simp⟩, ⟨rfl, headerCheck_good⟩, rfl, ⟨rfl, by decide +kernel⟩, ready_empty, by decide +kernel⟩

theorem canonical_stored : Canonical stored := by
  have h := canonical_of halted ladder rfl test_ladder_passes_the_checks.2 rfl rfl rfl (by decide +kernel)
  refine ⟨h.tracks, h.channels, h.sections, h.claims, h.detections, h.points, by simp [stored, Table.wf, Table.rising], h.working, h.active,
    fun x c hc => ?_, h.commitImage⟩
  simp only [State.slot, stored, Table.read] at hc
  split at hc
  · exact (Option.some.inj hc) ▸ rfl
  · simp at hc

theorem witness_LayoutSelectActivates :
    (Ready stored ∧ Canonical stored ∧ stored.runState = .halted ∧ 0 ≤ 2 ∧ stored.slot 0 = some good ∧ headerCheck (some good) = true)
    ∧ (Ready empty ∧ empty.runState ≠ .halted ∧ 2 < 3 ∧ headerCheck (stored.slot 2) = false) :=
  ⟨⟨⟨rfl, rfl⟩, canonical_stored, rfl, by decide, rfl, headerCheck_good⟩, ready_empty, by decide +kernel⟩

theorem witness_HaltedEventsChangeNothing :
    (halted.runState = .halted ∧ (1 ≤ 128 ∧ 128 ≤ 128) ∧ sectionOfChannel empty.layout 7 = none ∧ empty.channel 7 = false
      ∧ (homeA.channel 5 = true ∧ sectionOfChannel homeA.layout 128 = none))
    ∧ ((1 ≤ 3 ∧ 3 ≤ 64) ∧ (halted.pair 3).level .reverse ≠ true)
    ∧ ((1 ≤ 64 ∧ 64 ≤ 64) ∧ (empty.pair 64).level .normal ≠ true)
    ∧ ∀ p, pointUsed empty.layout p = true → detectionPair empty.layout p ≠ 64 :=
  ⟨by decide +kernel, by decide +kernel, by decide +kernel,
   fun p hp => (by decide +kernel : ∀ p ∈ List.range 64, pointUsed ladder p = true → detectionPair ladder p ≠ 64) p
    (List.mem_range.mpr (Nat.lt_succ_of_le (pointUsed_le hp))) hp⟩

/-- Track 1 CLOSED and its alternate open; and no track open at all. -/
def diverted : State := { listed with tracks := [(2, openTrack 0 0), (6, openTrack 0 0)] }
def allClosed : State := { listed with tracks := [] }

theorem test_first_axle_takes_the_alternate :
    look (fun s => ((s.record 1001).map (fun r => (r.assigned, r.marks)), (s.track 2).committed)) (exec .axlePulse diverted)
      = some (some (some { track := 2, reason := .alternate }, 0), 150) := by decide +kernel

theorem test_first_axle_overfills_the_default :
    look (fun s => ((s.record 1001).map (fun r => (r.assigned, r.marks)), (s.track 6).committed)) (exec .axlePulse allClosed)
      = some (some (some { track := 6, reason := .defaultFull }, 0x100), 150) := by decide +kernel

/-- A alone, on its track, an alternate and the default track; and B behind A, whose claims stand at points 1, 2 and 4. -/
theorem witness_FirstAxleReleasesTheQueueHead :
    (listed.runState = .running ∧ listed.crest = .idle ∧ listed.remnantDue = none ∧ listed.queue = 1001 :: [1002, 1003]
      ∧ listed.record 1001 = some (cut 1001 1) ∧ (cut 1001 1).origin = .listed ∧ (cut 1001 1).requested = some 1
      ∧ (cut 1001 1).joined = none ∧ (cut 1001 1).assigned = none ∧ (cut 1001 1).state = .pending ∧ (cut 1001 1).head = none
      ∧ listed.inTree < 24 ∧ listed.canTake 1 (listed.effective 1001) = true ∧ ((listed.tree.route 1).map Prod.fst).Nodup)
    ∧ ((releaseChoice diverted 1 (diverted.effective 1001)).track = 2 ∧ diverted.canTake 2 (diverted.effective 1001) = true
      ∧ ((diverted.tree.route 2).map Prod.fst).Nodup)
    ∧ ((releaseChoice allClosed 1 (allClosed.effective 1001)).track = 6 ∧ allClosed.canTake 6 (allClosed.effective 1001) = false
      ∧ ((allClosed.tree.route 6).map Prod.fst).Nodup)
    ∧ (afterA.runState = .running ∧ afterA.crest = .idle ∧ afterA.remnantDue = none ∧ afterA.queue = 1002 :: [1003]
      ∧ afterA.record 1002 = some (cut 1002 6) ∧ afterA.inTree < 24 ∧ (1, Position.reverse) ∈ afterA.tree.route 6
      ∧ afterA.claimsAt 1 = [claim 1001 .normal] ∧ afterA.claimsAt 3 = [])
    ∧ (∀ p, listed.claimOf p 1001 = none) ∧ ∀ p, afterA.claimOf p 1002 = none :=
  ⟨by decide +kernel, by decide +kernel, by decide +kernel, by decide +kernel, fun _ => rfl,
   forall_read (P := fun l : List Claim => l.find? (fun c => c.cut == 1002) = none) _ _ rfl (by decide +kernel)⟩

def openHead : State := { empty with records := [{ cut 1001 1 with requested := none }], queue := [1001] }
def overloaded : State := { listed with inTree := 24 }
/-- The unlisted numbers 61440, or 65535, in use already. -/
def numberTaken : State := { empty with records := [{ cut 61440 1 with state := .settled, origin := .noList, outcome := some 1 }] }
def lastNumberTaken : State :=
  { empty with records := [{ cut 65535 1 with state := .settled, origin := .noList, outcome := some 1 }], unlistedCounter := 65535 }

/-- R22: the counter passes over a number that a record carries, and goes round. -/
theorem test_unlisted_number_passes_over_a_record :
    look (fun s => (s.crestCut, s.unlistedCounter)) (exec .axlePulse numberTaken) = some (some 61441, 61442)
    ∧ look (fun s => (s.crestCut, s.unlistedCounter)) (exec .axlePulse lastNumberTaken) = some (some 61440, 61441) := by decide +kernel

/-- An OPEN queue head; an empty queue, a remnant due and a release in STANDBY, each with a free slot, and with the tree full or not; no free
slot; a listed queue head with the tree full. -/
theorem witness_OtherFirstAxles :
    (openHead.runState = .running ∧ openHead.crest = .idle ∧ openHead.remnantDue = none ∧ openHead.queue = 1001 :: []
      ∧ openHead.record 1001 = some { cut 1001 1 with requested := none } ∧ openHead.inTree < 24)
    ∧ (empty.runState = .running ∧ empty.crest = .idle ∧ empty.remnantDue = none ∧ empty.queue = [] ∧ empty.records.length < 48
      ∧ empty.inTree < 24 ∧ (61440 ≤ empty.unlistedCounter ∧ empty.unlistedCounter ≤ 65535) ∧ empty.record empty.unlistedCounter = none
      ∧ numberTaken.queue = [] ∧ (numberTaken.record 61440).isSome = true ∧ numberTaken.record 61441 = none
      ∧ (lastNumberTaken.record 65535).isSome = true ∧ lastNumberTaken.record 61440 = none ∧ 24 ≤ ({ empty with inTree := 24 } : State).inTree)
    ∧ (({ listed with remnantDue := some 1000 } : State).remnantDue.map Origin.remnant = some (.remnant 1000)
      ∧ listed.runState ≠ .halted ∧ listed.crest = .idle ∧ listed.records.length < 48 ∧ listed.record listed.unlistedCounter = none)
    ∧ (({ listed with runState := .standby } : State).runState = .standby ∧ listed.remnantDue = none)
    ∧ (({ full with queue := [] } : State).queue = [] ∧ 48 ≤ ({ full with queue := [] } : State).records.length)
    ∧ (overloaded.queue = 1001 :: [1002, 1003] ∧ overloaded.record 1001 = some (cut 1001 1) ∧ (cut 1001 1).state = .pending
      ∧ 24 ≤ overloaded.inTree) := by decide +kernel

def leaderD : Record :=
  { rolling 1004 5 1 3 0 400 0 with
    state := .releasing, head := none, tail := none, headEntry := none, stallDeadline := none, firstAxle := 32000, timed := false }

def lastPair : State := { together with queue := [] }

/-- An untracked group, and a group with no crest cut. -/
def untracked : State := { together with crestCut := none, target := none, clock := 34100 }
def crestless : State := { together with crestCut := none, clock := 34100 }

/-- Within the declared axles, past them with no cut to join, in STANDBY, with no crest cut, or with three followers, with no declared axles, and with no target. -/
theorem witness_PulsesAreCounted :
    (together.runState ≠ .halted ∧ together.crest = .counting ∧ together.target = some 1004 ∧ together.record 1004 = some leaderD)
    ∧ (lastPair.record 1004 = some leaderD ∧ leaderD.declaredAxles = some 4 ∧ ¬ leaderD.measuredAxles < 4 ∧ lastPair.queue = []
      ∧ ({ together with runState := .standby } : State).runState = .standby ∧ crestless.crestCut = none)
    ∧ (({ together with records := [{ leaderD with joined := some (.leader [1001, 1002, 1003]) }] } : State).record 1004
        = some { leaderD with joined := some (.leader [1001, 1002, 1003]) }
      ∧ 3 ≤ ({ leaderD with joined := some (.leader [1001, 1002, 1003]) } : Record).followers.length)
    ∧ (({ together with records := [{ leaderD with measuredAxles := 3 }] } : State).record 1004 = some { leaderD with measuredAxles := 3 }
      ∧ 3 < 4)
    ∧ ({ together with records := [{ leaderD with declaredAxles := none }] } : State).record 1004
        = some { leaderD with declaredAxles := none }
    ∧ (untracked.runState ≠ .halted ∧ untracked.crest = .counting ∧ untracked.target = none) := by decide +kernel

/-- The ladder under REHUMP, and a crest cut in some condition. -/
def rehumping : State := { together with active := some (put ladder (settingsBase + 15) [2]) }
def ledBy (l : Record) (s : State) : State := { s with records := [l, cut 1005 2, cut 1006 2] }

/-- Under LEADER; under REHUMP with the default track below the head, the group bound elsewhere or for it already, and not below it; a crest cut
that waits for its track; one that is LOST, and one SETTLED. -/
theorem witness_JoinsUnderLeader :
    (together.runState = .running ∧ together.crest = .counting ∧ together.crestCut = some 1004 ∧ together.target = some 1004
      ∧ together.queue = 1005 :: [1006] ∧ together.record 1004 = some leaderD ∧ together.record 1005 = some (cut 1005 2)
      ∧ (cut 1005 2).state = .pending ∧ 1005 ≠ 1004 ∧ leaderD.declaredAxles = some 4 ∧ 4 ≤ leaderD.measuredAxles
      ∧ leaderD.followers.length < 3 ∧ 1005 ∉ leaderD.followers ∧ leaderD.state.inTree = true
      ∧ leaderD.assigned = some { track := 5, reason := .requested } ∧ joinPolicy together.layout ≠ 2)
    ∧ (rehumping.record 1004 = some leaderD ∧ joinPolicy rehumping.layout = 2 ∧ defaultTrack rehumping.layout = 6 ∧ 5 ≠ 6
      ∧ rehumping.tree.trackBelow 6 (leaderD.head.getD 1) = true ∧ ((rehumping.tree.route 6).map Prod.fst).Nodup
      ∧ (5, Position.reverse) ∈ rehumping.tree.route 6 ∧ rehumping.claimOf 5 1004 = some (claim 1004 .normal)
      ∧ ({ rehumping with claims := [] } : State).claimOf 5 1004 = none ∧ rehumping.atOrBelowHead leaderD 5 = true
      ∧ leaderD.state = .releasing)
    ∧ (({ leaderD with assigned := some { track := 6, reason := .requested } } : Record).assigned.map Assignment.track = some 6)
    ∧ rehumping.tree.trackBelow 6 (({ leaderD with head := some 3 } : Record).head.getD 1) = false
    ∧ ((ledBy { leaderD with assigned := none } rehumping).record 1004 = some { leaderD with assigned := none }
      ∧ (ledBy { leaderD with assigned := none } together).record 1004 = some { leaderD with assigned := none })
    ∧ (ledBy { leaderD with state := .lost, lostReason := some .abandoned } together).record 1004
        = some { leaderD with state := .lost, lostReason := some .abandoned }
    ∧ (ledBy { leaderD with state := .settled, outcome := some 5 } together).record 1004
        = some { leaderD with state := .settled, outcome := some 5 } := by decide +kernel

def shortGroup : State := { together with clock := 34100, records := [{ leaderD with measuredAxles := 3 }, cut 1005 2, cut 1006 2] }

/-- A full group and one that fell short; a group with no target, one of them with a crest cut; and one with no crest cut. -/
theorem witness_SeparationEndsTheGroup :
    (({ together with clock := 34100 } : State).crest = .counting ∧ together.separation = some 34100 ∧ after 34100 34100 = false
      ∧ together.crestCut = some 1004 ∧ together.target = some 1004 ∧ together.record 1004 = some leaderD)
    ∧ (shortGroup.separation = some 34100 ∧ shortGroup.record 1004 = some { leaderD with measuredAxles := 3 }
      ∧ leaderD.declaredAxles = some 4 ∧ 3 < 4)
    ∧ (untracked.crest = .counting ∧ untracked.separation = some 34100 ∧ after 34100 untracked.clock = false ∧ untracked.target = none
      ∧ ({ untracked with crestCut := some 1004 } : State).record 1004 = some leaderD)
    ∧ (crestless.crest = .counting ∧ crestless.separation = some 34100 ∧ crestless.crestCut = none ∧ crestless.target = some 1004
      ∧ crestless.record 1004 = some leaderD) := by decide +kernel

/-- Point 5 while B comes to it; section 6 with no room. -/
def movingFive (e : PointEntry) : State :=
  { caughtUp with points := [(1, setPoint), (2, setPoint), (3, setPoint), (4, setPoint), (5, e)] }
def crowdedSix : State :=
  { caughtUp with sections := [(2, holding [1003]), (4, holding [1002]), (6, holding [1, 2, 3, 4])] }
/-- B's claim at point 3 names the other branch. -/
def strayedB : State :=
  { caughtUp with claims := [(1, [claim 1003 .reverse]), (3, [claim 1002 .normal, claim 1003 .normal]), (5, [claim 1002 .reverse])] }

/-- Four diversion entries. -/
def fourDiversions : List Diversion := List.replicate 4 { point := 2, reason := .tooLate }
/-- B with its stand timer run out, its head entry time timed and untimed; unplanned-below at point 3, for a track it still can reach and for
another. -/
def stoodB : Record := { stalledB with standTimer := .ranOut }
def untimedB : Record := { stalledB with timed := false }
def unplannedB : Record := { stalledB with unplannedBelow := some 3 }
def withB (r : Record) : State := { caughtUp with records := [r, lateC] }

/-- R104: 10 cm/s with the mark; the speed kept. -/
theorem test_entry_after_a_long_stand :
    look (fun s => (s.record 1002).map (fun r => (r.state, r.speed, r.marks))) (exec (.sectionOccupied 6) (withB stoodB))
      = some (some (.rolling, some 10, 0x004))
    ∧ look (fun s => (s.record 1002).map (fun r => (r.state, r.speed, r.marks))) (exec (.sectionOccupied 6) (withB untimedB))
      = some (some (.rolling, some 500, 0)) := by decide +kernel

/-- R129, R32. -/
theorem test_entry_of_an_unplanned_cut_and_a_fifth_diversion :
    look (fun s => (s.record 1002).map (fun r => (r.assigned, r.unplannedBelow)))
        (exec (.sectionOccupied 6) (withB { unplannedB with assigned := some { track := 4, reason := .requested } }))
      = some (some (some { track := 6, reason := .diverted }, none))
    ∧ look (fun s => (s.record 1002).map (fun r => (r.diversions.length, r.more)))
        (exec (.sectionOccupied 6) { strayedB with records := [{ stalledB with diversions := fourDiversions }, lateC] })
      = some (some (4, true)) := by decide +kernel

/-- D comes into section 1, and B into section 6: as claimed, untimed, after a long stand, against its claim, with four diversion entries,
unplanned-below, at a THROWING and a SETTLING point, and with no room. -/
theorem witness_EntrantsAreCredited :
    ((1 ≤ 1 ∧ 1 ≤ 128) ∧ together.runState ≠ .halted ∧ together.channel 1 = false ∧ sectionOfChannel together.layout 1 = some 1
      ∧ together.entrant 1 = some 1004 ∧ together.record 1004 = some leaderD ∧ (together.section 1).occupants.length < 4
      ∧ leaderD.head = none ∧ leaderD.tail = none)
    ∧ ((1 ≤ 6 ∧ 6 ≤ 128) ∧ caughtUp.runState ≠ .halted ∧ caughtUp.channel 6 = false ∧ sectionOfChannel caughtUp.layout 6 = some 6
      ∧ caughtUp.entrant 6 = some 1002 ∧ caughtUp.record 1002 = some stalledB ∧ (caughtUp.section 6).occupants.length < 4
      ∧ stalledB.head = some 4 ∧ stalledB.headEntry = some 22000 ∧ stalledB.timed = true ∧ stalledB.standTimer ≠ .ranOut
      ∧ 1002 ∉ (caughtUp.section 6).occupants)
    ∧ ((withB stoodB).entrant 6 = some 1002 ∧ (withB stoodB).record 1002 = some stoodB ∧ stoodB.timed = true ∧ stoodB.standTimer = .ranOut
      ∧ (withB untimedB).entrant 6 = some 1002 ∧ (withB untimedB).record 1002 = some untimedB ∧ untimedB.timed = false)
    ∧ ((withB unplannedB).entrant 6 = some 1002 ∧ (withB unplannedB).record 1002 = some unplannedB ∧ unplannedB.unplannedBelow = some 3
      ∧ caughtUp.tree.trackBelow 6 6 = true ∧ caughtUp.tree.trackBelow 4 6 = false)
    ∧ (({ strayedB with records := [{ stalledB with diversions := fourDiversions }, lateC] } : State).entrant 6 = some 1002
      ∧ 4 ≤ fourDiversions.length)
    ∧ (pointOfSection caughtUp.layout 4 = some 3 ∧ branchTo caughtUp.layout 3 6 = some .reverse ∧ caughtUp.detection 3 = some .reverse
      ∧ caughtUp.claimOf 3 1002 = some (claim 1002 .reverse))
    ∧ (strayedB.entrant 6 = some 1002 ∧ strayedB.record 1002 = some stalledB ∧ strayedB.claimOf 3 1002 = some (claim 1002 .normal)
      ∧ stalledB.diversions.length < 4 ∧ stalledB.assigned = some { track := 6, reason := .requested } ∧ strayedB.tree.trackBelow 6 6 = true)
    ∧ (pointOfSection caughtUp.layout 6 = some 5 ∧ switchSection caughtUp.layout 5 = 6 ∧ (caughtUp.point 5).state = .atRest
      ∧ (movingFive (throwingPoint 40000)).entrant 6 = some 1002 ∧ ((movingFive (throwingPoint 40000)).point 5).state = .throwing
      ∧ (movingFive { setPoint with state := .settling, target := some .reverse, settleTimer := some 40000 }).entrant 6 = some 1002)
    ∧ (crowdedSix.entrant 6 = some 1002 ∧ crowdedSix.record 1002 = some stalledB ∧ stalledB.state.inTree = true
      ∧ 4 ≤ (crowdedSix.section 6).occupants.length) := by decide +kernel

def heldEmpty : State := withSection 1 false { SectionEntry.initial with unproven := true, proving := some 23000 } []

/-- D and another cut with no head section; and B drawn out of section 2, where C has its head. -/
def twoComing : State :=
  { together with records := [{ leaderD with number := 1001, releaseSeq := some 4 }, leaderD], inTree := 2, seqCounter := 5, queue := [] }
def trailing : State := { caughtUp with sections := [(2, holding [1002, 1003]), (4, holding [1002])] }

theorem record_mem {s : State} {n : Nat} {r : Record} (h : s.record n = some r) : r ∈ s.records ∧ r.number = n :=
  ⟨List.mem_of_find?_eq_some h, by simpa using List.find?_some h⟩

theorem witness_NoEntrantIsUnexplained :
    (((twoComing.records.map Record.number).Nodup ∧ twoComing.record 1004 = some leaderD ∧ leaderD.state.inTree = true ∧ leaderD.head = none)
      ∧ ∀ m q, twoComing.record m = some q → q.state.inTree = true → q.head = none → m ≠ 1004 → twoComing.ReleasedBefore 1004 m)
    ∧ ((empty.records.map Record.number).Nodup ∧ ∀ n r, empty.record n = some r → r.state.inTree = true → r.head ≠ none)
    ∧ ((3 ≠ 1 ∧ trailing.tree.upstream 3 = some 2 ∧ (trailing.section 2).occupants = [1002] ++ 1003 :: []
        ∧ trailing.record 1003 = some lateC ∧ lateC.head = some 2)
      ∧ ∀ m ∈ [1002], ∀ q, trailing.record m = some q → q.head ≠ some 2)
    ∧ (∀ u, empty.tree.upstream 3 = some u → ∀ n ∈ (empty.section u).occupants, ∀ r, empty.record n = some r → r.head ≠ some u)
    ∧ (empty.runState ≠ .halted ∧ empty.channel 3 = false ∧ sectionOfChannel empty.layout 3 = some 3 ∧ empty.entrant 3 = none
      ∧ (empty.section 3).unproven = false)
    ∧ (heldEmpty.runState ≠ .halted ∧ heldEmpty.channel 1 = false ∧ sectionOfChannel heldEmpty.layout 1 = some 1
      ∧ heldEmpty.entrant 1 = none ∧ (heldEmpty.section 1).unproven = true ∧ (heldEmpty.section 1).unexplained = false)
    ∧ (pointOfSection empty.layout 4 = some 3 ∧ switchSection empty.layout 3 = 4
      ∧ (withPoint3 (throwingPoint 9800) .off 8900).entrant 4 = none ∧ (withPoint3 (throwingPoint 9800) .off 8900).channel 4 = false
      ∧ ((withPoint3 (throwingPoint 9800) .off 8900).point 3).state = .throwing
      ∧ (withPoint3 settlingPoint south 8900).entrant 4 = none ∧ ((withPoint3 settlingPoint south 8900).point 3).state = .settling) := 
  ⟨⟨by decide +kernel, fun m q h hi hh hm =>
      have h' := record_mem h
      h'.2 ▸ (by decide +kernel : ∀ q ∈ twoComing.records, q.number ≠ 1004 → twoComing.age q.number < twoComing.age 1004
        ∨ (twoComing.age q.number = twoComing.age 1004 ∧ 1004 < q.number)) q h'.1 (h'.2 ▸ hm)⟩,
   ⟨by decide +kernel, fun _ r h => absurd (show r ∈ ([] : List Record) from (record_mem h).1) (by simp)⟩,
   ⟨by decide +kernel, fun m hm q h => (by decide +kernel : ∀ q ∈ trailing.records, q.number ∈ [1002] → q.head ≠ some 2) q (record_mem h).1
      ((record_mem h).2 ▸ hm)⟩,
   fun _ _ n hn => absurd (show n ∈ ([] : List Nat) from hn) (by simp), by decide +kernel⟩

/-- B across sections 4 and 6. -/
def drawing : State :=
  { caughtUp with
    records := [{ rolling 1002 6 6 1 33000 109 101805 with tail := some 4 }], inTree := 1
    channels := [(4, true), (6, true)], sections := [(4, holding [1002]), (6, holding [1002])] }

/-- B across sections 2, 4 and 6; and B across 4 and 6 with C coming in time to point 3, which lies REVERSE. -/
def longSpan : State :=
  { drawing with
    records := [{ rolling 1002 6 6 1 33000 109 101805 with tail := some 2 }]
    channels := [(2, true), (4, true), (6, true)], sections := [(2, holding [1002]), (4, holding [1002]), (6, holding [1002])] }
def closeBehind : State :=
  { drawing with
    clock := 29000, inTree := 2, records := [{ rolling 1002 6 6 1 28900 500 101805 with tail := some 4 }, lateC]
    sections := [(2, holding [1003]), (4, holding [1002]), (6, holding [1002])], channels := [(2, true), (4, true), (6, true)] }

/-- R90, R82: section 4 clears before section 2. -/
theorem test_clear_in_mid_span_leaves_the_lists_behind :
    look (fun s => ((s.record 1002).map (fun r => (r.tail, r.head)), (s.section 2).occupants, (s.section 6).occupants, s.claimOf 3 1002))
        (exec (.sectionClear 4) longSpan)
      = some (some (some 6, some 6), [], [1002], none) := by decide +kernel

/-- R101, R120: point 3 is thrown for C as section 4 clears. -/
theorem test_clear_switch_section_throws_for_the_next :
    look (fun s => ((s.point 3).state, (s.point 3).drive)) (exec (.sectionClear 4) closeBehind) = some (.throwing, some .normal) := by
  decide +kernel

theorem witness_TailLeavesTheSection :
    (Canonical longSpan ∧ longSpan.runState ≠ .halted ∧ longSpan.channel 4 = true ∧ (longSpan.section 4).occupants = [1002]
      ∧ longSpan.record 1002 = some { rolling 1002 6 6 1 33000 109 101805 with tail := some 2 } ∧ 1002 ∈ (longSpan.section 6).occupants
      ∧ 1002 ∈ (longSpan.section 2).occupants)
    ∧ (closeBehind.channel 4 = true ∧ (closeBehind.section 4).occupants = [1002] ∧ closeBehind.claimOf 3 1003 = some (claim 1003 .normal)
      ∧ closeBehind.record 1003 = some lateC ∧ closeBehind.detected 3 ≠ .at .normal ∧ (closeBehind.point 3).state = .atRest
      ∧ (closeBehind.point 3).mode = .auto ∧ after closeBehind.clock (closeBehind.lastMomentAt lateC 3) = false
      ∧ pointOfSection closeBehind.layout 4 = some 3 ∧ switchSection closeBehind.layout 3 = 4)
    ∧ Canonical drawing ∧ ((1 ≤ 4 ∧ 4 ≤ 128) ∧ drawing.runState ≠ .halted ∧ drawing.channel 4 = true ∧ sectionOfChannel drawing.layout 4 = some 4
      ∧ (drawing.section 4).occupants = [1002]
      ∧ drawing.record 1002 = some { rolling 1002 6 6 1 33000 109 101805 with tail := some 4 } ∧ 6 ≠ 4
      ∧ 1002 ∈ (drawing.section 6).occupants ∧ drawing.tree.sectionBelow 6 4 = true)
    ∧ ∀ y, 1002 ∈ (drawing.section y).occupants → y = 4 ∨ y = 6 := by
  refine ⟨⟨canonical_of _ ladder rfl test_ladder_passes_the_checks.2 rfl rfl rfl (by decide +kernel), by decide +kernel⟩, by decide +kernel,
    canonical_of _ ladder rfl test_ladder_passes_the_checks.2 rfl rfl rfl (by decide +kernel), by decide +kernel, fun y h => ?_⟩
  simp only [State.section, drawing, Table.read] at h
  by_cases h4 : y = 4
  · exact .inl h4
  · by_cases h6 : y = 6
    · exact .inr h6
    · rw [if_neg (Ne.symm h4), if_neg (Ne.symm h6)] at h
      exact absurd h (by decide)

def wanderingA : State := { homeA with records := [rolling 1001 6 5 0 17400 500 30000] }

def undetectedA : State := { homeA with detections := [(1, north), (2, north), (3, north), (5, south)] }

/-- A home on its own track, on another, also with four diversion entries, and with point 4 undetected. -/
theorem witness_CutSettlesOnItsTrack :
    (homeA.runState ≠ .halted ∧ homeA.channel 5 = true ∧ sectionOfChannel homeA.layout 5 = some 5 ∧ (homeA.section 5).occupants = [1001]
      ∧ homeA.record 1001 = some (rolling 1001 1 5 0 17400 500 30000) ∧ pointOfSection homeA.layout 5 = some 4
      ∧ homeA.detection 4 = some .normal ∧ branchTarget homeA.layout 4 .normal = .track 1)
    ∧ (wanderingA.record 1001 = some (rolling 1001 6 5 0 17400 500 30000) ∧ pointOfSection wanderingA.layout 5 = some 4
      ∧ wanderingA.detection 4 = some .normal ∧ 6 ≠ 1
      ∧ 4 ≤ ({ rolling 1001 6 5 0 17400 500 30000 with diversions := fourDiversions } : Record).diversions.length)
    ∧ (undetectedA.channel 5 = true ∧ (undetectedA.section 5).occupants = [1001] ∧ undetectedA.detection 4 = none
      ∧ undetectedA.record 1001 = some (rolling 1001 1 5 0 17400 500 30000)
      ∧ branchTarget undetectedA.layout 4 .normal = .track 1) := by decide +kernel

def leavingOne : State := withSection 1 true (holding [1001]) [rolling 1001 1 1 0 6000 400 28500]

/-- C's claim at point 1 names the branch it does not take; the section in front of C has no room. -/
def contraryC : State := { caughtUp with claims := [(1, [claim 1003 .normal]), (3, [claim 1002 .reverse])] }
def crowdedFour : State := { caughtUp with sections := [(2, holding [1003]), (4, holding [1002, 1, 2, 3])] }

/-- C in section 2 with point 1 undetected. -/
def unseenC : State := { caughtUp with detections := [(2, north), (3, south), (4, north), (5, south)] }

/-- R91, R93: point 1 has no detection, and both of its branches name sections. -/
theorem test_unknown_way_out_is_held :
    look (fun s => (s.shownState 2, (s.section 2).occupants, (s.section 2).proving.isSome)) (exec (.sectionClear 2) unseenC)
      = some (.unproven, [1003], true) := by decide +kernel

/-- A held behind a clear section; C behind a point without detection; C closed up into section 4, unplanned-below at point 1, against its claim, also with four diversion entries, and
with no room there. -/
theorem witness_UnseenWayOutIsHeld :
    (leavingOne.runState ≠ .halted ∧ leavingOne.channel 1 = true ∧ sectionOfChannel leavingOne.layout 1 = some 1
      ∧ (leavingOne.section 1).occupants = [1001] ∧ leavingOne.record 1001 = some (rolling 1001 1 1 0 6000 400 28500)
      ∧ leavingOne.wayOut 1 = some (.sec 2) ∧ leavingOne.sectionInput 2 = false)
    ∧ ((unseenC.section 2).occupants = [1003] ∧ unseenC.record 1003 = some lateC ∧ pointOfSection unseenC.layout 2 = some 1
      ∧ unseenC.detection 1 = none ∧ branchTarget unseenC.layout 1 .normal = .sec 3 ∧ branchTarget unseenC.layout 1 .reverse = .sec 4)
    ∧ (caughtUp.runState ≠ .halted ∧ caughtUp.channel 2 = true ∧ sectionOfChannel caughtUp.layout 2 = some 2
      ∧ (caughtUp.section 2).occupants = [1003] ∧ caughtUp.record 1003 = some lateC ∧ lateC.state.inTree = true ∧ lateC.head = some 2
      ∧ caughtUp.wayOut 2 = some (.sec 4) ∧ caughtUp.sectionInput 4 = true ∧ sectionChannel caughtUp.layout 4 ≠ 2
      ∧ (caughtUp.section 4).occupants.length < 4 ∧ pointOfSection caughtUp.layout 2 = some 1 ∧ caughtUp.detection 1 = some .reverse
      ∧ caughtUp.claimOf 1 1003 = some (claim 1003 .reverse))
    ∧ (contraryC.wayOut 2 = some (.sec 4) ∧ contraryC.record 1003 = some lateC ∧ contraryC.claimOf 1 1003 = some (claim 1003 .normal)
      ∧ contraryC.detection 1 = some .reverse ∧ lateC.diversions.length < 4)
    ∧ (({ contraryC with records := [stalledB, { lateC with diversions := fourDiversions }] } : State).record 1003
        = some { lateC with diversions := fourDiversions }
      ∧ ({ caughtUp with records := [stalledB, { lateC with unplannedBelow := some 1 }] } : State).record 1003
        = some { lateC with unplannedBelow := some 1 } ∧ caughtUp.tree.trackBelow 4 4 = true)
    ∧ (crowdedFour.wayOut 2 = some (.sec 4) ∧ crowdedFour.record 1003 = some lateC ∧ 4 ≤ (crowdedFour.section 4).occupants.length)
    ∧ (∀ v, sectionUsed leavingOne.layout v = true → sectionChannel leavingOne.layout v = 1 → v = 1)
    ∧ ∀ v, sectionUsed unseenC.layout v = true → sectionChannel unseenC.layout v = 2 → v = 2 := by
  have h : ∀ v ∈ List.range 129, sectionUsed ladder v = true →
      (sectionChannel ladder v = 1 → v = 1) ∧ (sectionChannel ladder v = 2 → v = 2) := by decide +kernel
  have hr : ∀ v, sectionUsed ladder v = true → v ∈ List.range 129 := fun v hu => by have := sectionUsed_le hu; simp; omega
  exact ⟨by decide +kernel, by decide +kernel, by decide +kernel, by decide +kernel, by decide +kernel, by decide +kernel,
    fun v hu hc => (h v (hr v hu) hu).1 hc, fun v hu hc => (h v (hr v hu) hu).2 hc⟩

def unprovenA : State :=
  withSection 1 false { holding [1001] with unproven := true, proving := some 20000 } [rolling 1001 1 1 0 6000 400 28500]

theorem followed_unprovenA : Followed unprovenA :=
  ⟨canonical_of _ ladder rfl test_ladder_passes_the_checks.2 rfl rfl rfl (by decide +kernel),
   ⟨by decide +kernel, by decide +kernel, bounded_of _ (by decide +kernel), by decide +kernel, by decide +kernel, by decide +kernel,
    by decide +kernel, by decide +kernel, by decide +kernel⟩,
   forall_read (P := fun e : SectionEntry => ∀ n ∈ e.occupants, unprovenA.isInTree n = true) _ _ (by decide +kernel) (by decide +kernel),
   forall_read (P := fun e : SectionEntry => e.occupants.Nodup) _ _ (by decide +kernel) (by decide +kernel),
   forall_read (P := fun e : SectionEntry => e.occupants.length ≤ Config.maxOccupants) _ _ (by decide +kernel) (by decide +kernel),
   forall_read (P := fun l : List Claim => ∀ c ∈ l, unprovenA.isInTree c.cut = true) _ _ (by decide +kernel) (by decide +kernel),
   forall_read (P := fun l : List Claim => (l.map Claim.cut).Nodup) _ _ (by decide +kernel) (by decide +kernel)⟩

/-- B held in section 4, alone and with C. -/
def heldB (l : List Nat) : State :=
  { caughtUp with
    channels := [(2, true)]
    sections := [(2, holding [1003]), (4, { holding l with unproven := true, proving := some 33000 })] }

/-- R86, R93: B comes out of the hold into section 6. -/
theorem test_entry_out_of_a_hold :
    look (fun s => ((s.record 1002).map (fun r => (r.head, r.tail)), s.section 4, s.claimOf 3 1002)) (exec (.sectionOccupied 6) (heldB [1002]))
      = some (some (some 6, some 6), SectionEntry.initial, none)
    ∧ look (fun s => s.section 4) (exec (.sectionOccupied 6) (heldB [1002, 1003]))
      = some { holding [1003] with unproven := true, proving := some 33000 } := by decide +kernel

theorem witness_HoldRunsOut :
    (Followed unprovenA ∧ (unprovenA.section 1).unproven = true ∧ (unprovenA.section 1).unexplained = false
      ∧ (unprovenA.section 1).proving = some 20000 ∧ after 20000 unprovenA.clock = false)
    ∧ ((heldB [1002]).runState ≠ .halted ∧ (heldB [1002]).channel 6 = false ∧ sectionOfChannel (heldB [1002]).layout 6 = some 6
      ∧ (heldB [1002]).entrant 6 = some 1002 ∧ (heldB [1002]).record 1002 = some stalledB ∧ ((heldB [1002]).section 6).occupants.length < 4
      ∧ stalledB.head = some 4 ∧ 4 ≠ 6 ∧ sectionChannel (heldB [1002]).layout 4 ≠ 6 ∧ (heldB [1002]).shownState 4 = .unproven
      ∧ ((heldB [1002]).section 4).occupants = [1002])
    ∧ ((heldB [1002, 1003]).entrant 6 = some 1002 ∧ (heldB [1002, 1003]).shownState 4 = .unproven
      ∧ 1003 ∈ ((heldB [1002, 1003]).section 4).occupants) :=
  ⟨⟨followed_unprovenA, by decide +kernel⟩, by decide +kernel⟩

def longAfter : State := { caughtUp with clock := 2147505647 }
def rollingB : Record := rolling 1002 6 4 1 22000 500 29200

theorem witness_StallAndStandTimersRunOut :
    ((({ caughtUp with records := [rollingB, lateC] } : State).record 1002 = some rollingB)
      ∧ (rollingB.state = .releasing ∨ rollingB.state = .rolling) ∧ rollingB.stallDeadline = some 29200 ∧ after 29200 caughtUp.clock = false
      ∧ rollingB.head = some 4 ∧ rollingB.headEntry = some 22000)
    ∧ (longAfter.record 1002 = some stalledB ∧ stalledB.state = .stalled ∧ stalledB.standTimer = .running 2147505647
      ∧ after 2147505647 longAfter.clock = false ∧ stalledB.timed = true ∧ stalledB.head = some 4 ∧ stalledB.headEntry = some 22000) := by
  decide +kernel

/-- C with its head in section 2, D with no head section, and a cut that waits for its track. -/
theorem witness_LastMomentReckoning :
    (lateC.speed = some 400 ∧ (10 ≤ 400 ∧ 400 ≤ 1500) ∧ lateC.headEntry = some 27500 ∧ lateC.head ≠ none)
    ∧ (switchSection caughtUp.layout 3 = 4 ∧ 4 ∉ [2] ∧ lateC.head = some 2 ∧ 2 ∉ [1] ∧ ([2] ++ 4 :: []).head? = some 2
      ∧ caughtUp.reckoningPath lateC = [1] ++ [2] ++ 4 :: [])
    ∧ (leaderD.head = none ∧ leaderD.firstAxle = 32000 ∧ leaderD.speed = some 400 ∧ 4 ∉ [1, 2]
      ∧ together.reckoningPath leaderD = [1, 2] ++ 4 :: [6])
    ∧ (waitingC.assigned = none ∧ waiting.tree.rootPoint = some 1) := by decide +kernel

def concedingC : State :=
  { caughtUp with claims := [(1, [claim 1003 .reverse]), (3, [claim 1003 .normal])], detections := [(1, south), (3, north)] }

/-- C alone at point 3, in some state and detected position. -/
def alone (e : PointEntry) (d : DetectionPair) : State := { withPoint3 e d 8900 with claims := [(3, [claim 1003 .normal])] }

/-- The expected position by a claim ahead, by a target, by the detection, and unknown; a concession; and a cut that waits for its track. -/
theorem witness_ConcessionsAndWaitingCuts :
    (caughtUp.claimsAt 3 = ([] ++ [claim 1002 .reverse]) ++ claim 1003 .normal :: [] ∧ ∀ d ∈ [claim 1002 .reverse], d.cut ≠ 1003)
    ∧ (((alone (throwingPoint 9800) .off).point 3).state = .throwing ∧ (alone settlingPoint south).claimsAt 3 = [] ++ claim 1003 .normal :: []
      ∧ ((alone settlingPoint south).point 3).state = .settling ∧ ((alone setPoint south).point 3).state ≠ .throwing
      ∧ ((alone setPoint south).point 3).state ≠ .settling ∧ (alone setPoint south).detected 3 = .at .reverse
      ∧ (alone setPoint .off).detected 3 = .none ∧ (alone setPoint { normal := true, reverse := true }).detected 3 = .both)
    ∧ (concedingC.record 1003 = some lateC ∧ lateC.state.inTree = true ∧ lateC.timer = .running 30051 ∧ after 30051 concedingC.clock = false
      ∧ lateC.assigned = some { track := 4, reason := .requested } ∧ lateC.watch = some 3 ∧ concedingC.claimOf 3 1003 = some (claim 1003 .normal)
      ∧ concedingC.expectedPosition 3 1003 = some .normal)
    ∧ (waiting.record 1003 = some waitingC ∧ waitingC.state.inTree = true ∧ waitingC.timer = .running 30051
      ∧ after 30051 waiting.clock = false ∧ waitingC.assigned = none ∧ defaultTrack waiting.layout = 6
      ∧ ((waiting.tree.route 6).map Prod.fst).Nodup ∧ (5, Position.reverse) ∈ waiting.tree.route 6 ∧ waiting.claimOf 5 1003 = none
      ∧ waiting.atOrBelowHead waitingC 5 = true ∧ waitingC.state = .rolling) := by decide +kernel

/-- C bound for track 6 and for track 4 at point 3, and a cut for track 2 that point 4 will send to track 1. -/
def keptC : State :=
  { caughtUp with
    records := [stalledB, { lateC with assigned := some { track := 6, reason := .requested } }] }

def toTrack2 : Record := { rolling 1001 2 3 0 15000 500 30000 with watch := some 4, lastMoment := some 15500, timer := .running 15501 }
def wrongTrack : State :=
  { empty with
    clock := 15501, seqCounter := 1, inTree := 1, records := [toTrack2], sections := [(3, holding [1001])], channels := [(3, true)]
    claims := [(4, [claim 1001 .reverse])] }

/-- C alone at point 3, which is undetected. -/
def blindC : State := { concedingC with detections := [(1, south)] }

/-- R126: C keeps its track, and its claim is spent where it stands. -/
theorem test_diversion_at_an_undetected_point :
    look (fun s => ((s.record 1003).map (fun r => (r.assigned.map Assignment.track, r.diversions, r.unplannedBelow, r.watch)), s.claimsAt 3))
        (exec (.lastMomentExpiry 1003) blindC)
      = some (some (some 4, [{ point := 3, reason := .blocked }], some 3, none), [{ cut := 1003, position := .normal, spent := true }]) := by
  decide +kernel

theorem witness_DiversionReplansTheCut :
    (blindC.record 1003 = some lateC ∧ after 30051 blindC.clock = false ∧ blindC.claimOf 3 1003 = some (claim 1003 .normal)
      ∧ blindC.expectedPosition 3 1003 = none)
    ∧ (({ blindC with records := [stalledB, { lateC with diversions := fourDiversions }] } : State).record 1003
        = some { lateC with diversions := fourDiversions } ∧ 4 ≤ fourDiversions.length)
    ∧ (((caughtUp.tree.route 6).map Prod.fst).Nodup ∧ (3, Position.reverse) ∈ caughtUp.tree.route 6)
    ∧ (caughtUp.record 1003 = some lateC ∧ lateC.state.inTree = true ∧ lateC.timer = .running 30051 ∧ after 30051 caughtUp.clock = false
      ∧ lateC.watch = some 3 ∧ caughtUp.claimOf 3 1003 = some (claim 1003 .normal) ∧ caughtUp.expectedPosition 3 1003 = some .reverse
      ∧ lateC.diversions.length < 4 ∧ branchTarget caughtUp.layout 3 .reverse = .sec 6 ∧ caughtUp.tree.trackBelow 4 6 = false)
    ∧ (keptC.record 1003 = some { lateC with assigned := some { track := 6, reason := .requested } }
      ∧ keptC.expectedPosition 3 1003 = some .reverse ∧ keptC.tree.trackBelow 6 6 = true)
    ∧ (wrongTrack.record 1001 = some toTrack2 ∧ after 15501 wrongTrack.clock = false ∧ wrongTrack.claimOf 4 1001 = some (claim 1001 .reverse)
      ∧ wrongTrack.expectedPosition 4 1001 = some .normal ∧ branchTarget wrongTrack.layout 4 .normal = .track 1 ∧ 1 ≠ 2) := by
  decide +kernel

end Sys2Proof.Tests
end

section
/-! What the arrivals do at the edges of the board: lines it does not have, timers that are not due, and inputs that nothing follows. -/

namespace Sys2Proof.Machine

variable (s : State)

/-! ### Every arrival is taken -/

/-- A command that takes effect under a condition, and otherwise leaves the board as it is, is taken either way. -/
theorem next_ite {c : Prop} [Decidable c] (u v : State) :
    ∃ t, (if c then .next u else .next v : Host.Outcome State Fault Refusal) = .next t := by
  split <;> exact ⟨_, rfl⟩

theorem channelNumber_iff {n : Nat} : channelNumber n = true ↔ 1 ≤ n ∧ n ≤ 128 := by simp [channelNumber]

theorem pairNumber_iff {d : Nat} : pairNumber d = true ↔ 1 ≤ d ∧ d ≤ 64 := by simp [pairNumber]

theorem exec_sectionOccupied {n : Nat} (h : channelNumber n = true) :
    exec (.sectionOccupied n) s = if s.channel n then .next s else .next (finish (inputChanges n true s)) := by
  show execSectionOccupied n s = _
  simp [execSectionOccupied, h]

theorem exec_sectionClear {n : Nat} (h : channelNumber n = true) :
    exec (.sectionClear n) s = if s.channel n then .next (finish (inputChanges n false s)) else .next s := by
  show execSectionClear n s = _
  simp [execSectionClear, h]

theorem exec_detectionChange {d : Nat} (i : Position) (on : Bool) (h : pairNumber d = true) :
    exec (.detectionChange d i on) s
      = if (s.pair d).level i = on then .next s else .next (finish (detectionChanges d i on s)) := by
  show execDetectionChange d i on s = _
  simp [execDetectionChange, h]

theorem exec_axlePulse : exec .axlePulse s = if s.supervised then .next (finish (takePulse s)) else .next s := rfl

/-- The expiry of a cut's timer is taken whether or not the cut has a record (R103). -/
theorem exec_cutTimer_taken (n : Nat) :
    (∃ t, exec (.stallDeadlineExpiry n) s = .next t) ∧ (∃ t, exec (.standTimerExpiry n) s = .next t)
      ∧ ∃ t, exec (.lastMomentExpiry n) s = .next t := by
  simp only [exec, execStallDeadlineExpiry, execStandTimerExpiry, execLastMomentExpiry]
  cases s.record n with
  | none => exact ⟨⟨_, rfl⟩, ⟨_, rfl⟩, ⟨_, rfl⟩⟩
  | some r => exact ⟨next_ite _ _, next_ite _ _, next_ite _ _⟩

/-- The separation timer and the two ends of a commit are taken whether or not they are awaited (R59, R157). -/
theorem exec_boardTimer_taken (b : Bool) :
    (∃ t, exec .separation s = .next t) ∧ (∃ t, exec (.commitComplete b) s = .next t) ∧ ∃ t, exec .commitTimerExpiry s = .next t := by
  simp only [exec, execSeparation, execCommitComplete, execCommitTimerExpiry]
  refine ⟨?_, ?_, ?_⟩
  · cases s.separation with
    | none => exact ⟨_, rfl⟩
    | some l => exact next_ite _ _
  · cases s.commit <;> exact ⟨_, rfl⟩
  · cases s.commit with
    | none => exact ⟨_, rfl⟩
    | some k => exact next_ite _ _

/-- The board takes every well-formed command: a field event because its line exists, every other because none of its paths stops. -/
theorem exec_taken (c : Instr) (h : c.wf = true) : ∃ t, exec c s = .next t := by
  cases c with
  | sectionOccupied n => rw [exec_sectionOccupied s h]; exact next_ite _ _
  | sectionClear n => rw [exec_sectionClear s h]; exact next_ite _ _
  | detectionChange d i on => rw [exec_detectionChange s i on h]; exact next_ite _ _
  | axlePulse => rw [exec_axlePulse]; exact next_ite _ _
  | stallDeadlineExpiry n => exact (exec_cutTimer_taken s n).1
  | standTimerExpiry n => exact (exec_cutTimer_taken s n).2.1
  | lastMomentExpiry n => exact (exec_cutTimer_taken s n).2.2
  | provingTimerExpiry x => exact next_ite _ _
  | throwLimitExpiry p => exact next_ite _ _
  | settleTimerExpiry p => exact next_ite _ _
  | idleTimerExpiry p => exact next_ite _ _
  | separation => exact (exec_boardTimer_taken s true).1
  | commitComplete b => exact (exec_boardTimer_taken s b).2.1
  | commitTimerExpiry => exact (exec_boardTimer_taken s true).2.2
  | _ => exact ⟨_, rfl⟩

theorem channelNumber_outside {n : Nat} (h : n = 0 ∨ 128 < n) : channelNumber n = false := by
  rw [← Bool.not_eq_true, channelNumber_iff]
  omega

theorem pairNumber_outside {d : Nat} (h : d = 0 ∨ 64 < d) : pairNumber d = false := by
  rw [← Bool.not_eq_true, pairNumber_iff]
  omega

/-- Settles O4: `exec_taken` for the commands that can arrive, and the line checks for the lines the board does not have. -/
theorem everyArrivalIsTakenOrFaults : Obligations.EveryArrivalIsTakenOrFaults := by
  refine ⟨fun c s h => exec_taken s c h, fun n s h => ⟨?_, ?_⟩, fun d i on s h => ?_⟩
  · show execSectionOccupied n s = _
    simp [execSectionOccupied, channelNumber_outside h]
  · show execSectionClear n s = _
    simp [execSectionClear, channelNumber_outside h]
  · show execDetectionChange d i on s = _
    simp [execDetectionChange, pairNumber_outside h]

/-! ### Inputs that are only recorded (R2, R5, R84, R134) -/

theorem supervised_halted (h : s.runState = .halted) : s.supervised = false := by simp [State.supervised, h]

/-- A section input is not followed in HALTED, nor on a channel that no section in use names. -/
theorem inputChanges_unfollowed (c : Nat) (b : Bool) (h : s.runState = .halted ∨ sectionOfChannel s.layout c = none) :
    inputChanges c b s = setChannel c b s := by
  unfold inputChanges
  rcases h with h | h
  · simp only [supervised_halted s h]
    split <;> rfl
  · rw [h]

/-- A detection input is not followed in HALTED, nor on a pair that no point in use names. -/
theorem detectionChanges_unfollowed (d : Nat) (i : Position) (on : Bool) (h : s.runState = .halted ∨ pointOfPair s.layout d = none) :
    detectionChanges d i on s = setInput d i on s := by
  unfold detectionChanges
  rcases h with h | h
  · simp only [supervised_halted s h]
    split <;> rfl
  · rw [h]

/-- No point in use names a pair that every point in use leaves alone. -/
theorem pointOfPair_eq_none {m : Image} {d : Nat} (h : ∀ p, pointUsed m p = true → detectionPair m p ≠ d) : pointOfPair m d = none := by
  rw [pointOfPair, List.find?_eq_none]
  intro p _ hp
  simp only [Bool.and_eq_true, beq_iff_eq] at hp
  exact h p hp.1 hp.2

theorem channel_setChannel (c : Nat) (b : Bool) (d : Nat) :
    (setChannel c b s).channel d = if d = c then b else s.channel d := Table.read_write false s.channels c b d

theorem pair_setInput (d : Nat) (i : Position) (on : Bool) (e : Nat) :
    (setInput d i on s).pair e = if e = d then (s.pair d).set i on else s.pair e :=
  Table.read_write DetectionPair.off s.detections d _ e

/-- Setting one input of a pair leaves the other. -/
theorem DetectionPair.level_set (d : DetectionPair) (i : Position) (on : Bool) :
    (d.set i on).level i = on ∧ (d.set i on).level (otherPosition i) = d.level (otherPosition i) := by
  cases i <;> exact ⟨rfl, rfl⟩

/-- A channel's new level is recorded, and only the outputs are reckoned again. -/
theorem setChannel_recorded (c : Nat) (b : Bool) :
    (finish (setChannel c b s)).channel c = b ∧ (∀ d, d ≠ c → (finish (setChannel c b s)).channel d = s.channel d)
      ∧ finish (setChannel c b s) = { s with
          channels := (finish (setChannel c b s)).channels, humpPermit := (finish (setChannel c b s)).humpPermit
          attentionLine := (finish (setChannel c b s)).attentionLine } :=
  ⟨(channel_setChannel s c b c).trans (if_pos rfl), fun d hd => (channel_setChannel s c b d).trans (if_neg hd), rfl⟩

/-- Settles O44: the pulse by the run state, the inputs by `inputChanges_unfollowed` and `detectionChanges_unfollowed`. -/
theorem haltedEventsChangeNothing : Obligations.HaltedEventsChangeNothing := by
  refine ⟨fun s h => ?_, fun s c h1 h2 hu => ⟨fun hc => ?_, fun hc => ?_⟩, fun s d i on h1 h2 hl hu => ?_⟩
  · rw [exec_axlePulse, supervised_halted s h]; rfl
  · refine ⟨_, ?_, setChannel_recorded s c true⟩
    rw [exec_sectionOccupied s (channelNumber_iff.mpr ⟨h1, h2⟩), hc, inputChanges_unfollowed s c true hu]; rfl
  · refine ⟨_, ?_, setChannel_recorded s c false⟩
    rw [exec_sectionClear s (channelNumber_iff.mpr ⟨h1, h2⟩), hc, inputChanges_unfollowed s c false hu]; rfl
  · have hp : (finish (setInput d i on s)).pair d = (s.pair d).set i on := (pair_setInput s d i on d).trans (if_pos rfl)
    obtain ⟨hi, ho⟩ := DetectionPair.level_set (s.pair d) i on
    refine ⟨finish (setInput d i on s), ?_, by rw [hp, hi], by rw [hp, ho], fun e he => (pair_setInput s d i on e).trans (if_neg he), rfl⟩
    rw [exec_detectionChange s i on (pairNumber_iff.mpr ⟨h1, h2⟩), if_neg hl,
      detectionChanges_unfollowed s d i on (hu.imp_right pointOfPair_eq_none)]

/-! ### The throw-in-time arithmetic (R105 to R109) -/

/-- The sections from the head on, where the head is the first of them. -/
theorem dropWhile_before {before rest : List Nat} {h : Nat} (hb : h ∉ before) (hr : rest.head? = some h) :
    (before ++ rest).dropWhile (fun x => x != h) = rest := by
  have hd : ∀ x ∈ before, (x != h) = true := fun x hx => by simpa using fun e : x = h => hb (e ▸ hx)
  rw [List.dropWhile_append_of_pos hd]
  cases rest with
  | nil => rfl
  | cons y rest =>
    obtain rfl : y = h := by simpa using hr
    simp

/-- The sections before the point's switch section. -/
theorem takeWhile_between {between below : List Nat} {x : Nat} (hx : x ∉ between) :
    (between ++ x :: below).takeWhile (fun y => y != x) = between := by
  have hd : ∀ y ∈ between, (y != x) = true := fun y hy => by simpa using fun e : y = x => hx (e ▸ hy)
  rw [List.takeWhile_append_of_pos hd]
  simp

theorem distance_of_head {r : Record} {p h : Nat} {before between below : List Nat} (hs : switchSection s.layout p ∉ between)
    (hh : r.head = some h) (hb : h ∉ before) (hf : (between ++ switchSection s.layout p :: below).head? = some h)
    (hp : s.reckoningPath r = before ++ between ++ switchSection s.layout p :: below) :
    s.distance r p = min 65535 (between.map (sectionLength s.layout)).sum := by
  rw [List.append_assoc] at hp
  simp [State.distance, hh, hp, dropWhile_before hb hf, takeWhile_between hs]

theorem distance_of_no_head {r : Record} {p : Nat} {between below : List Nat} (hs : switchSection s.layout p ∉ between)
    (hh : r.head = none) (hp : s.reckoningPath r = between ++ switchSection s.layout p :: below) :
    s.distance r p = min 65535 ((between.map (sectionLength s.layout)).sum + crestOffset s.layout) := by
  simp [State.distance, hh, hp, takeWhile_between hs]

/-- The instant a cut is reckoned from (R106). -/
theorem reference_eq {r : Record} {e : Instant} (h : r.head ≠ none ∧ r.headEntry = some e ∨ r.head = none ∧ r.firstAxle = e) :
    r.reference = e := by
  rcases h with ⟨hh, he⟩ | ⟨hh, he⟩
  · cases hd : r.head with
    | none => exact absurd hd hh
    | some x => simp [Record.reference, hd, he]
  · simp [Record.reference, hh, he]

theorem budget_eq (p : Nat) :
    s.budget p = if coldIdle s.layout ≠ 0 ∧ (s.point p).stood = true then coldBudget s.layout p else throwBudget s.layout p := by
  simp [State.budget, State.hasStood]

/-- Settles O57: the path split at the head section and at the switch section, then the definitions of R106 to R109. -/
theorem lastMomentReckoning : Obligations.LastMomentReckoning := by
  refine ⟨fun s r => ⟨fun a ha => ?_, fun p ha hp => ?_⟩, fun s r p before between below hs => ⟨?_, ?_⟩, ?_⟩
  · simp [State.reckoningPath, ha]
  · simp [State.reckoningPath, ha, hp]
  · exact fun h hh hb hf hp => distance_of_head s hs hh hb hf hp
  · exact fun hh hp => distance_of_no_head s hs hh hp
  · intro s r p v e hv _ _ he
    simp only [State.lastMomentAt, State.deadline, State.arrivalTime, State.need, reference_eq he, Record.speedNow, hv, Option.getD_some,
      later, budget_eq, leadMargin, leadBase]

end Sys2Proof.Machine
end

section
/-! What following a cut can touch, and what the flags, the claims and a record read after each operation of the Point Arbiter. -/

namespace Sys2Proof.Machine

variable (s : State)

/-! ### Flags (R170) -/

/-- The causes have a bit each. -/
theorem causeBit_and (c d : Cause) : (causeBit d &&& causeBit c != 0) = decide (d = c) := by
  cases d <;> cases c <;> rfl

/-- A flag is latched after a latch when it was before, or when it is the one latched. -/
theorem latched_latch (c d : Cause) : latched c (latch d s) = (latched c s || decide (d = c)) := by
  rw [← causeBit_and]
  unfold latched
  rw [latch_flags, BitVec.and_comm, BitVec.and_or_distrib_left, BitVec.and_comm, BitVec.and_comm (x := causeBit c), Bool.eq_iff_iff]
  simp only [bne_iff_ne, Bool.or_eq_true, ne_eq]
  rw [← not_and_or]
  exact not_congr BitVec.or_eq_zero_iff

theorem latched_latchIf (b : Bool) (c d : Cause) : latched c (latchIf b d s) = (latched c s || (b && decide (d = c))) := by
  cases b
  · simp [latchIf]
  · simpa [latchIf] using latched_latch s c d

theorem latched_of_flags {s t : State} (h : t.flags = s.flags ||| t.flags) {c : Cause} (hs : latched c s = true) : latched c t = true := by
  unfold latched at *
  rw [h, BitVec.and_comm, BitVec.and_or_distrib_left, BitVec.and_comm, bne_iff_ne]
  rw [bne_iff_ne] at hs
  exact fun h0 => hs (BitVec.or_eq_zero_iff.mp h0).1

/-! ### Claims (R114 to R118) -/

theorem claimsAt_setClaims (p : Nat) (l : List Claim) (q : Nat) :
    (setClaims p l s).claimsAt q = if q = p then l else s.claimsAt q := Table.read_write [] s.claims p l q

theorem claimsAt_withdrawAt (l : List Nat) (n q : Nat) :
    (withdrawAt l n s).claimsAt q = if q ∈ l then (s.claimsAt q).filter (fun c => c.cut != n) else s.claimsAt q := by
  unfold withdrawAt
  induction l generalizing s with
  | nil => simp
  | cons p l ih =>
    rw [List.foldl_cons, ih, claimsAt_setClaims]
    by_cases hp : q = p <;> by_cases hl : q ∈ l <;> simp [hp, hl]

theorem find_withdrawn (l : List Claim) (n m : Nat) :
    (l.filter (fun c => c.cut != n)).find? (fun c => c.cut == m) = if m = n then none else l.find? (fun c => c.cut == m) := by
  rw [List.find?_filter]
  by_cases hm : m = n
  · simp [hm]
  · rw [if_neg hm]
    congr 1
    funext c
    by_cases hc : c.cut = m <;> simp [hc, hm]

/-- The claims of a cut at some points are gone, and no other (R117). -/
theorem claimOf_withdrawAt (l : List Nat) (n q m : Nat) :
    (withdrawAt l n s).claimOf q m = if q ∈ l ∧ m = n then none else s.claimOf q m := by
  unfold State.claimOf
  rw [claimsAt_withdrawAt]
  by_cases hq : q ∈ l
  · simp only [hq, if_true, find_withdrawn, true_and]
  · simp [hq]

theorem find_rewritten (l : List Claim) (n m : Nat) (f : Claim → Claim) (hf : ∀ c, (f c).cut = c.cut) :
    (l.map (fun c => if c.cut = n then f c else c)).find? (fun c => c.cut == m)
      = if m = n then (l.find? (fun c => c.cut == n)).map f else l.find? (fun c => c.cut == m) := by
  induction l with
  | nil => simp
  | cons c l ih =>
    by_cases hc : c.cut = n
    · by_cases hm : m = n
      · simp [hc, hm, hf]
      · have hn : ¬ n = m := fun h => hm h.symm
        simpa [hc, hm, hf, hn] using ih
    · by_cases hm : m = n
      · simpa [hc, hm] using ih
      · by_cases hk : c.cut = m
        · simp [hm, hk]
        · simpa [hc, hm, hk] using ih

/-- A cut's claim at a point is rewritten where it stands, and no other. -/
theorem claimOf_rewriteClaim (p n : Nat) (f : Claim → Claim) (hf : ∀ c, (f c).cut = c.cut) (q m : Nat) :
    (rewriteClaim p n f s).claimOf q m = if q = p ∧ m = n then (s.claimOf p n).map f else s.claimOf q m := by
  unfold rewriteClaim State.claimOf
  rw [claimsAt_setClaims]
  by_cases hq : q = p
  · subst hq
    simp only [if_true, find_rewritten _ _ _ _ hf, true_and]
  · simp [hq]

/-- A claim put in a queue hides no other cut's claim. -/
theorem find_insertClaim {m : Nat} {c : Claim} (hc : c.cut ≠ m) (l : List Claim) :
    (insertClaim s c l).find? (fun d => d.cut == m) = l.find? (fun d => d.cut == m) := by
  obtain ⟨front, back, hl, hi, -, -⟩ := insertClaim_placed s c l
  rw [hi, hl]
  simp [hc]

/-- A cut that holds a claim at a point has the point among its claimed points. -/
theorem mem_claimedPoints {p n : Nat} {c : Claim} (h : s.claimOf p n = some c) : p ∈ s.claimedPoints n := by
  have listed : ∀ k : Table (List Claim), ∀ d ∈ Table.read [] k p, d.cut = n →
      p ∈ (k.filter (fun e => e.2.any (fun k => k.cut == n))).map Prod.fst := by
    intro k
    induction k with
    | nil => intro d hd; cases hd
    | cons e k ih =>
      intro d hd hn
      obtain ⟨j, l⟩ := e
      by_cases hj : j = p
      · have hl : l.any (fun k => k.cut == n) = true := List.any_eq_true.mpr ⟨d, by simpa [Table.read, hj] using hd, by simp [hn]⟩
        simp [hl, hj]
      · have := ih d (by simpa [Table.read, hj] using hd) hn
        rw [List.filter_cons]
        split
        · exact List.mem_cons_of_mem _ this
        · exact this
  exact listed s.claims c (List.mem_of_find?_eq_some h) (by simpa using List.find?_some h)

theorem claimOf_eq_none_of_not_mem {p n : Nat} (h : p ∉ s.claimedPoints n) : s.claimOf p n = none := by
  cases hc : s.claimOf p n with
  | none => rfl
  | some c => exact absurd (mem_claimedPoints s hc) h

/-- Bringing a cut's claim at a point in line with its route touches that claim alone; a claim held takes the position (R118). -/
theorem claimOf_claimOnRoute (n : Nat) (r : Record) (pb : Nat × Position) :
    (∀ q m, q ≠ pb.1 ∨ m ≠ n → (claimOnRoute n r s pb).claimOf q m = s.claimOf q m)
      ∧ ∀ c, s.claimOf pb.1 n = some c → (claimOnRoute n r s pb).claimOf pb.1 n = some { c with position := pb.2 } := by
  unfold claimOnRoute
  by_cases hh : (s.claimOf pb.1 n).isSome = true
  · rw [if_pos hh]
    refine ⟨fun q m h => ?_, fun c hc => ?_⟩
    · rw [claimOf_rewriteClaim _ _ _ _ (by exact fun _ => rfl), if_neg (by tauto)]
    · rw [claimOf_rewriteClaim _ _ _ _ (by exact fun _ => rfl), if_pos ⟨rfl, rfl⟩, hc]; rfl
  · rw [if_neg hh]
    refine ⟨fun q m h => ?_, fun c hc => absurd (by rw [hc]; rfl) hh⟩
    split
    · unfold State.claimOf
      rw [claimsAt_setClaims]
      by_cases hq : q = pb.1
      · rw [if_pos hq, find_insertClaim s (h.resolve_left (not_not.mpr hq)).symm, hq]
      · rw [if_neg hq]
    · rfl

/-- The claims of a cut after its route has been gone along: those off the route stand, and those held on it take its positions. -/
theorem claimOf_alongRoute (n : Nat) (r : Record) (route : List (Nat × Position)) :
    (∀ q m, q ∉ route.map Prod.fst ∨ m ≠ n → (route.foldl (claimOnRoute n r) s).claimOf q m = s.claimOf q m)
      ∧ ∀ p b c, (route.map Prod.fst).Nodup → (p, b) ∈ route → s.claimOf p n = some c →
          (route.foldl (claimOnRoute n r) s).claimOf p n = some { c with position := b } := by
  induction route generalizing s with
  | nil => exact ⟨fun _ _ _ => rfl, fun p b c _ h => by cases h⟩
  | cons pb route ih =>
    obtain ⟨off, on⟩ := ih (claimOnRoute n r s pb)
    obtain ⟨off1, on1⟩ := claimOf_claimOnRoute s n r pb
    refine ⟨fun q m h => ?_, fun p b c hn hm hc => ?_⟩
    · simp only [List.map_cons, List.mem_cons, not_or] at h
      rw [List.foldl_cons, off q m (h.imp_left And.right), off1 q m (h.imp_left And.left)]
    · simp only [List.map_cons, List.nodup_cons] at hn
      rw [List.foldl_cons]
      rcases List.mem_cons.mp hm with rfl | hm
      · rw [off p n (.inl hn.1), on1 c hc]
      · have hp : p ≠ pb.1 := fun e => hn.1 (e ▸ List.mem_map_of_mem (f := Prod.fst) hm)
        exact on p b c hn.2 hm ((off1 p n (.inl hp)).trans hc)

/-! ### What replanning a cut can touch -/

/-- From `s` to `t` only waiting commands, records, tracks, claims, points and flags may differ; other cuts keep their claims, and no flag goes. -/
structure Replans (n : Nat) (s t : State) : Prop where
  frame : t = { s with
    pending := t.pending, records := t.records, tracks := t.tracks, claims := t.claims, points := t.points, flags := t.flags }
  others : ∀ q m, m ≠ n → t.claimOf q m = s.claimOf q m
  flags : t.flags = s.flags ||| t.flags

section
variable {n : Nat}

theorem Replans.refl : Replans n s s := ⟨rfl, fun _ _ _ => rfl, by simp⟩

variable {s}

theorem Replans.trans {t u : State} (h1 : Replans n s t) (h2 : Replans n t u) : Replans n s u where
  frame := by rw [h2.frame, h1.frame]
  others q m hm := (h2.others q m hm).trans (h1.others q m hm)
  flags := by rw [h2.flags, h1.flags, ← BitVec.or_assoc, ← BitVec.or_assoc, BitVec.or_self]

theorem Replans.foldl {β : Type} (f : State → β → State) (h : ∀ s b, Replans n s (f s b)) (l : List β) (s : State) :
    Replans n s (l.foldl f s) := by
  induction l generalizing s with
  | nil => exact .refl s
  | cons b l ih => exact (h s b).trans (ih _)

/-- The reckoning of the layout and of the tree is the same after it. -/
theorem Replans.reads {t : State} (h : Replans n s t) : t.layout = s.layout ∧ t.tree = s.tree := by
  rw [h.frame]; exact ⟨rfl, rfl⟩

theorem Replans.latched {t : State} (h : Replans n s t) {c : Cause} (hc : latched c s = true) : latched c t = true :=
  latched_of_flags h.flags hc

end

section
variable (n : Nat)

theorem latch_replans (c : Cause) : Replans n s (latch c s) := ⟨rfl, fun _ _ _ => rfl, by simp [← BitVec.or_assoc]⟩

theorem latchIf_replans (b : Bool) (c : Cause) : Replans n s (latchIf b c s) := by
  cases b
  · exact .refl s
  · exact latch_replans s n c

theorem changeRecord_replans (k : Nat) (f : Record → Record) : Replans n s (changeRecord k f s) := by
  have records : ∀ rs, Replans n s { s with records := rs } := fun _ => ⟨rfl, fun _ _ _ => rfl, by simp⟩
  exact (records _).trans (latchIf_replans _ n _ _)

theorem changeTrack_replans (x : Nat) (f : TrackEntry → TrackEntry) : Replans n s (changeTrack x f s) := by
  have tracks : ∀ ts, Replans n s { s with tracks := ts } := fun _ => ⟨rfl, fun _ _ _ => rfl, by simp⟩
  exact (tracks _).trans (latchIf_replans _ n _ _)

theorem changePoint_replans (p : Nat) (f : PointEntry → PointEntry) : Replans n s (changePoint p f s) :=
  ⟨rfl, fun _ _ _ => rfl, by simp⟩

theorem setClaims_replans (p : Nat) (l : List Claim) (h : ∀ q m, m ≠ n → (setClaims p l s).claimOf q m = s.claimOf q m) :
    Replans n s (setClaims p l s) := ⟨rfl, h, by simp⟩

theorem rewriteClaim_replans (p : Nat) (f : Claim → Claim) (hf : ∀ c, (f c).cut = c.cut) : Replans n s (rewriteClaim p n f s) :=
  setClaims_replans s n p _ fun q m hm => by
    have := claimOf_rewriteClaim s p n f hf q m
    rwa [if_neg (fun h => hm h.2)] at this

theorem withdrawAt_replans (l : List Nat) : Replans n s (withdrawAt l n s) :=
  Replans.foldl _ (fun s p => setClaims_replans s n p _ fun q m hm => by
    have := claimOf_withdrawAt s [p] n q m
    rwa [if_neg (fun h => hm h.2)] at this) l s

theorem claimOnRoute_replans (r : Record) (pb : Nat × Position) : Replans n s (claimOnRoute n r s pb) := by
  have others := (claimOf_claimOnRoute s n r pb).1
  unfold claimOnRoute at others ⊢
  split
  · exact rewriteClaim_replans s n _ _ (fun _ => rfl)
  · rename_i h
    split
    · rename_i h2
      refine setClaims_replans s n _ _ fun q m hm => ?_
      have := others q m (.inr hm)
      rwa [if_neg h, if_pos h2] at this
    · exact .refl s

theorem redoClaims_replans : Replans n s (redoClaims n s) := by
  unfold redoClaims
  split
  · exact .refl s
  · split
    · exact .refl s
    · exact ((withdrawAt_replans s n _).trans (changeRecord_replans _ n n _)).trans
        (Replans.foldl _ (fun s pb => claimOnRoute_replans s n _ pb) _ _)

theorem changeRecords_replans (l : List Nat) (f : Record → Record) : Replans n s (changeRecords l f s) :=
  Replans.foldl _ (fun s k => changeRecord_replans s n k f) l s

theorem addMarkIf_replans (b : Bool) (m : Mark) (k : Nat) : Replans n s (addMarkIf b m k s) := by
  cases b
  · exact .refl s
  · exact changeRecord_replans s n k _

theorem releaseFrom_replans (x : Option Nat) (len : Nat) : Replans n s (releaseFrom x len s) := by
  cases x with
  | none => exact .refl s
  | some x => exact changeTrack_replans s n x (fun e => { e with committed := e.committed - len })

theorem reassign_replans (x : Nat) (w : AssignReason) : Replans n s (reassign n x w s) := by
  unfold reassign
  split
  · exact changeRecords_replans s n _ _
  · exact (((changeRecords_replans s n _ _).trans (releaseFrom_replans _ n _ _)).trans (changeTrack_replans _ n _ _)).trans
      (addMarkIf_replans _ n _ _ n)

theorem replan_replans (p : Nat) (b : Position) : Replans n s (replan n p b s) := by
  unfold replan
  split
  · exact redoClaims_replans s n
  · exact (reassign_replans s n _ _).trans (redoClaims_replans _ n)

theorem noteDiversion_replans (p : Nat) : Replans n s (noteDiversion n p s) :=
  (changeRecord_replans s n n _).trans (latch_replans _ n _)

theorem divertTo_replans (p : Nat) (x : Position) : Replans n s (divertTo n p x s) :=
  ((noteDiversion_replans s n p).trans (rewriteClaim_replans _ n p (fun c => { c with position := x, spent := true }) (fun _ => rfl))).trans
    (replan_replans _ n p x)

theorem divertUnknown_replans (p : Nat) : Replans n s (divertUnknown n p s) :=
  (((noteDiversion_replans s n p).trans (rewriteClaim_replans _ n p (fun c => { c with spent := true }) (fun _ => rfl))).trans
    (withdrawAt_replans _ n _)).trans (changeRecord_replans _ n n _)

theorem throwDecision_replans (p : Nat) : Replans n s (throwDecision p s) := by
  unfold throwDecision
  split
  · exact changePoint_replans s n p _
  · exact .refl s

theorem expireAtOnce_replans (k : Nat) : Replans n s (expireAtOnce k s) := by
  rcases expireAtOnce_eq s k with h | h <;> rw [h]
  · exact .refl s
  · exact ⟨rfl, fun _ _ _ => rfl, by simp⟩

theorem chooseWatch_replans (k : Nat) : Replans n s (chooseWatch k s) := by
  unfold chooseWatch
  split
  · exact .refl s
  · split
    · exact (changeRecord_replans s n k _).trans (expireAtOnce_replans _ n k)
    · exact .refl s

theorem followUp_replans (old : State) (ps cs : List Nat) : Replans n s (followUp old ps cs s) :=
  (Replans.foldl _ (fun s p => throwDecision_replans s n p) _ _).trans (Replans.foldl _ (fun s k => chooseWatch_replans s n k) _ _)

/-- The outputs are all that the end of the change adds. -/
theorem finish_replans_frame {t : State} (h : Replans n s t) :
    finish t = { s with
      pending := (finish t).pending, records := (finish t).records, tracks := (finish t).tracks, claims := (finish t).claims
      points := (finish t).points, flags := (finish t).flags, humpPermit := (finish t).humpPermit
      attentionLine := (finish t).attentionLine } :=
  congrArg (fun u : State => { u with humpPermit := permitCondition t, attentionLine := attentionCondition t }) h.frame

end

end Sys2Proof.Machine
end

section
/-! What a diverted cut's record and claims become: the assignment, the claims redone, and the watch point chosen afresh. -/

namespace Sys2Proof.Machine

variable (s : State) {n : Nat} {r : Record}

/-! ### Assignments -/

theorem changeRecords_claims (l : List Nat) (f : Record → Record) : (changeRecords l f s).claims = s.claims := by
  unfold changeRecords
  induction l generalizing s with
  | nil => rfl
  | cons k l ih => rw [List.foldl_cons, ih, changeRecord_claims]

theorem releaseFrom_claims (x : Option Nat) (len : Nat) : (releaseFrom x len s).claims = s.claims := by
  cases x with
  | none => rfl
  | some x => exact changeTrack_claims s x _

theorem addMarkIf_claims (b : Bool) (m : Mark) (k : Nat) : (addMarkIf b m k s).claims = s.claims := by
  cases b
  · rfl
  · exact changeRecord_claims s k _

theorem reassign_claims (x : Nat) (w : AssignReason) : (reassign n x w s).claims = s.claims := by
  unfold reassign
  split
  · exact changeRecords_claims s _ _
  · rw [addMarkIf_claims, commitLength, changeTrack_claims, releaseFrom_claims]
    exact changeRecords_claims s _ _

theorem releaseFrom_records (x : Option Nat) (len : Nat) : (releaseFrom x len s).records = s.records := by
  cases x with
  | none => rfl
  | some x => exact changeTrack_records s x _

theorem record_congr {s t : State} (h : t.records = s.records) (k : Nat) : t.record k = s.record k := by
  unfold State.record
  rw [h]

/-- Two records agree but for the assignment, the marks and the unseen mark: what a reassignment can touch (R76). -/
def Record.AgreesButTrack (w r : Record) : Prop := w = { r with assigned := w.assigned, marks := w.marks, unseen := w.unseen }

/-- A record with an assignment. -/
def Record.assign (a : Assignment) (r : Record) : Record := { r with assigned := some a }

/-- One record of a group is set to an assignment: a cut has it when it is that record's cut, or had it before. -/
theorem record_assign_step (a : Assignment) (k : Nat) {q : Record} (hq : s.record n = some q) (hr : q.AgreesButTrack r)
    (hk : k = n ∨ q.assigned = some a) :
    ∃ w, (changeRecord k (Record.assign a) s).record n = some w ∧ w.assigned = some a ∧ w.AgreesButTrack r := by
  rw [record_changeRecord s k _ (by exact fun _ => rfl), hq]
  split
  · refine ⟨Record.changed (Record.assign a) q, rfl, ?_, ?_⟩
    · rw [Record.changed_eq]; rfl
    · rw [Record.changed_eq, hr]; rfl
  · rename_i hn
    exact ⟨q, rfl, hk.resolve_left (fun e => hn e.symm), hr⟩

theorem record_assign_fold (a : Assignment) (l : List Nat) {q : Record} (hq : s.record n = some q) (ha : q.assigned = some a)
    (hr : q.AgreesButTrack r) :
    ∃ w, (changeRecords l (Record.assign a) s).record n = some w ∧ w.assigned = some a ∧ w.AgreesButTrack r := by
  induction l generalizing s q with
  | nil => exact ⟨q, hq, ha, hr⟩
  | cons k l ih =>
    obtain ⟨w, hw, haw, hrw⟩ := record_assign_step s a k hq hr (.inr ha)
    exact ih (changeRecord k (Record.assign a) s) hw haw hrw

/-- A cut set to an assignment has it, whatever the order in which its group is gone through (R29). -/
theorem record_setAssignment (a : Assignment) (h : s.record n = some r) :
    ∃ w, (setAssignment n a s).record n = some w ∧ w.assigned = some a ∧ w.AgreesButTrack r := by
  obtain ⟨w, hw, haw, hrw⟩ := record_assign_step s a n h rfl (.inl rfl)
  exact record_assign_fold (changeRecord n (Record.assign a) s) a (s.joinedFollowers n) hw haw hrw

theorem record_addMarkIf (b : Bool) (m : Mark) (h : s.record n = some r) :
    ∃ w, (addMarkIf b m n s).record n = some w ∧ w.assigned = r.assigned ∧ w.AgreesButTrack r := by
  cases b
  · exact ⟨r, h, rfl, rfl⟩
  · refine ⟨Record.changed (withMark m) r, ?_, ?_, ?_⟩
    · exact (record_changeRecord_same s n (withMark m) (fun _ => rfl)).trans (by rw [h]; rfl)
    · rw [Record.changed_eq]; rfl
    · rw [Record.changed_eq]; rfl

/-- A reassigned cut has the track and the reason, and otherwise the record it had (R76). -/
theorem record_reassign (x : Nat) (why : AssignReason) (h : s.record n = some r) :
    ∃ w, (reassign n x why s).record n = some w ∧ w.assigned = some { track := x, reason := why } ∧ w.AgreesButTrack r := by
  obtain ⟨q, hq, haq, hrq⟩ := record_setAssignment s { track := x, reason := why } h
  unfold reassign
  split
  · exact ⟨q, hq, haq, hrq⟩
  · have hq' : ∀ y len u len', (commitLength y len (releaseFrom u len' (setAssignment n { track := x, reason := why } s))).record n
        = some q := fun y len u len' =>
      (record_congr ((changeTrack_records _ _ _).trans (releaseFrom_records _ _ _)) n).trans hq
    obtain ⟨w, hw, haw, hrw⟩ := record_addMarkIf _ (!s.canTake x (s.groupLength n)) .overfill (hq' x (s.groupLength n) _ _)
    refine ⟨w, hw, haw.trans haq, ?_⟩
    unfold Record.AgreesButTrack at hrw hrq ⊢
    rw [hrw, hrq]

/-! ### Claims redone (R116, R118) -/

theorem foldl_keeps_records {β : Type} (f : State → β → State) (hf : ∀ s b, (f s b).records = s.records ∧ (f s b).tracks = s.tracks)
    (l : List β) : (l.foldl f s).records = s.records ∧ (l.foldl f s).tracks = s.tracks := by
  induction l generalizing s with
  | nil => exact ⟨rfl, rfl⟩
  | cons b l ih =>
    obtain ⟨records, tracks⟩ := ih (f s b)
    exact ⟨records.trans (hf s b).1, tracks.trans (hf s b).2⟩

theorem withdrawAt_records (l : List Nat) (k : Nat) : (withdrawAt l k s).records = s.records ∧ (withdrawAt l k s).tracks = s.tracks :=
  foldl_keeps_records s (fun s p => setClaims p ((s.claimsAt p).filter (fun c => c.cut != k)) s) (fun _ _ => ⟨rfl, rfl⟩) l

theorem claimOnRoute_records (q : Record) (pb : Nat × Position) :
    (claimOnRoute n q s pb).records = s.records ∧ (claimOnRoute n q s pb).tracks = s.tracks := by
  unfold claimOnRoute
  split
  · exact ⟨rfl, rfl⟩
  · split <;> exact ⟨rfl, rfl⟩

/-- The points off a route at which a cut holds claims. -/
def State.claimsOff (s : State) (n : Nat) (route : List (Nat × Position)) : List Nat :=
  (s.claimedPoints n).filter (fun p => !(route.map Prod.fst).contains p)

theorem redoClaims_eq {a : Assignment} (h : s.record n = some r) (ha : r.assigned = some a) :
    redoClaims n s = (s.tree.route a.track).foldl (claimOnRoute n r)
      (changeRecord n (fun r => { r with unplannedBelow := none }) (withdrawAt (s.claimsOff n (s.tree.route a.track)) n s)) := by
  simp only [redoClaims, h, ha, State.claimsOff]

/-- The record after the claims are redone: the unplanned-below mark is dropped. -/
theorem record_redoClaims {a : Assignment} (h : s.record n = some r) (ha : r.assigned = some a) :
    (redoClaims n s).record n = some { r with unplannedBelow := none } := by
  rw [redoClaims_eq s h ha, record_congr (foldl_keeps_records _ _ (fun s pb => claimOnRoute_records s r pb) _).1,
    record_changeRecord_same _ n _ (by exact fun _ => rfl), record_congr (withdrawAt_records s _ n).1, h]
  simp [Record.changed, Record.shown]

theorem redoClaims_tracks (k : Nat) : (redoClaims k s).tracks = s.tracks := by
  unfold redoClaims
  split
  · rfl
  · split
    · rfl
    · rw [(foldl_keeps_records _ _ (fun s pb => claimOnRoute_records s _ pb) _).2, changeRecord_tracks, (withdrawAt_records s _ k).2]

/-- The claims of a cut after they are redone: none off its route, and those held on it in its positions. -/
theorem claimOf_redoClaims {a : Assignment} (h : s.record n = some r) (ha : r.assigned = some a) :
    (∀ q, q ∉ (s.tree.route a.track).map Prod.fst → (redoClaims n s).claimOf q n = none)
      ∧ ∀ p b c, ((s.tree.route a.track).map Prod.fst).Nodup → (p, b) ∈ s.tree.route a.track → s.claimOf p n = some c →
          (redoClaims n s).claimOf p n = some { c with position := b } := by
  have kept : ∀ q, (changeRecord n (fun r => { r with unplannedBelow := none })
      (withdrawAt (s.claimsOff n (s.tree.route a.track)) n s)).claimOf q n
        = if q ∈ s.claimsOff n (s.tree.route a.track) then none else s.claimOf q n := fun q => by
    have := claimOf_withdrawAt s (s.claimsOff n (s.tree.route a.track)) n q n
    simp only [and_true] at this
    rw [← this]
    unfold State.claimOf State.claimsAt
    rw [changeRecord_claims]
  rw [redoClaims_eq s h ha]
  obtain ⟨off, on⟩ := claimOf_alongRoute
    (changeRecord n (fun r => { r with unplannedBelow := none }) (withdrawAt (s.claimsOff n (s.tree.route a.track)) n s)) n r
    (s.tree.route a.track)
  refine ⟨fun q hq => ?_, fun p b c hn hm hc => on p b c hn hm ?_⟩
  · rw [off q n (.inl hq), kept]
    split
    · rfl
    · rename_i hoff
      refine claimOf_eq_none_of_not_mem s fun hm => hoff ?_
      exact List.mem_filter.mpr ⟨hm, by simpa using hq⟩
  · rw [kept, if_neg, hc]
    intro hoff
    have := (List.mem_filter.mp hoff).2
    simp only [List.contains_eq_mem, Bool.not_eq_true', decide_eq_false_iff_not] at this
    exact this (List.mem_map_of_mem (f := Prod.fst) hm)

/-! ### Replanning (R127) -/

theorem replanTrack_kept {p y : Nat} {b : Position} {a : Assignment} (h : s.record n = some r) (ha : r.assigned = some a)
    (hb : branchTarget s.layout p b = .sec y) (hk : s.tree.trackBelow a.track y = true) : s.replanTrack n p b = none := by
  simp [State.replanTrack, hb, State.assignedTrack, h, ha, hk]

theorem replanTrack_fallback {p y : Nat} {b : Position} {a : Assignment} (h : s.record n = some r) (ha : r.assigned = some a)
    (hb : branchTarget s.layout p b = .sec y) (hk : s.tree.trackBelow a.track y = false) :
    s.replanTrack n p b = some (fallbackField s.layout p b) := by
  simp [State.replanTrack, hb, State.assignedTrack, h, ha, hk, fallbackTrack]

theorem replanTrack_named {p y : Nat} {b : Position} {a : Assignment} (h : s.record n = some r) (ha : r.assigned = some a)
    (hb : branchTarget s.layout p b = .track y) (hk : y ≠ a.track) : s.replanTrack n p b = some y := by
  simp [State.replanTrack, hb, State.assignedTrack, h, ha, hk.symm]

/-- A replanned cut keeps its track and every track's length, or has the track it is replanned to with reason DIVERTED; its claims are those of
its route (R127, R118). -/
theorem replan_spec (p : Nat) (b : Position) {a : Assignment} (h : s.record n = some r) (ha : r.assigned = some a) :
    ∃ w g, (replan n p b s).record n = some w ∧ w.assigned = some g
      ∧ (s.replanTrack n p b = none → g = a ∧ (replan n p b s).tracks = s.tracks)
      ∧ (∀ x, s.replanTrack n p b = some x → g = { track := x, reason := .diverted })
      ∧ w = { r with assigned := w.assigned, marks := w.marks, unseen := w.unseen, unplannedBelow := none }
      ∧ (∀ q, q ∉ (s.tree.route g.track).map Prod.fst → (replan n p b s).claimOf q n = none)
      ∧ ∀ q y c, ((s.tree.route g.track).map Prod.fst).Nodup → (q, y) ∈ s.tree.route g.track → s.claimOf q n = some c →
          (replan n p b s).claimOf q n = some { c with position := y } := by
  unfold replan
  cases hx : s.replanTrack n p b with
  | none =>
    obtain ⟨off, on⟩ := claimOf_redoClaims s h ha
    exact ⟨_, a, record_redoClaims s h ha, ha, fun _ => ⟨rfl, redoClaims_tracks s n⟩, fun _ e => (by cases e), rfl, off, on⟩
  | some x =>
    obtain ⟨q, hq, haq, hrq⟩ := record_reassign s x .diverted h
    obtain ⟨off, on⟩ := claimOf_redoClaims (reassign n x .diverted s) hq haq
    rw [(reassign_replans s n x .diverted).reads.2] at off on
    have held : ∀ k, (reassign n x .diverted s).claimOf k n = s.claimOf k n := fun k => by
      unfold State.claimOf State.claimsAt
      rw [reassign_claims]
    refine ⟨_, _, record_redoClaims _ hq haq, haq, fun e => (by cases e), fun y e => (by cases e; rfl), ?_, off, fun k y c hn hm hc => ?_⟩
    · unfold Record.AgreesButTrack at hrq
      rw [hrq]
    · exact on k y c hn hm ((held k).trans hc)

/-! ### Watch points (R122) -/

/-- A point is wanted for a cut's watch exactly where the search along its route stops (R122). -/
theorem watchWanted_iff (r : Record) (p : Nat) :
    s.WatchWanted r p ↔
      (∃ c, s.claimOf p r.number = some c ∧ c.spent = false) ∧ s.atOrBelowHead r p = true ∧ s.lined p r.number = false := by
  rw [State.WatchWanted, ← State.lined_iff, Bool.not_eq_true]
  refine and_congr_right fun _ => and_congr_left fun _ => ?_
  cases hh : r.head with
  | none => simp [State.atOrBelowHead, hh]
  | some h => simp [State.atOrBelowHead, hh]

/-- A search along a route stops at the first point that is wanted, or finds none. -/
theorem find_first {f : Nat × Position → Bool} {wanted : Nat → Prop} (route : List (Nat × Position)) (h : ∀ q, f q = true ↔ wanted q.1) :
    (∃ before p b below, route = before ++ (p, b) :: below ∧ (∀ q ∈ before, ¬ wanted q.1) ∧ wanted p
        ∧ (route.find? f).map Prod.fst = some p)
      ∨ (∀ q ∈ route, ¬ wanted q.1) ∧ (route.find? f).map Prod.fst = none := by
  cases hf : route.find? f with
  | none => exact .inr ⟨fun q hq hw => List.find?_eq_none.mp hf q hq ((h q).mpr hw), rfl⟩
  | some q =>
    obtain ⟨hq, before, below, hr, hb⟩ := List.find?_eq_some_iff_append.mp hf
    exact .inl ⟨before, q.1, q.2, below, hr, fun e he hw => by simpa [(h e).mpr hw] using hb e he, (h q).mp hq, rfl⟩

/-- The watch point of an assigned cut is the first point of its route that is wanted, or none (R122). -/
theorem watchPoint_first {a : Assignment} (ha : r.assigned = some a) :
    (∃ before p b below, s.tree.route a.track = before ++ (p, b) :: below ∧ (∀ q ∈ before, ¬ s.WatchWanted r q.1)
        ∧ s.WatchWanted r p ∧ s.watchPoint r = some p)
      ∨ (∀ q ∈ s.tree.route a.track, ¬ s.WatchWanted r q.1) ∧ s.watchPoint r = none := by
  simp only [State.watchPoint, ha]
  refine find_first (wanted := s.WatchWanted r) _ fun q => ?_
  rw [watchWanted_iff]
  cases s.claimOf q.1 r.number <;> simp [and_assoc]

/-- Two records agree but for the watch point, its last moment and timer, and the unseen mark: what a choice of watch point can touch. -/
def Record.AgreesButWatch (w r : Record) : Prop :=
  w = { r with watch := w.watch, lastMoment := w.lastMoment, timer := w.timer, unseen := w.unseen }

theorem Record.AgreesButWatch.trans {u w r : Record} (h1 : u.AgreesButWatch w) (h2 : w.AgreesButWatch r) : u.AgreesButWatch r := by
  unfold Record.AgreesButWatch at *
  rw [h1, h2]

theorem Record.changed_watching (q : Option Nat) (r : Record) : (Record.changed (Record.watching s q) r).AgreesButWatch r := by
  rw [Record.changed_eq]
  cases q <;> rfl

/-- The record set to the watch point of R122 is watched as R122 says. -/
theorem watchChosen_changed (r : Record) : s.WatchChosen (Record.changed (Record.watching s (s.watchPoint r)) r) := by
  have at_ : ∀ q, s.WatchedAt (Record.changed (Record.watching s q) r) q := fun q => by
    rw [Record.changed_eq]
    cases q <;> exact ⟨rfl, rfl, rfl⟩
  have wanted : ∀ q p, s.WatchWanted (Record.changed (Record.watching s q) r) p ↔ s.WatchWanted r p := fun q p => by
    rw [Record.changed_watching s q r]; rfl
  have assigned : ∀ q, (Record.changed (Record.watching s q) r).assigned = r.assigned := fun q => by
    rw [Record.changed_watching s q r]
  refine ⟨fun ha => ?_, fun a ha => ?_⟩
  · rw [assigned] at ha
    have : s.watchPoint r = s.tree.rootPoint := by simp [State.watchPoint, ha]
    rw [← this]
    exact at_ _
  · rw [assigned] at ha
    simp only [wanted]
    rcases watchPoint_first s ha with ⟨before, p, b, below, hr, hb, hw, hp⟩ | ⟨hn, hp⟩
    · exact .inl ⟨before, p, b, below, hr, hb, hw, hp ▸ at_ _⟩
    · exact .inr ⟨hn, hp ▸ at_ _⟩

/-- A choice of a watch point touches waiting commands, records and flags only. -/
def WatchOnly (s t : State) : Prop := t = { s with pending := t.pending, records := t.records, flags := t.flags }

theorem WatchOnly.chosen_iff {s t : State} (h : WatchOnly s t) (w : Record) : t.WatchChosen w ↔ s.WatchChosen w := by
  rw [h]; rfl

theorem WatchOnly.trans {s t u : State} (h1 : WatchOnly s t) (h2 : WatchOnly t u) : WatchOnly s u := by
  unfold WatchOnly at *
  rw [h2, h1]

theorem changeRecord_watchOnly (k : Nat) (f : Record → Record) : WatchOnly s (changeRecord k f s) := by
  unfold changeRecord latchIf
  split <;> exact rfl

theorem expireAtOnce_watchOnly (k : Nat) : WatchOnly s (expireAtOnce k s) := by
  rcases expireAtOnce_eq s k with h | h <;> rw [h] <;> exact rfl

theorem chooseWatch_watchOnly (k : Nat) : WatchOnly s (chooseWatch k s) := by
  unfold chooseWatch
  split
  · exact rfl
  · split
    · exact (changeRecord_watchOnly s k _).trans (expireAtOnce_watchOnly _ k)
    · exact rfl

theorem expireAtOnce_records (k : Nat) : (expireAtOnce k s).records = s.records := by
  rcases expireAtOnce_eq s k with h | h <;> rw [h]

/-- A choice of some cut's watch point leaves a cut watched as R122 says, when that cut is the one or was watched so before. -/
theorem chooseWatch_record (k : Nat) (h : s.record n = some r) :
    ∃ w, (chooseWatch k s).record n = some w ∧ w.AgreesButWatch r
      ∧ (k = n ∨ s.WatchChosen r → r.state = .releasing ∨ r.state = .rolling → (chooseWatch k s).WatchChosen w) := by
  have chosen := (chooseWatch_watchOnly s k).chosen_iff
  simp only [chosen]
  by_cases hk : k = n
  · subst hk
    by_cases hs : r.state = .releasing ∨ r.state = .rolling
    · refine ⟨Record.changed (Record.watching s (s.watchPoint r)) r, ?_, Record.changed_watching s _ r, fun _ _ => watchChosen_changed s r⟩
      simp only [chooseWatch, h, if_pos hs]
      rw [record_congr (expireAtOnce_records _ _),
        record_changeRecord_same s k _ (fun q => by cases s.watchPoint r <;> rfl), h]
      rfl
    · refine ⟨r, ?_, rfl, fun _ h' => absurd h' hs⟩
      simp only [chooseWatch, h, if_neg hs]
  · refine ⟨r, ?_, rfl, fun hc _ => hc.resolve_left hk⟩
    unfold chooseWatch
    cases hr : s.record k with
    | none => exact h
    | some q =>
      dsimp only
      split
      · rw [record_congr (expireAtOnce_records _ _),
          record_changeRecord_other s _ (fun _ => by cases s.watchPoint q <;> rfl) (fun e => hk e.symm), h]
      · exact h

theorem chooseWatches_record (l : List Nat) (h : s.record n = some r) :
    ∃ w, (l.foldl (fun s k => chooseWatch k s) s).record n = some w ∧ w.AgreesButWatch r
      ∧ (n ∈ l ∨ s.WatchChosen r → r.state = .releasing ∨ r.state = .rolling →
          (l.foldl (fun s k => chooseWatch k s) s).WatchChosen w) := by
  induction l generalizing s r with
  | nil => exact ⟨r, h, rfl, fun hc _ => hc.resolve_left (by simp)⟩
  | cons k l ih =>
    obtain ⟨q, hq, hrq, hcq⟩ := chooseWatch_record s k h
    obtain ⟨w, hw, hrw, hcw⟩ := ih (chooseWatch k s) hq
    have state : q.state = r.state := by rw [hrq]
    refine ⟨w, hw, hrw.trans hrq, fun hc hs => hcw ?_ (by rwa [state])⟩
    rcases hc with hm | hc
    · rcases List.mem_cons.mp hm with rfl | hm
      · exact .inr (hcq (.inl rfl) hs)
      · exact .inl hm
    · exact .inr (hcq (.inr hc) hs)

theorem takeDecisions_records (old : State) (ps : List Nat) :
    (takeDecisions old ps s).records = s.records ∧ (takeDecisions old ps s).tracks = s.tracks :=
  foldl_keeps_records s (fun s p => throwDecision p s) (fun s p => by unfold throwDecision; split <;> exact ⟨rfl, rfl⟩) _

/-- After a change, the watch point of a cut the event names is the one R122 chooses. -/
theorem followUp_record (old : State) (ps : List Nat) {cs : List Nat} (hn : n ∈ cs) (h : s.record n = some r) :
    ∃ w, (followUp old ps cs s).record n = some w ∧ w.AgreesButWatch r
      ∧ (r.state = .releasing ∨ r.state = .rolling → (followUp old ps cs s).WatchChosen w) := by
  have hd : (takeDecisions old ps s).record n = some r := (record_congr (takeDecisions_records s old ps).1 n).trans h
  have listed : n ∈ (((takeDecisions old ps s).records.map Record.number).filter
      (fun k => cs.contains k || watchDue old (takeDecisions old ps s) k)) :=
    List.mem_filter.mpr ⟨List.mem_map.mpr ⟨r, record_mem _ hd, record_number _ hd⟩, by simp [hn]⟩
  obtain ⟨w, hw, hrw, hcw⟩ := chooseWatches_record (takeDecisions old ps s) _ hd
  exact ⟨w, hw, hrw, hcw (.inl listed)⟩

/-- What follows a change leaves the claims and the tracks as they are. -/
theorem followUp_claims (old : State) (ps cs : List Nat) :
    (followUp old ps cs s).claims = s.claims ∧ (followUp old ps cs s).tracks = s.tracks := by
  obtain ⟨l, h⟩ := followUp_watch s old ps cs
  rw [h]
  exact ⟨rfl, rfl⟩

end Sys2Proof.Machine
end

section
/-! A last-moment expiry at a point that will lie otherwise than the cut needs, or that may lie either way (R124 to R127). -/

namespace Sys2Proof.Machine

variable (s : State) {n p : Nat} {r : Record} {l : Instant} {c : Claim} {a : Assignment}

/-! ### The expiry -/

/-- The expiry of a cut whose last-moment timer runs and has come is taken (R103). -/
theorem exec_lastMomentExpiry (h : s.record n = some r) (ht : r.state.inTree = true) (hr : r.timer = .running l)
    (hl : after l s.clock = false) : exec (.lastMomentExpiry n) s = .next (finish (lastMomentExpires n r s)) := by
  show execLastMomentExpiry n s = _
  simp [execLastMomentExpiry, h, lastMomentDue, hr, ht, due, hl]

/-- At its watch point the claim and the expected position of an assigned cut decide (R124). -/
theorem lastMomentExpires_diverts {x : Position} (ha : r.assigned = some a) (hw : r.watch = some p) (hc : s.claimOf p n = some c)
    (he : s.expectedPosition p n = some x) (hx : x ≠ c.position) : lastMomentExpires n r s = followCut s n (divertTo n p x s) := by
  simp [lastMomentExpires, ha, hw, expireAt, hc, he, hx]

theorem lastMomentExpires_diverts_unknown (ha : r.assigned = some a) (hw : r.watch = some p) (hc : s.claimOf p n = some c)
    (he : s.expectedPosition p n = none) : lastMomentExpires n r s = followUp s [] [n] (divertUnknown n p s) := by
  simp [lastMomentExpires, ha, hw, expireAt, hc, he]

/-! ### The diversion entry (R32, R125) -/

/-- The first of the five reasons that holds (R125). -/
theorem divertReason_eq : s.divertReason p n =
    if s.claimsAhead p n ≠ [] then .catchup
    else if pointUsed s.layout p = true ∧ s.shownState (switchSection s.layout p) ≠ .clear then .blocked
    else if (s.point p).mode = .manual then .manual
    else if (s.point p).state = .fault then .pointFault
    else .tooLate := by
  simp [State.divertReason, State.locked]

theorem withDiversion_noted (why : DivertReason) (r : Record) : (withDiversion p why r).Noted r { point := p, reason := why } := by
  have held : withDiversion p why r = if r.diversions.length < 4 then { r with diversions := r.diversions ++ [{ point := p, reason := why }] }
      else { r with more := true } := rfl
  refine ⟨fun h => ?_, fun h => ?_⟩
  · rw [held, if_pos h]
    exact ⟨rfl, rfl⟩
  · rw [held, if_neg (Nat.not_lt.mpr h)]
    exact ⟨rfl, rfl⟩

/-- Two records agree but for the diversion list, its "more" mark and the unseen mark. -/
def Record.AgreesButDiversions (w r : Record) : Prop := w = { r with diversions := w.diversions, more := w.more, unseen := w.unseen }

theorem withDiversion_agrees (why : DivertReason) (r : Record) : (withDiversion p why r).AgreesButDiversions r := by
  unfold withDiversion
  split <;> rfl

theorem withDiversion_number (why : DivertReason) (r : Record) : (withDiversion p why r).number = r.number := by
  rw [withDiversion_agrees why r]

/-- What both diversions begin with (R126): the entry is noted, and the cut's claim at the point is rewritten. -/
def noteAndRewrite (n p : Nat) (f : Claim → Claim) (s : State) : State := rewriteClaim p n f (noteDiversion n p s)

theorem divertTo_eq (x : Position) :
    divertTo n p x s = replan n p x (noteAndRewrite n p (fun c => { c with position := x, spent := true }) s) := rfl

theorem divertUnknown_eq :
    divertUnknown n p s = changeRecord n (fun r => { r with unplannedBelow := some p })
      (withdrawAt (s.pointsBelow p (s.claimedPoints n)) n (noteAndRewrite n p (fun c => { c with spent := true }) s)) := rfl

section
variable (f : Claim → Claim)

/-- The record of a diverted cut has the entry, and nothing else shown is altered. -/
theorem record_noteAndRewrite (h : s.record n = some r) :
    ∃ w, (noteAndRewrite n p f s).record n = some w ∧ w.Noted r { point := p, reason := s.divertReason p n } ∧ w.AgreesButDiversions r := by
  refine ⟨Record.changed (withDiversion p (s.divertReason p n)) r, ?_, ?_, ?_⟩
  · exact (record_changeRecord_same s n _ (withDiversion_number _)).trans (by rw [h]; rfl)
  · rw [Record.changed_eq]
    exact withDiversion_noted _ r
  · rw [Record.changed_eq, withDiversion_agrees]
    rfl

theorem noteDiversion_claimsAt (q : Nat) : (noteDiversion n p s).claimsAt q = s.claimsAt q :=
  congrArg (fun k => Table.read [] k q) (changeRecord_claims s n _)

theorem claimOf_noteAndRewrite (hf : ∀ c, (f c).cut = c.cut) (q : Nat) :
    (noteAndRewrite n p f s).claimOf q n = if q = p then (s.claimOf p n).map f else s.claimOf q n := by
  rw [noteAndRewrite, claimOf_rewriteClaim _ p n f hf]
  simp only [State.claimOf, noteDiversion_claimsAt, and_true]

theorem claimsAt_noteAndRewrite {q : Nat} (hq : q ≠ p) : (noteAndRewrite n p f s).claimsAt q = s.claimsAt q := by
  rw [noteAndRewrite, rewriteClaim, claimsAt_setClaims, if_neg hq, noteDiversion_claimsAt]

theorem noteAndRewrite_tracks : (noteAndRewrite n p f s).tracks = s.tracks := changeRecord_tracks s n _

theorem noteAndRewrite_latched : latched .diverted (noteAndRewrite n p f s) = true := by
  show latched .diverted (noteDiversion n p s) = true
  simp [noteDiversion, latched_latch]

theorem noteAndRewrite_reads : (noteAndRewrite n p f s).layout = s.layout ∧ (noteAndRewrite n p f s).tree = s.tree :=
  (noteDiversion_replans s n p).reads

end

/-! ### The expected position is known (R126, R127) -/

/-- What a diverted cut's record, claims and tracks are after it is replanned from the branch it will take. -/
theorem divertTo_spec (x : Position) (h : s.record n = some r) (ha : r.assigned = some a) (hc : s.claimOf p n = some c) :
    ∃ w g, (divertTo n p x s).record n = some w ∧ w.assigned = some g ∧ w.state = r.state ∧ w.unplannedBelow = none
      ∧ w.Noted r { point := p, reason := s.divertReason p n }
      ∧ (∀ y, branchTarget s.layout p x = .sec y → s.tree.trackBelow a.track y = true → g = a ∧ (divertTo n p x s).tracks = s.tracks)
      ∧ (∀ y, branchTarget s.layout p x = .sec y → s.tree.trackBelow a.track y = false →
          g = { track := fallbackField s.layout p x, reason := .diverted })
      ∧ (∀ y, branchTarget s.layout p x = .track y → y ≠ a.track → g = { track := y, reason := .diverted })
      ∧ (∀ q, q ∉ (s.tree.route g.track).map Prod.fst → (divertTo n p x s).claimOf q n = none)
      ∧ (((s.tree.route g.track).map Prod.fst).Nodup → (p, x) ∈ s.tree.route g.track →
          (divertTo n p x s).claimOf p n = some { c with position := x, spent := true }) := by
  obtain ⟨q, hq, noted, hqr⟩ := record_noteAndRewrite s (fun c => { c with position := x, spent := true }) (p := p) h
  have hqa : q.assigned = some a := by rw [hqr]; exact ha
  have held := claimOf_noteAndRewrite s (n := n) (p := p) (fun c => { c with position := x, spent := true }) (fun _ => rfl) p
  rw [if_pos rfl, hc] at held
  obtain ⟨w, g, hw, hwa, kept, moved, hwq, off, on⟩ := replan_spec _ p x hq hqa
  obtain ⟨layout, tree⟩ := noteAndRewrite_reads s (n := n) (p := p) (fun c => { c with position := x, spent := true })
  rw [tree] at off on
  rw [divertTo_eq]
  refine ⟨w, g, hw, hwa, ?_, ?_, ?_, fun y hb hy => ?_, fun y hb hy => ?_, fun y hb hy => ?_, off, fun hn hm => ?_⟩
  · rw [hwq, hqr]
  · rw [hwq]
  · rw [hwq]; exact noted
  · obtain ⟨hg, ht⟩ := kept (replanTrack_kept _ hq hqa (by rw [layout]; exact hb) (by rw [tree]; exact hy))
    exact ⟨hg, ht.trans (noteAndRewrite_tracks s _)⟩
  · have := moved _ (replanTrack_fallback _ hq hqa (by rw [layout]; exact hb) (by rw [tree]; exact hy))
    rwa [layout] at this
  · exact moved _ (replanTrack_named _ hq hqa (by rw [layout]; exact hb) hy)
  · exact on p x _ hn hm held

/-! ### The expected position is unknown (R126) -/

theorem mem_pointsBelow {q : Nat} {l : List Nat} : q ∈ s.pointsBelow p l ↔
    q ∈ l ∧ q ≠ p ∧ s.tree.sectionBelow (switchSection s.layout q) (switchSection s.layout p) = true := by
  simp [State.pointsBelow]

/-- What the record and the claims are of a cut diverted at a point that may lie either way. -/
theorem divertUnknown_spec (h : s.record n = some r) (hc : s.claimOf p n = some c) :
    ∃ w, (divertUnknown n p s).record n = some w ∧ w.Noted r { point := p, reason := s.divertReason p n }
      ∧ w.state = r.state ∧ w.assigned = r.assigned ∧ w.unplannedBelow = some p ∧ w.marks = r.marks
      ∧ (divertUnknown n p s).claimOf p n = some { c with spent := true }
      ∧ (∀ q, q ≠ p → s.tree.sectionBelow (switchSection s.layout q) (switchSection s.layout p) = true →
          (divertUnknown n p s).claimOf q n = none)
      ∧ (∀ q, q ≠ p → s.tree.sectionBelow (switchSection s.layout q) (switchSection s.layout p) = false →
          (divertUnknown n p s).claimsAt q = s.claimsAt q)
      ∧ (divertUnknown n p s).tracks = s.tracks := by
  obtain ⟨q, hq, noted, hqr⟩ := record_noteAndRewrite s (fun c => { c with spent := true }) (p := p) h
  have claims : ∀ q, (divertUnknown n p s).claimsAt q
      = (withdrawAt (s.pointsBelow p (s.claimedPoints n)) n (noteAndRewrite n p (fun c => { c with spent := true }) s)).claimsAt q :=
    fun q => congrArg (fun k => Table.read [] k q) (changeRecord_claims _ n _)
  have claim : ∀ q, (divertUnknown n p s).claimOf q n = if q ∈ s.pointsBelow p (s.claimedPoints n) then none
      else if q = p then some { c with spent := true } else s.claimOf q n := fun q => by
    have := claimOf_withdrawAt (noteAndRewrite n p (fun c => { c with spent := true }) s) (s.pointsBelow p (s.claimedPoints n)) n q n
    rw [claimOf_noteAndRewrite s (fun c => { c with spent := true }) (fun _ => rfl), hc] at this
    simp only [and_true] at this
    rw [State.claimOf, claims]
    exact this
  have record : (divertUnknown n p s).record n = some { q with unplannedBelow := some p } := by
    rw [divertUnknown_eq, record_changeRecord_same _ n _ (by exact fun _ => rfl), record_congr (withdrawAt_records _ _ n).1, hq]
    simp [Record.changed, Record.shown]
  refine ⟨_, record, noted, ?_, ?_, rfl, ?_, ?_, fun q hqp hb => ?_, fun q hqp hb => ?_, ?_⟩
  · rw [hqr]
  · rw [hqr]
  · rw [hqr]
  · rw [claim, if_neg (fun hm => ((mem_pointsBelow s).mp hm).2.1 rfl), if_pos rfl]
  · rw [claim]
    split
    · rfl
    · rename_i hm
      exact claimOf_eq_none_of_not_mem s fun hk => hm ((mem_pointsBelow s).mpr ⟨hk, hqp, hb⟩)
  · rw [claims, claimsAt_withdrawAt, if_neg, claimsAt_noteAndRewrite s _ hqp]
    intro hm
    rw [((mem_pointsBelow s).mp hm).2.2] at hb
    cases hb
  · rw [divertUnknown_eq, changeRecord_tracks, (withdrawAt_records _ _ n).2, noteAndRewrite_tracks]

/-! ### The statement -/

/-- A choice of watch point keeps what a diversion noted. -/
theorem Record.AgreesButWatch.noted {u w : Record} {d : Diversion} (h : u.AgreesButWatch w) (hw : w.Noted r d) : u.Noted r d := by
  rw [h]
  exact hw

theorem followUp_claimsAt (old : State) (ps cs : List Nat) (q : Nat) : (followUp old ps cs s).claimsAt q = s.claimsAt q :=
  congrArg (fun k => Table.read [] k q) (followUp_claims s old ps cs).1

/-- The end of a change `m` made for a cut: its watch is chosen, and what else the change left stands (R120, R122). -/
theorem followed_spec {s m : State} {q : Record} (hm : Replans n s m) (hq : m.record n = some q) (ps : List Nat) :
    ∃ t w, finish (followUp s ps [n] m) = t ∧ t.record n = some w ∧ w.AgreesButWatch q
      ∧ (q.state = .releasing ∨ q.state = .rolling → t.WatchChosen w)
      ∧ (∀ k, t.claimsAt k = m.claimsAt k) ∧ t.tracks = m.tracks ∧ (∀ k, latched k m = true → latched k t = true)
      ∧ (∀ k j, j ≠ n → t.claimOf k j = s.claimOf k j)
      ∧ t = { s with
          pending := t.pending, records := t.records, tracks := t.tracks, claims := t.claims, points := t.points, flags := t.flags
          humpPermit := t.humpPermit, attentionLine := t.attentionLine } := by
  obtain ⟨w, hw, hwq, chosen⟩ := followUp_record m s ps (List.mem_singleton_self n) hq
  have follows := followUp_replans m n s ps [n]
  exact ⟨_, w, rfl, hw, hwq, chosen, followUp_claimsAt m s ps [n], (followUp_claims m s ps [n]).2, fun k hk => follows.latched hk,
    (hm.trans follows).others, finish_replans_frame s n (hm.trans follows)⟩

/-- Settles O59: `divertTo_spec` and `divertUnknown_spec` for the change, `followed_spec` for what follows it. -/
theorem diversionReplansTheCut : Obligations.DiversionReplansTheCut := by
  refine ⟨fun s n p r l c a x h ht hr hl ha hw hc he hx => ?_, fun s n p r l c a h ht hr hl ha hw hc he => ?_⟩
  · obtain ⟨q, g, hq, hqa, state, unplanned, noted, kept, fallback, named, off, on⟩ := divertTo_spec s x h ha hc
    obtain ⟨t, w, run, hw', hwq, chosen, claims, tracks, flags, others, frame⟩ :=
      followed_spec (divertTo_replans s n p x) hq ((divertTo n p x s).headClaimPoints n)
    have claim : ∀ k, t.claimOf k n = (divertTo n p x s).claimOf k n := fun k => congrArg (List.find? _) (claims k)
    have assigned : w.assigned = some g := by rw [hwq]; exact hqa
    refine ⟨t, w, ?_, hw', ?_, flags _ ((replan_replans _ n p x).latched (noteAndRewrite_latched s _)), ?_, fun y hb hy => ?_,
      fun y hb hy => ?_, fun y hb hy => ?_, fun g' hg' => ?_, others, ?_, by rwa [state] at chosen, frame⟩
    · rw [exec_lastMomentExpiry s h ht hr hl, lastMomentExpires_diverts s ha hw hc he hx, followCut, run]
    · rw [← divertReason_eq]
      exact hwq.noted noted
    · rw [hwq]; exact state
    · obtain ⟨hg, htr⟩ := kept y hb hy
      exact ⟨assigned.trans (congrArg some hg), tracks.trans htr⟩
    · rw [assigned, fallback y hb hy]
    · rw [assigned, named y hb hy]
    · obtain rfl : g = g' := Option.some.inj (assigned.symm.trans hg')
      exact ⟨fun k hk => (claim k).trans (off k hk), fun hn hm => (claim p).trans (on hn hm)⟩
    · rw [hwq]; exact unplanned
  · obtain ⟨q, hq, noted, state, assigned, unplanned, marks, here, below, above, htr⟩ := divertUnknown_spec s h hc
    obtain ⟨t, w, run, hw', hwq, chosen, claims, tracks, flags, others, frame⟩ := followed_spec (divertUnknown_replans s n p) hq []
    have claim : ∀ k, t.claimOf k n = (divertUnknown n p s).claimOf k n := fun k => congrArg (List.find? _) (claims k)
    have noted' : latched .diverted (divertUnknown n p s) = true :=
      (changeRecord_replans _ n n _).latched ((withdrawAt_replans _ n _).latched (noteAndRewrite_latched s _))
    refine ⟨t, w, ?_, hw', ?_, flags _ noted', ?_, ?_, ?_, ?_, (claim p).trans here, fun k h1 h2 => (claim k).trans (below k h1 h2),
      fun k h1 h2 => (claims k).trans (above k h1 h2), others, by rwa [state] at chosen, ?_⟩
    · rw [exec_lastMomentExpiry s h ht hr hl, lastMomentExpires_diverts_unknown s ha hw hc he, run]
    · rw [← divertReason_eq]
      exact hwq.noted noted
    · rw [hwq]; exact state
    · rw [hwq]; exact assigned
    · rw [hwq]; exact unplanned
    · rw [hwq]; exact marks
    · rwa [tracks.trans htr] at frame

end Sys2Proof.Machine
end

section
/-! RUN from HALTED to STANDBY: what the tracker and the Point Drivers read at the entry (R84, R135, R150). -/

namespace Sys2Proof.Machine

variable (s : State)

/-- The entries in use among the numbers from 1 to `k` are all the entries in use, where those have such numbers. -/
theorem mem_filter_numbers {used : Nat → Bool} {k x : Nat} (h : used x = true → 1 ≤ x ∧ x ≤ k) :
    x ∈ (List.range' 1 k).filter used ↔ used x = true := by
  rw [List.mem_filter, List.mem_range'_1]
  exact ⟨And.right, fun hu => ⟨by have := h hu; omega, hu⟩⟩

theorem mem_usedSections {m : Image} {x : Nat} : x ∈ sectionNumbers.filter (sectionUsed m) ↔ sectionUsed m x = true :=
  mem_filter_numbers fun h => by simp only [sectionUsed, Bool.and_eq_true, decide_eq_true_eq] at h; exact h.1

theorem mem_usedPoints {m : Image} {p : Nat} : p ∈ pointNumbers.filter (pointUsed m) ↔ pointUsed m p = true :=
  mem_filter_numbers fun h => by simp only [pointUsed, Bool.and_eq_true, decide_eq_true_eq] at h; exact h.1

theorem mem_usedTracks {m : Image} {y : Nat} : y ∈ trackNumbers.filter (trackUsed m) ↔ trackUsed m y = true :=
  mem_filter_numbers fun h => by simp only [trackUsed, Bool.and_eq_true, decide_eq_true_eq] at h; exact h.1

/-! ### The sections and the points are read -/

/-- A section entry as the tracker reads it at the entry to STANDBY (R84). -/
def State.sectionRead (s : State) (x : Nat) : SectionEntry :=
  { s.section x with unexplained := s.sectionInput x, unproven := false, proving := none }

/-- A point entry as the Point Drivers read it at the entry to STANDBY (R135, R108). -/
def State.pointRead (s : State) (p : Nat) : PointEntry :=
  { s.point p with
    state := if (s.detection p).isSome then .atRest else .fault
    target := none, drive := none, throwLimit := none, settleTimer := none
    lastSettled := s.clock, idleTimer := s.idleFromNow, stood := false }

theorem section_readSection (y x : Nat) : (readSection s y).section x = if x = y then s.sectionRead y else s.section x :=
  Table.read_write SectionEntry.initial s.sections y (s.sectionRead y) x

theorem point_readPoint (q p : Nat) : (readPoint s q).point p = if p = q then s.pointRead q else s.point p :=
  Table.read_write PointEntry.initial s.points q (s.pointRead q) p

theorem readSections_frame (l : List Nat) : l.foldl readSection s = { s with sections := (l.foldl readSection s).sections } := by
  induction l generalizing s with
  | nil => rfl
  | cons y l ih => exact (ih (readSection s y)).trans rfl

theorem readPoints_frame (l : List Nat) : l.foldl readPoint s = { s with points := (l.foldl readPoint s).points } := by
  induction l generalizing s with
  | nil => rfl
  | cons q l ih => exact (ih (readPoint s q)).trans rfl

theorem section_readPoints (l : List Nat) (x : Nat) : (l.foldl readPoint s).section x = s.section x := by rw [readPoints_frame]; rfl

theorem point_readSections (l : List Nat) (p : Nat) : (l.foldl readSection s).point p = s.point p := by rw [readSections_frame]; rfl

theorem latched_readSections (l : List Nat) (c : Cause) : latched c (l.foldl readSection s) = latched c s := by
  rw [readSections_frame]; rfl

theorem latched_readPoints (l : List Nat) (c : Cause) : latched c (l.foldl readPoint s) = latched c s := by
  rw [readPoints_frame]; rfl

theorem section_readSections (l : List Nat) (x : Nat) :
    (l.foldl readSection s).section x = if x ∈ l then s.sectionRead x else s.section x := by
  induction l generalizing s with
  | nil => simp
  | cons y l ih =>
    have again : (readSection s y).sectionRead x = s.sectionRead x := by
      show { (readSection s y).section x with unexplained := s.sectionInput x, unproven := false, proving := none } = _
      rw [section_readSection]
      split
      · rename_i h
        rw [h]; rfl
      · rfl
    rw [List.foldl_cons, ih, again, section_readSection]
    by_cases hl : x ∈ l
    · simp [hl]
    · by_cases hy : x = y <;> simp [hl, hy]

theorem point_readPoints (l : List Nat) (p : Nat) :
    (l.foldl readPoint s).point p = if p ∈ l then s.pointRead p else s.point p := by
  induction l generalizing s with
  | nil => simp
  | cons q l ih =>
    have again : (readPoint s q).pointRead p = s.pointRead p := by
      show { (readPoint s q).point p with
        state := if (s.detection p).isSome then .atRest else .fault
        target := none, drive := none, throwLimit := none, settleTimer := none
        lastSettled := s.clock, idleTimer := s.idleFromNow, stood := false } = _
      rw [point_readPoint]
      split
      · rename_i h
        rw [h]; rfl
      · rfl
    rw [List.foldl_cons, ih, again, point_readPoint]
    by_cases hl : p ∈ l
    · simp [hl]
    · by_cases hq : p = q <;> simp [hl, hq]

/-! ### The entry -/

/-- The board as it stands when the sections are to be read. -/
def treeDerived (s : State) : State := { s with tree := deriveTree s.layout, runState := .standby }

/-- The board when its sections have been read, SECTION latched where an input is occupied. -/
def sectionsRead (s : State) : State :=
  latchIf ((sectionNumbers.filter (sectionUsed s.layout)).any s.sectionInput) .sectionCause
    ((sectionNumbers.filter (sectionUsed s.layout)).foldl readSection (treeDerived s))

theorem enterStandby_eq : enterStandby s =
    latchIf ((pointNumbers.filter (pointUsed s.layout)).any (fun p => (s.detection p).isNone)) .pointFault
      ((pointNumbers.filter (pointUsed s.layout)).foldl readPoint (sectionsRead s)) := rfl

/-- Only section entries, points and flags may differ: what the reading at the entry can touch. -/
def ReadFrame (s t : State) : Prop := t = { s with sections := t.sections, points := t.points, flags := t.flags }

theorem ReadFrame.trans {s t u : State} (h1 : ReadFrame s t) (h2 : ReadFrame t u) : ReadFrame s u := by
  unfold ReadFrame at *
  rw [h2, h1]

theorem latchIf_read (b : Bool) (c : Cause) : ReadFrame s (latchIf b c s) := by cases b <;> exact rfl

theorem readSections_read (l : List Nat) : ReadFrame s (l.foldl readSection s) := by
  rw [readSections_frame]
  exact rfl

theorem readPoints_read (l : List Nat) : ReadFrame s (l.foldl readPoint s) := by
  rw [readPoints_frame]
  exact rfl

theorem sectionsRead_read : ReadFrame (treeDerived s) (sectionsRead s) := (readSections_read _ _).trans (latchIf_read _ _ _)

/-- Everything but the tree, the run state, and what is read, stands. -/
theorem enterStandby_frame :
    enterStandby s = { s with
      runState := .standby, tree := deriveTree s.layout, sections := (enterStandby s).sections, points := (enterStandby s).points
      flags := (enterStandby s).flags } :=
  ((sectionsRead_read s).trans (readPoints_read _ _)).trans (latchIf_read _ _ _)

theorem section_latchIf (b : Bool) (c : Cause) (x : Nat) : (latchIf b c s).section x = s.section x := by cases b <;> rfl

theorem point_latchIf (b : Bool) (c : Cause) (p : Nat) : (latchIf b c s).point p = s.point p := by cases b <;> rfl

theorem section_enterStandby (x : Nat) :
    (enterStandby s).section x = if sectionUsed s.layout x = true then s.sectionRead x else s.section x := by
  rw [enterStandby_eq, section_latchIf, section_readPoints, sectionsRead, section_latchIf, section_readSections]
  simp only [mem_usedSections]
  rfl

theorem point_enterStandby (p : Nat) :
    (enterStandby s).point p = if pointUsed s.layout p = true then s.pointRead p else s.point p := by
  have frame := sectionsRead_read s
  have before : (sectionsRead s).point p = s.point p := by
    rw [sectionsRead, point_latchIf, point_readSections]
    rfl
  have read : (sectionsRead s).pointRead p = s.pointRead p := by
    unfold State.pointRead
    rw [before, frame]
    rfl
  rw [enterStandby_eq, point_latchIf, point_readPoints, before, read]
  simp only [mem_usedPoints]

/-- SECTION and POINT_FAULT latch exactly for the sections and points read so (R84, R135); every other flag stands. -/
theorem latched_enterStandby (c : Cause) :
    latched c (enterStandby s) = true ↔ latched c s = true
      ∨ (c = .sectionCause ∧ ∃ x, sectionUsed s.layout x = true ∧ s.sectionInput x = true)
      ∨ (c = .pointFault ∧ ∃ p, pointUsed s.layout p = true ∧ s.detection p = none) := by
  have derived : latched c (treeDerived s) = latched c s := rfl
  rw [enterStandby_eq, latched_latchIf, latched_readPoints, sectionsRead, latched_latchIf, latched_readSections, derived]
  simp only [Bool.or_eq_true, Bool.and_eq_true, List.any_eq_true, decide_eq_true_eq, mem_usedSections, mem_usedPoints,
    Option.isNone_iff_eq_none, or_assoc, eq_comm (a := c), and_comm]

/-- RUN to STANDBY from HALTED is accepted when the layout checks pass (R149, R150). -/
theorem exec_run_standby (force : Byte) (hr : Ready s) (hh : s.runState = .halted) (hl : layoutCheck s.active = none) :
    exec (.run [0x01#8, force]) s = .next (finish (answering 0x40#8 [0x00#8, 0x01#8] (enterStandby (hunt s)))) := by
  have owner : runRequest { item := 1, value := force.toNat } (hunt s) = runAccepted (enterStandby (hunt s)) := by
    simp [runRequest, runTargetOf, runValuesOk, hh, hl]
  show Host.Outcome.next (finish (takeRequest 0x40#8 (some { item := 1, value := force.toNat }) runRequest s)) = _
  have standby : (enterStandby (hunt s)).runState = .standby := by rw [enterStandby_frame]
  have accepted : runAccepted (enterStandby (hunt s)) = (enterStandby (hunt s), [0x00#8, 0x01#8]) := by
    rw [runAccepted, standby]; rfl
  rw [takeRequest_taken s _ _ _ hr.1 hr.2, owner, accepted]

/-- RUN from HALTED, the layout checks having passed: the first part of O38 (R150). -/
theorem run_enters_standby (force : Byte) (hr : Ready s) (hh : s.runState = .halted) (hl : layoutCheck s.active = none) :
    ∃ t, exec (.run [0x01#8, force]) s = .next t
      ∧ t.runState = .standby ∧ t.tree = deriveTree s.layout ∧ t.inHand = some { code := 0xC0#8, body := [0x00#8, 0x01#8] }
      ∧ (∀ x, t.section x = if sectionUsed s.layout x = true then s.sectionRead x else s.section x)
      ∧ (∀ p, t.point p = if pointUsed s.layout p = true then s.pointRead p else s.point p)
      ∧ (∀ c, latched c t = true ↔ latched c s = true
          ∨ (c = .sectionCause ∧ ∃ x, sectionUsed s.layout x = true ∧ s.sectionInput x = true)
          ∨ (c = .pointFault ∧ ∃ p, pointUsed s.layout p = true ∧ s.detection p = none))
      ∧ t = { s with
          receiver := .hunting, inHand := t.inHand, runState := .standby, tree := t.tree, sections := t.sections, points := t.points
          flags := t.flags, humpPermit := t.humpPermit, attentionLine := t.attentionLine } := by
  have frame := enterStandby_frame (hunt s)
  have run := exec_run_standby s force hr hh hl
  have sections := section_enterStandby (hunt s)
  have points := point_enterStandby (hunt s)
  have flags := latched_enterStandby (hunt s)
  generalize enterStandby (hunt s) = u at *
  have tree : u.tree = deriveTree s.layout := by rw [frame]; rfl
  refine ⟨_, run, ?_, tree, rfl, sections, points, flags, ?_⟩
  · show u.runState = _
    rw [frame]
  · rw [show deriveTree (hunt s).layout = u.tree from tree.symm] at frame
    exact congrArg (fun v : State => { answering 0x40#8 [0x00#8, 0x01#8] v with
      humpPermit := permitCondition (answering 0x40#8 [0x00#8, 0x01#8] u)
      attentionLine := attentionCondition (answering 0x40#8 [0x00#8, 0x01#8] u) }) frame

end Sys2Proof.Machine
end

section
/-! The walk through a layout (R11): one induction over it, and what its ways are. -/

namespace Sys2Proof.Machine

variable {m : Image}

/-! ### One induction over the walk -/

/-- The walk arrives at a section. -/
def Walk.arrive (w : Walk) (x : Nat) : Walk := { w with arrivals := w.arrivals ++ [x] }

/-- The walk goes on from a section. -/
def Walk.goOn (w : Walk) (a : Arrival) : Walk :=
  { w.arrive a.sec with sections := w.sections ++ [{ sec := a.sec, path := a.path ++ [a.sec] }] }

/-- The arrivals of the branches of a point that the walk follows from an arrival. -/
def branchArrivals (m : Image) (p : Nat) (a : Arrival) : List Arrival :=
  (followBranch m p .normal (a.path ++ [a.sec]) a.route).1 ++ (followBranch m p .reverse (a.path ++ [a.sec]) a.route).1

/-- The tracks that the branches of a point lead to from an arrival. -/
def branchTracks (m : Image) (p : Nat) (a : Arrival) : List TrackWay :=
  (followBranch m p .normal (a.path ++ [a.sec]) a.route).2 ++ (followBranch m p .reverse (a.path ++ [a.sec]) a.route).2

/-- The walk goes through both branches of a point. -/
def Walk.fork (m : Image) (w : Walk) (a : Arrival) (p : Nat) : Walk :=
  { w.goOn a with branches := w.branches ++ [(p, .normal), (p, .reverse)], tracks := w.tracks ++ branchTracks m p a }

/-- The walk goes on from a section in use that it has not gone on from before. -/
def Walk.Enters (m : Image) (w : Walk) (x : Nat) : Prop := x ∉ w.sections.map SectionWay.sec ∧ sectionUsed m x = true

theorem Walk.not_enters_iff {w : Walk} {x : Nat} :
    (w.sections.any (fun e => e.sec == x) || !sectionUsed m x) = true ↔ ¬ w.Enters m x := by
  simp only [Walk.Enters, List.mem_map, Bool.or_eq_true, List.any_eq_true, beq_iff_eq, Bool.not_eq_true', not_and_or, not_not,
    Bool.not_eq_true]

section
variable {fuel : Nat} {a : Arrival} {rest : List Arrival} {w : Walk}

theorem walkFrom_stop (h : ¬ w.Enters m a.sec) : walkFrom m (fuel + 1) (a :: rest) w = walkFrom m fuel rest (w.arrive a.sec) := by
  rw [walkFrom]
  exact if_pos (Walk.not_enters_iff.mpr h)

theorem walkFrom_next {y : Nat} (h : w.Enters m a.sec) (hl : sectionLink m a.sec = .next y) :
    walkFrom m (fuel + 1) (a :: rest) w
      = walkFrom m fuel ({ sec := y, path := a.path ++ [a.sec], route := a.route } :: rest) (w.goOn a) := by
  rw [walkFrom]
  refine (if_neg (fun k => Walk.not_enters_iff.mp k h)).trans ?_
  rw [hl]
  rfl

theorem walkFrom_closed {p : Nat} (h : w.Enters m a.sec) (hl : sectionLink m a.sec = .switch p) (hp : pointUsed m p = false) :
    walkFrom m (fuel + 1) (a :: rest) w = walkFrom m fuel rest (w.goOn a) := by
  rw [walkFrom]
  refine (if_neg (fun k => Walk.not_enters_iff.mp k h)).trans ?_
  rw [hl]
  exact if_pos (by rw [hp]; rfl)

theorem walkFrom_fork {p : Nat} (h : w.Enters m a.sec) (hl : sectionLink m a.sec = .switch p) (hp : pointUsed m p = true) :
    walkFrom m (fuel + 1) (a :: rest) w = walkFrom m fuel (branchArrivals m p a ++ rest) (w.fork m a p) := by
  rw [walkFrom]
  refine (if_neg (fun k => Walk.not_enters_iff.mp k h)).trans ?_
  rw [hl, Walk.fork, branchTracks, ← List.append_assoc]
  exact if_neg (by rw [hp]; decide)

end

/-- What holds of the arrivals still to come and of the walk so far, and is kept by each of the walk's four moves, holds at its end. -/
theorem walk_keeps {P : List Arrival → Walk → Prop}
    (start : P [{ sec := 1, path := [], route := [] }] { arrivals := [], sections := [], branches := [], tracks := [] })
    (stop : ∀ a rest w, P (a :: rest) w → ¬ w.Enters m a.sec → P rest (w.arrive a.sec))
    (next : ∀ a rest w y, P (a :: rest) w → w.Enters m a.sec → sectionLink m a.sec = .next y →
      P ({ sec := y, path := a.path ++ [a.sec], route := a.route } :: rest) (w.goOn a))
    (closed : ∀ a rest w p, P (a :: rest) w → w.Enters m a.sec → sectionLink m a.sec = .switch p → pointUsed m p = false →
      P rest (w.goOn a))
    (fork : ∀ a rest w p, P (a :: rest) w → w.Enters m a.sec → sectionLink m a.sec = .switch p → pointUsed m p = true →
      P (branchArrivals m p a ++ rest) (w.fork m a p)) : ∃ left, P left (walk m) := by
  have along : ∀ fuel work w, P work w → ∃ left, P left (walkFrom m fuel work w) := by
    intro fuel
    induction fuel with
    | zero => exact fun work w h => ⟨work, h⟩
    | succ fuel ih =>
      intro work w h
      cases work with
      | nil => exact ⟨[], h⟩
      | cons a rest =>
        by_cases he : w.Enters m a.sec
        · cases hl : sectionLink m a.sec with
          | next y => rw [walkFrom_next he hl]; exact ih _ _ (next a rest w y h he hl)
          | switch p =>
            cases hp : pointUsed m p with
            | false => rw [walkFrom_closed he hl hp]; exact ih _ _ (closed a rest w p h he hl hp)
            | true => rw [walkFrom_fork he hl hp]; exact ih _ _ (fork a rest w p h he hl hp)
        · rw [walkFrom_stop he]; exact ih _ _ (stop a rest w h he)
  exact along 258 _ _ start

theorem mem_branchArrivals {p : Nat} {a b : Arrival} (h : b ∈ branchArrivals m p a) :
    ∃ x y, branchTarget m p x = .sec y ∧ b = { sec := y, path := a.path ++ [a.sec], route := a.route ++ [(p, x)] } := by
  have one : ∀ x, b ∈ (followBranch m p x (a.path ++ [a.sec]) a.route).1 →
      ∃ x y, branchTarget m p x = .sec y ∧ b = { sec := y, path := a.path ++ [a.sec], route := a.route ++ [(p, x)] } := by
    intro x hb
    unfold followBranch at hb
    cases ht : branchTarget m p x with
    | sec y =>
      simp only [ht, List.mem_singleton] at hb
      exact ⟨x, y, ht, hb⟩
    | track y => simp [ht] at hb
  rcases List.mem_append.mp h with h | h
  · exact one _ h
  · exact one _ h

theorem mem_branchTracks {p : Nat} {a : Arrival} {e : TrackWay} (h : e ∈ branchTracks m p a) :
    ∃ x, branchTarget m p x = .track e.track ∧ e.path = a.path ++ [a.sec] ∧ e.route = a.route ++ [(p, x)] := by
  have one : ∀ x, e ∈ (followBranch m p x (a.path ++ [a.sec]) a.route).2 →
      ∃ x, branchTarget m p x = .track e.track ∧ e.path = a.path ++ [a.sec] ∧ e.route = a.route ++ [(p, x)] := by
    intro x he
    unfold followBranch at he
    cases ht : branchTarget m p x with
    | sec y => simp [ht] at he
    | track y =>
      simp only [ht, List.mem_singleton] at he
      subst he
      exact ⟨x, ht, rfl, rfl⟩
  rcases List.mem_append.mp h with h | h
  · exact one _ h
  · exact one _ h

/-! ### The ways of the walk (R19) -/

/-- A way down the layout from section 1: the sections gone through, the branches taken, and the section it arrives at. No section is gone
through twice. -/
inductive Way (m : Image) : List Nat → List (Nat × Position) → Nat → Prop where
  | start : Way m [] [] 1
  | next {path route x y} : Way m path route x → sectionUsed m x = true → x ∉ path → sectionLink m x = .next y →
      Way m (path ++ [x]) route y
  | branch {path route x p b y} : Way m path route x → sectionUsed m x = true → x ∉ path → sectionLink m x = .switch p →
      pointUsed m p = true → branchTarget m p b = .sec y → Way m (path ++ [x]) (route ++ [(p, b)]) y

/-- A section's path is a way to it, with the section itself. -/
def SectionWay.Reached (m : Image) (e : SectionWay) : Prop :=
  ∃ path route, Way m path route e.sec ∧ sectionUsed m e.sec = true ∧ e.sec ∉ path ∧ e.path = path ++ [e.sec]

/-- A track's path and route are a way to a switch section, with that section and the branch that names the track. -/
def TrackWay.Reached (m : Image) (e : TrackWay) : Prop :=
  ∃ path route x p b, Way m path route x ∧ sectionUsed m x = true ∧ x ∉ path ∧ sectionLink m x = .switch p ∧ pointUsed m p = true
    ∧ branchTarget m p b = .track e.track ∧ e.path = path ++ [x] ∧ e.route = route ++ [(p, b)]

/-- The arrivals to come, the sections and the tracks of a walk are all reached by ways through sections it has gone on from. -/
structure WalkSound (m : Image) (work : List Arrival) (w : Walk) : Prop where
  arrivals : ∀ a ∈ work, Way m a.path a.route a.sec ∧ ∀ x ∈ a.path, x ∈ w.sections.map SectionWay.sec
  sections : ∀ e ∈ w.sections, e.Reached m
  tracks : ∀ e ∈ w.tracks, e.Reached m

theorem mem_goOn_sections {w : Walk} {a : Arrival} {x : Nat} :
    x ∈ (w.goOn a).sections.map SectionWay.sec ↔ x ∈ w.sections.map SectionWay.sec ∨ x = a.sec := by
  simp [Walk.goOn]

/-- Going on from an arrival keeps the walk sound, where what it leads to is a way through it. -/
theorem WalkSound.goOn {a : Arrival} {rest new : List Arrival} {w : Walk} (h : WalkSound m (a :: rest) w) (he : w.Enters m a.sec)
    (hw : a.sec ∉ a.path → ∀ b ∈ new, Way m b.path b.route b.sec ∧ b.path = a.path ++ [a.sec]) :
    WalkSound m (new ++ rest) (w.goOn a) := by
  obtain ⟨way, path⟩ := h.arrivals a List.mem_cons_self
  have fresh : a.sec ∉ a.path := fun hm => he.1 (path _ hm)
  refine ⟨fun b hb => ?_, fun e hm => ?_, h.tracks⟩
  · rcases List.mem_append.mp hb with hb | hb
    · obtain ⟨hway, hpath⟩ := hw fresh b hb
      refine ⟨hway, fun x hx => mem_goOn_sections.mpr ?_⟩
      rw [hpath, List.mem_append, List.mem_singleton] at hx
      exact hx.imp_left (path x)
    · obtain ⟨hway, hpath⟩ := h.arrivals b (List.mem_cons_of_mem a hb)
      exact ⟨hway, fun x hx => mem_goOn_sections.mpr (.inl (hpath x hx))⟩
  · rcases List.mem_append.mp hm with hm | hm
    · exact h.sections e hm
    · obtain rfl := List.mem_singleton.mp hm
      exact ⟨a.path, a.route, way, he.2, fresh, rfl⟩

theorem walk_sound (m : Image) : ∃ left, WalkSound m left (walk m) := by
  refine walk_keeps (P := WalkSound m) ?_ ?_ ?_ ?_ ?_
  · exact ⟨fun a ha => by obtain rfl := List.mem_singleton.mp ha; exact ⟨.start, by simp⟩, by simp, by simp⟩
  · exact fun a rest w h _ => ⟨fun b hb => h.arrivals b (List.mem_cons_of_mem a hb), h.sections, h.tracks⟩
  · intro a rest w y h he hl
    refine h.goOn (new := [_]) he fun hm b hb => ?_
    obtain rfl := List.mem_singleton.mp hb
    exact ⟨.next (h.arrivals a List.mem_cons_self).1 he.2 hm hl, rfl⟩
  · exact fun a rest w p h he _ _ => h.goOn (new := []) he (fun _ b hb => by cases hb)
  · intro a rest w p h he hl hp
    have gone : WalkSound m (branchArrivals m p a ++ rest) (w.goOn a) := h.goOn he fun hm b hb => by
      obtain ⟨x, y, ht, rfl⟩ := mem_branchArrivals hb
      exact ⟨.branch (h.arrivals a List.mem_cons_self).1 he.2 hm hl hp ht, rfl⟩
    refine ⟨gone.arrivals, gone.sections, fun e hm => ?_⟩
    rcases List.mem_append.mp hm with hm | hm
    · exact h.tracks e hm
    · obtain ⟨way, path⟩ := h.arrivals a List.mem_cons_self
      obtain ⟨x, ht, hep, her⟩ := mem_branchTracks hm
      exact ⟨a.path, a.route, a.sec, p, x, way, he.2, fun hm => he.1 (path _ hm), hl, hp, ht, hep, her⟩

/-! ### What else the walk keeps -/

/-- As long as no section is arrived at twice and all are in use, the walk goes on from each it arrives at (R12). -/
def WalkGoesOn (m : Image) (w : Walk) : Prop :=
  w.arrivals.Nodup → (∀ x ∈ w.arrivals, sectionUsed m x = true) → w.sections.map SectionWay.sec = w.arrivals

theorem WalkGoesOn.goOn {w : Walk} (h : WalkGoesOn m w) (a : Arrival) : WalkGoesOn m (w.goOn a) := by
  intro hn hu
  have before := h (List.Nodup.of_append_left hn) (fun x hx => hu x (List.mem_append_left _ hx))
  simp [Walk.goOn, Walk.arrive, before]

theorem walk_goesOn (m : Image) : WalkGoesOn m (walk m) := by
  refine (walk_keeps (P := fun _ w => WalkGoesOn m w) (fun _ _ => rfl) ?_ (fun a rest w y h _ _ => h.goOn a)
    (fun a rest w p h _ _ _ => h.goOn a) (fun a rest w p h _ _ _ => h.goOn a)).elim fun _ h => h
  intro a rest w h he hn hu
  have before := h (List.Nodup.of_append_left hn) (fun x hx => hu x (List.mem_append_left _ hx))
  refine absurd ⟨fun hs => ?_, hu a.sec (List.mem_append_right _ (List.mem_singleton_self _))⟩ he
  rw [before] at hs
  exact List.disjoint_of_nodup_append hn hs (List.mem_singleton_self a.sec)

/-- The walk has followed both branches of every point in use at whose switch section it has been (R11). -/
def WalkFollows (m : Image) (w : Walk) : Prop :=
  ∀ x ∈ w.sections.map SectionWay.sec, ∀ p, sectionLink m x = .switch p → pointUsed m p = true → ∀ b, (p, b) ∈ w.branches

/-- Going on from an arrival keeps it, where the branches at the arrival's own point have been followed. -/
theorem WalkFollows.goOn {w v : Walk} {a : Arrival} (h : WalkFollows m w) (hv : v.sections = (w.goOn a).sections)
    (hb : ∀ c ∈ w.branches, c ∈ v.branches)
    (ha : ∀ p, sectionLink m a.sec = .switch p → pointUsed m p = true → ∀ b, (p, b) ∈ v.branches) : WalkFollows m v := by
  intro x hx p hl hp b
  rw [hv] at hx
  rcases mem_goOn_sections.mp hx with hx | rfl
  · exact hb _ (h x hx p hl hp b)
  · exact ha p hl hp b

theorem walk_follows (m : Image) : WalkFollows m (walk m) := by
  refine (walk_keeps (P := fun _ w => WalkFollows m w) (by simp [WalkFollows]) (fun a rest w h _ => h) ?_ ?_ ?_).elim fun _ h => h
  · intro a rest w y h _ hl
    refine h.goOn rfl (fun _ hc => hc) fun p hlp => ?_
    rw [hl] at hlp
    cases hlp
  · intro a rest w q h _ hl hq
    refine h.goOn rfl (fun _ hc => hc) fun p hlp hp => ?_
    rw [hl] at hlp
    cases hlp
    rw [hq] at hp
    cases hp
  · intro a rest w q h _ hl _
    refine h.goOn rfl (fun _ hc => List.mem_append_left _ hc) fun p hlp _ b => List.mem_append_right _ ?_
    rw [hl] at hlp
    cases hlp
    cases b <;> simp

/-- The first point of a route is a given one. -/
def BeginsAt (p : Nat) (route : List (Nat × Position)) : Prop := route.head?.map Prod.fst = some p

theorem BeginsAt.append {p : Nat} {route : List (Nat × Position)} (h : BeginsAt p route) (more : List (Nat × Position)) :
    BeginsAt p (route ++ more) := by
  cases route with
  | nil => cases h
  | cons pb route => exact h

/-- The routes so far begin with one point, or there is one arrival to come and no point has been come to (R19). -/
def WalkRooted (work : List Arrival) (w : Walk) : Prop :=
  (∃ a, work = [a] ∧ a.route = [] ∧ w.tracks = []) ∨ ∃ p, (∀ a ∈ work, BeginsAt p a.route) ∧ ∀ e ∈ w.tracks, BeginsAt p e.route

/-- An arrival is left without any that follow it. -/
theorem WalkRooted.leave {a : Arrival} {rest : List Arrival} {w v : Walk} (h : WalkRooted (a :: rest) w) (hv : v.tracks = w.tracks) :
    WalkRooted rest v := by
  unfold WalkRooted
  rw [hv]
  rcases h with ⟨b, hw, -, ht⟩ | ⟨p, ha, ht⟩
  · obtain ⟨-, rfl⟩ := List.cons.inj hw
    exact .inr ⟨0, by simp, by simp [ht]⟩
  · exact .inr ⟨p, fun b hb => ha b (List.mem_cons_of_mem a hb), ht⟩

theorem walk_rooted (m : Image) : ∃ left, WalkRooted left (walk m) := by
  refine walk_keeps (P := WalkRooted) (.inl ⟨_, rfl, rfl, rfl⟩) ?_ ?_ ?_ ?_
  · exact fun a rest w h _ => h.leave rfl
  · rintro a rest w y (⟨b, hw, hb, ht⟩ | ⟨p, ha, ht⟩) - -
    · obtain ⟨rfl, rfl⟩ := List.cons.inj hw
      exact .inl ⟨_, rfl, hb, ht⟩
    · refine .inr ⟨p, fun b hb => ?_, ht⟩
      rcases List.mem_cons.mp hb with rfl | hb
      · exact ha a List.mem_cons_self
      · exact ha b (List.mem_cons_of_mem a hb)
  · exact fun a rest w p h _ _ _ => h.leave rfl
  · intro a rest w q h _ _ _
    have into : ∀ p, (∀ x, BeginsAt p (a.route ++ [(q, x)])) → (∀ b ∈ rest, BeginsAt p b.route) →
        (∀ e ∈ w.tracks, BeginsAt p e.route) → WalkRooted (branchArrivals m q a ++ rest) (w.fork m a q) := by
      intro p hq hr ht
      refine .inr ⟨p, fun b hb => ?_, fun e he => ?_⟩
      · rcases List.mem_append.mp hb with hb | hb
        · obtain ⟨x, y, -, rfl⟩ := mem_branchArrivals hb
          exact hq x
        · exact hr b hb
      · rcases List.mem_append.mp he with he | he
        · exact ht e he
        · obtain ⟨x, -, -, her⟩ := mem_branchTracks he
          rw [her]
          exact hq x
    rcases h with ⟨b, hw, hb, ht⟩ | ⟨p, ha, ht⟩
    · obtain ⟨rfl, rfl⟩ := List.cons.inj hw
      exact into q (fun x => by rw [hb]; rfl) (by simp) (by simp [ht])
    · exact into p (fun x => (ha a List.mem_cons_self).append _) (fun b hb => ha b (List.mem_cons_of_mem a hb)) ht

theorem walk_root (m : Image) : ∃ p, ∀ e ∈ (walk m).tracks, BeginsAt p e.route := by
  obtain ⟨left, ⟨-, -, -, h⟩ | ⟨p, -, h⟩⟩ := walk_rooted m
  · exact ⟨0, by simp [h]⟩
  · exact ⟨p, h⟩

/-! ### What a way is -/

section
variable {path : List Nat} {route : List (Nat × Position)} {x : Nat}

theorem Way.used (h : Way m path route x) : ∀ y ∈ path, sectionUsed m y = true := by
  induction h with
  | start => simp
  | next _ hu _ _ ih => exact fun y hy => (List.mem_append.mp hy).elim (ih y) (fun h => by rw [List.mem_singleton.mp h]; exact hu)
  | branch _ hu _ _ _ _ ih => exact fun y hy => (List.mem_append.mp hy).elim (ih y) (fun h => by rw [List.mem_singleton.mp h]; exact hu)

theorem nodup_snoc {l : List Nat} {y : Nat} (h : l.Nodup) (hy : y ∉ l) : (l ++ [y]).Nodup := by
  rw [List.nodup_append_comm]
  exact List.nodup_cons.mpr ⟨hy, h⟩

theorem Way.nodup (h : Way m path route x) : path.Nodup := by
  induction h with
  | start => exact List.nodup_nil
  | next _ _ hx _ ih => exact nodup_snoc ih hx
  | branch _ _ hx _ _ _ ih => exact nodup_snoc ih hx

/-- A way begins at section 1. -/
theorem Way.head (h : Way m path route x) : (path ++ [x]).head? = some 1 := by
  induction h with
  | start => rfl
  | next _ _ _ _ ih => rw [List.head?_append, ih]; rfl
  | branch _ _ _ _ _ _ ih => rw [List.head?_append, ih]; rfl

theorem Way.pointsUsed (h : Way m path route x) : ∀ pb ∈ route, pointUsed m pb.1 = true := by
  induction h with
  | start => simp
  | next _ _ _ _ ih => exact ih
  | branch _ _ _ _ hp _ ih => exact fun pb hm => (List.mem_append.mp hm).elim (ih pb) (fun h => by rw [List.mem_singleton.mp h]; exact hp)

/-- How a way goes from one section to the next: by a link, or by a branch of the route (R19). -/
def Joins (m : Image) (route : List (Nat × Position)) (x y : Nat) : Prop :=
  sectionLink m x = .next y ∨ ∃ p b, sectionLink m x = .switch p ∧ (p, b) ∈ route ∧ branchTarget m p b = .sec y

theorem Joins.append {y : Nat} (h : Joins m route x y) (more : List (Nat × Position)) : Joins m (route ++ more) x y :=
  h.imp_right fun ⟨p, b, hl, hr, ht⟩ => ⟨p, b, hl, List.mem_append_left _ hr, ht⟩

theorem chain_snoc {R : Nat → Nat → Prop} {l : List Nat} {y : Nat} (h : (l ++ [x]).IsChain R) (hr : R x y) :
    (l ++ [x] ++ [y]).IsChain R := by
  rw [List.isChain_append]
  exact ⟨h, List.isChain_singleton y, by simp [hr]⟩

theorem Way.joined (h : Way m path route x) : (path ++ [x]).IsChain (Joins m route) := by
  induction h with
  | start => exact List.isChain_singleton 1
  | next _ _ _ hl ih => exact chain_snoc ih (.inl hl)
  | branch _ _ _ hl _ ht ih =>
    exact chain_snoc (ih.imp fun _ _ hj => hj.append _) (.inr ⟨_, _, hl, List.mem_append_right _ (List.mem_singleton_self _), ht⟩)

theorem pointOfSection_switch {p : Nat} (hu : sectionUsed m x = true) (hl : sectionLink m x = .switch p) (hp : pointUsed m p = true) :
    pointOfSection m x = some p := by simp [pointOfSection, hu, hl, hp]

theorem pointOfSection_next {y : Nat} (hl : sectionLink m x = .next y) : pointOfSection m x = none := by simp [pointOfSection, hl]

/-- Each point of a way's route has its switch section on the path, in the same order, where the points' switch sections are those that name
them (R13, R19). -/
theorem Way.switches (h : Way m path route x) (hs : ∀ y p, sectionUsed m y = true → sectionLink m y = .switch p → switchSection m p = y) :
    route.map (fun pb => switchSection m pb.1) = path.filter (fun y => (pointOfSection m y).isSome) := by
  induction h with
  | start => rfl
  | next _ _ _ hl ih => simp [ih, pointOfSection_next hl]
  | branch _ hu _ hl hp _ ih => simp [ih, pointOfSection_switch hu hl hp, hs _ _ hu hl]

end

end Sys2Proof.Machine
end

section
/-! What a pass of the layout checks means for a layout and the tree derived from it (R12 to R19). -/

namespace Sys2Proof.Machine

variable {m : Image}

/-! ### The checks -/

theorem allDifferent_iff {l : List Nat} : allDifferent l = true ↔ l.Nodup := by
  simp [allDifferent, List.nodup_iff_count_eq_one]

/-- A layout passes when each of the seven checks does (R10). -/
structure Passes (m : Image) : Prop where
  tree : treeFails m (walk m) = false
  switch : switchFails m = false
  track : trackFails m (walk m) = false
  fallback : fallbackFails m (walk m) = false
  channel : channelFails m = false
  range : rangeFails m = false
  default : defaultFails m (walk m) = false

theorem passes_of_layoutCheck (h : layoutCheck (some m) = none) : Passes m := by
  simp only [layoutCheck, imageCheck] at h
  split_ifs at h with tree switch track fallback channel range default
  simp only [Bool.not_eq_true] at tree switch track fallback channel range default
  exact ⟨tree, switch, track, fallback, channel, range, default⟩

/-- What TREE passes (R12). -/
theorem treeFails_false {w : Walk} (h : treeFails m w = false) :
    sectionUsed m 1 = true ∧ (∀ x ∈ w.arrivals, sectionUsed m x = true) ∧ (∀ x, sectionUsed m x = true → x ∈ w.arrivals)
      ∧ w.arrivals.Nodup := by
  simp only [treeFails, Bool.or_eq_false_iff, Bool.not_eq_false', List.any_eq_false, Bool.not_eq_true', allDifferent_iff,
    Bool.not_eq_false, List.contains_iff_mem, mem_usedSections] at h
  obtain ⟨⟨⟨one, used⟩, all⟩, once⟩ := h
  exact ⟨one, used, all, once⟩

theorem distinct_filterMap {l : List Nat} {f : Nat → Option Nat} (h : (l.filterMap f).Nodup) {x y p : Nat} (hx : x ∈ l) (hy : y ∈ l)
    (fx : f x = some p) (fy : f y = some p) : x = y := by
  induction l with
  | nil => cases hx
  | cons a l ih =>
    have first : f a = some p → ∀ z ∈ l, f z ≠ some p := fun fa z hz fz => by
      rw [List.filterMap_cons_some fa, List.nodup_cons] at h
      exact h.1 (List.mem_filterMap.mpr ⟨z, hz, fz⟩)
    have rest : (l.filterMap f).Nodup := ((List.sublist_cons_self a l).filterMap f).nodup h
    rcases List.mem_cons.mp hx with rfl | hxl
    · rcases List.mem_cons.mp hy with rfl | hyl
      · rfl
      · exact absurd fy (first fx y hyl)
    · rcases List.mem_cons.mp hy with rfl | hyl
      · exact absurd fx (first fy x hxl)
      · exact ih rest hxl hyl

/-- What SWITCH passes: the points in use and the switch sections match one to one (R13). -/
theorem switchFails_false (h : switchFails m = false) :
    (∀ p, pointUsed m p = true → sectionUsed m (switchSection m p) = true ∧ sectionLink m (switchSection m p) = .switch p)
      ∧ ∀ x p, sectionUsed m x = true → sectionLink m x = .switch p → pointUsed m p = true ∧ switchSection m p = x := by
  simp only [switchFails, Bool.or_eq_false_iff, Bool.not_eq_false', List.any_eq_false, allDifferent_iff, mem_usedPoints, Bool.or_eq_true,
    Bool.not_eq_true', bne_iff_ne, not_or, Bool.not_eq_false, not_not] at h
  obtain ⟨⟨⟨points, -⟩, linked⟩, once⟩ := h
  have used : ∀ x p, sectionUsed m x = true → sectionLink m x = .switch p → pointUsed m p = true := fun x p hx hl =>
    linked p (List.mem_filterMap.mpr ⟨x, mem_usedSections.mpr hx, by simp only [hl]⟩)
  refine ⟨points, fun x p hx hl => ⟨used x p hx hl, ?_⟩⟩
  obtain ⟨hu, hs⟩ := points p (used x p hx hl)
  exact distinct_filterMap once (mem_usedSections.mpr hu) (mem_usedSections.mpr hx) (p := p) (by simp only [hs]) (by simp only [hl])

/-- What TRACK passes: the tracks in use are those of the walk, each once (R14). -/
theorem trackFails_false {w : Walk} (h : trackFails m w = false) :
    (∀ y, trackUsed m y = true ↔ y ∈ w.tracks.map TrackWay.track) ∧ (w.tracks.map TrackWay.track).Nodup := by
  simp only [trackFails, Bool.or_eq_false_iff, List.any_eq_false, Bool.not_eq_true', Bool.not_eq_false, mem_usedTracks, bne_iff_ne,
    not_not] at h
  obtain ⟨used, once⟩ := h
  refine ⟨fun y => ⟨fun hy => ?_, used y⟩, List.nodup_iff_count_eq_one.mpr fun y hy => once y (used y hy)⟩
  exact List.count_pos_iff.mp (by rw [once y hy]; exact Nat.one_pos)

/-- What FALLBACK passes (R15). -/
theorem fallbackFails_false (h : fallbackFails m (walk m) = false) {p x : Nat} {b : Position} (hb : (p, b) ∈ (walk m).branches)
    (ht : branchTarget m p b = .sec x) :
    trackUsed m (fallbackField m p b) = true ∧ (deriveTree m).trackBelow (fallbackField m p b) x = true := by
  simp only [fallbackFails, List.any_eq_false] at h
  have := h (p, b) hb
  simp only [ht, Bool.or_eq_true, Bool.not_eq_true', not_or, Bool.not_eq_false] at this
  exact this

/-- What CHANNEL passes (R16). -/
theorem channelFails_false (h : channelFails m = false) :
    (∀ x y, sectionUsed m x = true → sectionUsed m y = true → sectionChannel m x = sectionChannel m y → x = y)
      ∧ ∀ p q, pointUsed m p = true → pointUsed m q = true →
          drivePair m p = drivePair m q ∨ detectionPair m p = detectionPair m q → p = q := by
  simp only [channelFails, Bool.or_eq_false_iff, Bool.not_eq_false', allDifferent_iff] at h
  obtain ⟨⟨channels, drives⟩, detections⟩ := h
  refine ⟨fun x y hx hy e =>
    List.inj_on_of_nodup_map channels (mem_usedSections.mpr hx) (mem_usedSections.mpr hy) e, ?_⟩
  rintro p q hp hq (e | e)
  · exact List.inj_on_of_nodup_map drives (mem_usedPoints.mpr hp) (mem_usedPoints.mpr hq) e
  · exact List.inj_on_of_nodup_map detections (mem_usedPoints.mpr hp) (mem_usedPoints.mpr hq) e

theorem outside_eq_false {lo hi n : Nat} : outside lo hi n = false ↔ lo ≤ n ∧ n ≤ hi := by simp [outside]

theorem sectionRangeFails_false {x : Nat} (h : sectionRangeFails m x = false) :
    10 ≤ sectionLength m x ∧ sectionLength m x ≤ 2000 ∧ 1 ≤ sectionChannel m x ∧ sectionChannel m x ≤ 128 := by
  simp only [sectionRangeFails, Bool.or_eq_false_iff, outside_eq_false] at h
  omega

theorem pointRangeFails_false {p : Nat} (h : pointRangeFails m p = false) :
    200 ≤ throwBudget m p ∧ throwBudget m p ≤ 5000 ∧ throwBudget m p ≤ coldBudget m p ∧ coldBudget m p ≤ 8000 ∧ 1 ≤ drivePair m p
      ∧ drivePair m p ≤ 64 ∧ 1 ≤ detectionPair m p ∧ detectionPair m p ≤ 64 := by
  simp only [pointRangeFails, Bool.or_eq_false_iff, outside_eq_false] at h
  omega

theorem trackRangeFails_false {y : Nat} (h : trackRangeFails m y = false) :
    100 ≤ capacity m y ∧ capacity m y ≤ 20000 ∧ nearMargin m y ≤ 5000
      ∧ (alternateTrack m y = 0 ∨ trackUsed m (alternateTrack m y) = true) := by
  simp only [trackRangeFails, Bool.or_eq_false_iff, outside_eq_false, Bool.and_eq_false_iff, bne_eq_false_iff_eq, Bool.not_eq_false'] at h
  obtain ⟨⟨⟨-, capacity⟩, near⟩, alternate⟩ := h
  exact ⟨capacity.1, capacity.2, near.2, alternate⟩

theorem settingsRangeFails_false (h : settingsRangeFails m = false) :
    10 ≤ releaseSpeed m ∧ releaseSpeed m ≤ 1500 ∧ couplingAllowance m ≤ 30 ∧ 200 ≤ separationGap m ∧ separationGap m ≤ 5000
      ∧ 4 ≤ permitLimit m ∧ permitLimit m ≤ 16 ∧ 2000 ≤ stallMinimum m ∧ stallMinimum m ≤ 60000 ∧ 500 ≤ provingInterval m
      ∧ provingInterval m ≤ 10000 ∧ coldIdle m ≤ 3600 ∧ settleTime m ≤ 1000 ∧ (joinPolicy m = 1 ∨ joinPolicy m = 2)
      ∧ 50 ≤ unlistedLength m ∧ unlistedLength m ≤ 4000 ∧ crestOffset m ≤ 500 := by
  simp only [settingsRangeFails, Bool.or_eq_false_iff, outside_eq_false] at h
  omega

/-- What RANGE passes (R17). -/
theorem rangeFails_false (h : rangeFails m = false) :
    (∀ x, sectionUsed m x = true → sectionRangeFails m x = false) ∧ (∀ p, pointUsed m p = true → pointRangeFails m p = false)
      ∧ (∀ y, trackUsed m y = true → trackRangeFails m y = false) ∧ settingsRangeFails m = false := by
  simp only [rangeFails, Bool.or_eq_false_iff, List.any_eq_false, mem_usedSections, mem_usedPoints, mem_usedTracks, Bool.not_eq_true] at h
  obtain ⟨⟨⟨sections, points⟩, tracks⟩, settings⟩ := h
  exact ⟨sections, points, tracks, settings⟩

/-- What DEFAULT passes (R18). -/
theorem defaultFails_false {w : Walk} (h : defaultFails m w = false) :
    trackUsed m (defaultTrack m) = true ∧ defaultTrack m ∈ w.tracks.map TrackWay.track := by
  simpa only [defaultFails, Bool.or_eq_false_iff, Bool.not_eq_false', List.contains_iff_mem] using h

/-! ### The tree of a layout that passes -/

/-- The sections of the tree are those in use, each once (R12). -/
theorem Passes.sections (h : Passes m) :
    sectionUsed m 1 = true ∧ (∀ x, sectionUsed m x = true ↔ x ∈ (deriveTree m).sections.map SectionWay.sec)
      ∧ ((deriveTree m).sections.map SectionWay.sec).Nodup := by
  obtain ⟨one, used, all, once⟩ := treeFails_false h.tree
  have arrivals : (deriveTree m).sections.map SectionWay.sec = (walk m).arrivals := walk_goesOn m once used
  rw [arrivals]
  exact ⟨one, fun x => ⟨all x, used x⟩, once⟩

/-- A section's path leads from section 1 to the section, through none twice (R19). -/
theorem SectionWay.Reached.path_spec {e : SectionWay} (h : e.Reached m) :
    e.path.Nodup ∧ e.path.head? = some 1 ∧ e.path.getLast? = some e.sec := by
  obtain ⟨path, route, way, -, fresh, hp⟩ := h
  rw [hp]
  exact ⟨nodup_snoc way.nodup fresh, way.head, List.getLast?_concat⟩

/-- Points in use that differ are at most 63 (00_scope, Numbering). -/
theorem length_le_of_pointsUsed {l : List Nat} (hn : l.Nodup) (hu : ∀ p ∈ l, pointUsed m p = true) : l.length ≤ 63 := by
  have inside : l ⊆ pointNumbers := fun p hp => List.mem_of_mem_filter (mem_usedPoints.mpr (hu p hp))
  simpa [pointNumbers] using (hn.subperm inside).length_le

/-- A track's path and route lead from section 1 down the links and the branches to the branch that names the track; the route has each point
once, in the order of the path (R14, R19). -/
theorem TrackWay.Reached.way_spec {e : TrackWay} (h : e.Reached m)
    (hs : ∀ x p, sectionUsed m x = true → sectionLink m x = .switch p → pointUsed m p = true ∧ switchSection m p = x) :
    (e.path.Nodup ∧ e.path.head? = some 1 ∧ ∀ x ∈ e.path, sectionUsed m x = true)
      ∧ (e.route ≠ [] ∧ e.route.length ≤ 63 ∧ (e.route.map Prod.fst).Nodup)
      ∧ e.route.map (fun pb => switchSection m pb.1) = e.path.filter (fun x => (pointOfSection m x).isSome)
      ∧ (∀ i x y, e.path[i]? = some x → e.path[i + 1]? = some y → Joins m e.route x y)
      ∧ ∃ p b, e.route.getLast? = some (p, b) ∧ e.path.getLast? = some (switchSection m p) ∧ branchTarget m p b = .track e.track := by
  obtain ⟨path, route, x, p, b, way, used, fresh, hl, hp, ht, hpath, hroute⟩ := h
  have nodup : e.path.Nodup := hpath ▸ nodup_snoc way.nodup fresh
  have switches : e.route.map (fun pb => switchSection m pb.1) = e.path.filter (fun x => (pointOfSection m x).isSome) := by
    rw [hpath, hroute]
    simp [way.switches (fun y q hy hq => (hs y q hy hq).2), pointOfSection_switch used hl hp, (hs x p used hl).2]
  have once : (e.route.map Prod.fst).Nodup := by
    refine List.Nodup.of_map (switchSection m) ?_
    rw [List.map_map, show switchSection m ∘ Prod.fst = fun pb : Nat × Position => switchSection m pb.1 from rfl, switches]
    exact nodup.filter _
  have points : ∀ q ∈ e.route.map Prod.fst, pointUsed m q = true := by
    intro q hq
    obtain ⟨pb, hm, rfl⟩ := List.mem_map.mp hq
    rw [hroute] at hm
    exact (List.mem_append.mp hm).elim (way.pointsUsed pb) (fun h => by rw [List.mem_singleton.mp h]; exact hp)
  refine ⟨⟨nodup, by rw [hpath]; exact way.head, fun y hy => ?_⟩, ⟨by simp [hroute], ?_, once⟩, switches, fun i y z hy hz => ?_,
    p, b, ?_, ?_, ht⟩
  · rw [hpath] at hy
    exact (List.mem_append.mp hy).elim (way.used y) (fun h => by rw [List.mem_singleton.mp h]; exact used)
  · simpa using length_le_of_pointsUsed once points
  · have joined : e.path.IsChain (Joins m e.route) := by
      rw [hpath, hroute]
      exact way.joined.imp fun _ _ hj => hj.append _
    obtain ⟨hi, rfl⟩ := List.getElem?_eq_some_iff.mp hy
    obtain ⟨hj, rfl⟩ := List.getElem?_eq_some_iff.mp hz
    exact List.isChain_iff_getElem.mp joined i hj
  · rw [hroute, List.getLast?_concat]
  · rw [hpath, List.getLast?_concat, (hs x p used hl).2]

/-- Every route begins with the root point (R19). -/
theorem Passes.root (h : Passes m) :
    ∃ p, (deriveTree m).rootPoint = some p ∧ ∀ e ∈ (deriveTree m).tracks, e.route.head?.map Prod.fst = some p := by
  obtain ⟨p, begins⟩ := walk_root m
  refine ⟨p, ?_, begins⟩
  have there := (defaultFails_false h.default).2
  have begins' : ∀ e ∈ (deriveTree m).tracks, e.route.head?.map Prod.fst = some p := begins
  unfold Tree.rootPoint
  cases ht : (deriveTree m).tracks with
  | nil =>
    rw [show (walk m).tracks = [] from ht] at there
    cases there
  | cons e rest =>
    rw [ht] at begins'
    exact begins' e List.mem_cons_self

/-- The fallback of every branch of a point in use that leads to a section lies below that section (R15). -/
theorem Passes.fallbacks (h : Passes m) {p x : Nat} {b : Position} (hp : pointUsed m p = true) (ht : branchTarget m p b = .sec x) :
    trackUsed m (fallbackField m p b) = true ∧ (deriveTree m).trackBelow (fallbackField m p b) x = true := by
  obtain ⟨used, link⟩ := (switchFails_false h.switch).1 p hp
  exact fallbackFails_false h.fallback (walk_follows m _ ((h.sections.2.1 _).mp used) p link hp b) ht

/-- Settles O38: `run_enters_standby` for the entry; the seven checks and the induction over the walk for the tree. -/
theorem runEntersStandby : Obligations.RunEntersStandby := by
  refine ⟨fun s force hr hh hl => ?_, fun m hm => ?_⟩
  · obtain ⟨t, run, state, tree, answer, sections, points, flags, frame⟩ := run_enters_standby s force hr hh hl
    refine ⟨t, run, state, tree, answer, fun x => ?_, points, ?_, ?_, frame⟩
    · rw [sections]
      by_cases hx : sectionUsed s.layout x = true
      · simp [hx, State.sectionRead, State.sectionInput]
      · simp [hx]
    · rw [flags]
      simp [State.sectionInput]
    · rw [flags]
      simp
  · have h := passes_of_layoutCheck hm
    obtain ⟨left, sound⟩ := walk_sound m
    obtain ⟨points, links⟩ := switchFails_false h.switch
    obtain ⟨channels, pairs⟩ := channelFails_false h.channel
    obtain ⟨sectionRange, pointRange, trackRange, settings⟩ := rangeFails_false h.range
    exact ⟨h.sections, fun e he => (sound.sections e he).path_spec, points, links, trackFails_false h.track,
      fun e he => (sound.tracks e he).way_spec links, h.root, fun p b x hp ht => h.fallbacks hp ht, channels, pairs,
      fun x hx => sectionRangeFails_false (sectionRange x hx), fun p hp => pointRangeFails_false (pointRange p hp),
      fun y hy => trackRangeFails_false (trackRange y hy), settingsRangeFails_false settings, defaultFails_false h.default⟩

end Sys2Proof.Machine
end

section
/-! What the ledger and the accounts read of a record, and the changes of records that leave it as it is (R21 to R34, R69). -/

namespace Sys2Proof.Machine

/-! ### Changes of one record -/

/-- A change of a record that the ledger does not notice: its number, whether it is in the tree and whether it is PENDING stand, and it stays
in its bounds. -/
structure Record.Tame (r w : Record) : Prop where
  number : w.number = r.number
  inTree : w.state.inTree = r.state.inTree
  pending : w.state = .pending ↔ r.state = .pending
  bounded : r.Bounded → w.Bounded

/-- A tame change that leaves the record's group as it is: whether it is JOINED, its joined list and its declared length stand (R24, R29). -/
structure Record.Steady (r w : Record) : Prop extends Record.Tame r w where
  joinedState : w.state = .joined ↔ r.state = .joined
  joined : w.joined = r.joined
  declared : w.declaredLength = r.declaredLength

/-- A steady change that leaves the assigned track too. -/
structure Record.Calm (r w : Record) : Prop extends Record.Steady r w where
  assigned : w.assigned = r.assigned

theorem Record.Tame.trans {r w u : Record} (h : r.Tame w) (k : w.Tame u) : r.Tame u :=
  ⟨k.number.trans h.number, k.inTree.trans h.inTree, k.pending.trans h.pending, k.bounded ∘ h.bounded⟩

theorem Record.Steady.trans {r w u : Record} (h : r.Steady w) (k : w.Steady u) : r.Steady u :=
  ⟨h.toTame.trans k.toTame, k.joinedState.trans h.joinedState, k.joined.trans h.joined, k.declared.trans h.declared⟩

theorem Record.Calm.trans {r w u : Record} (h : r.Calm w) (k : w.Calm u) : r.Calm u :=
  ⟨h.toSteady.trans k.toSteady, k.assigned.trans h.assigned⟩

/-- A change of state within the tree, or none, with the fields the ledger and the accounts read kept, is steady. -/
theorem Record.steady_of {r w : Record} (number : w.number = r.number)
    (state : w.state = r.state ∨ w.state.inTree = true ∧ r.state.inTree = true) (joined : w.joined = r.joined)
    (declared : w.declaredLength = r.declaredLength) (axles : r.measuredAxles ≤ 255 → w.measuredAxles ≤ 255)
    (diversions : r.diversions.length ≤ Config.maxDiversions → w.diversions.length ≤ Config.maxDiversions) : r.Steady w := by
  have classes : w.state.inTree = r.state.inTree ∧ (w.state = .pending ↔ r.state = .pending) ∧ (w.state = .joined ↔ r.state = .joined) := by
    rcases state with h | ⟨hw, hr⟩
    · rw [h]; exact ⟨rfl, Iff.rfl, Iff.rfl⟩
    · refine ⟨hw.trans hr.symm, ?_, ?_⟩ <;> constructor <;> intro h <;> simp [h, CutState.inTree] at hw hr
  refine ⟨⟨number, classes.1, classes.2.1, fun h => ⟨number ▸ h.number, axles h.axles, diversions h.diversions, ?_⟩⟩, classes.2.2, joined, declared⟩
  have := h.followers
  rwa [Record.followers, ← joined] at this

theorem Record.calm_of {r w : Record} (number : w.number = r.number)
    (state : w.state = r.state ∨ w.state.inTree = true ∧ r.state.inTree = true) (joined : w.joined = r.joined)
    (declared : w.declaredLength = r.declaredLength) (assigned : w.assigned = r.assigned)
    (axles : r.measuredAxles ≤ 255 → w.measuredAxles ≤ 255 := by exact id)
    (diversions : r.diversions.length ≤ Config.maxDiversions → w.diversions.length ≤ Config.maxDiversions := by exact id) : r.Calm w :=
  ⟨Record.steady_of number state joined declared axles diversions, assigned⟩

theorem Record.Calm.refl (r : Record) : r.Calm r := Record.calm_of rfl (.inl rfl) rfl rfl rfl

theorem Record.Tame.refl (r : Record) : r.Tame r := (Record.Calm.refl r).toTame

/-- The unseen mark is none of the things read. -/
theorem Record.calm_unseen (r : Record) (b : Bool) : r.Calm { r with unseen := b } := Record.calm_of rfl (.inl rfl) rfl rfl rfl

theorem Record.calm_changed (f : Record → Record) (r : Record) : (f r).Calm (Record.changed f r) := by
  rw [Record.changed_eq]
  exact (f r).calm_unseen _

/-! ### The changes the board makes -/

theorem withMark_calm (m : Mark) (r : Record) : r.Calm (withMark m r) := Record.calm_of rfl (.inl rfl) rfl rfl rfl

theorem withDiversion_calm (p : Nat) (why : DivertReason) (r : Record) : r.Calm (withDiversion p why r) := by
  unfold withDiversion
  split
  · rename_i h
    refine Record.calm_of rfl (.inl rfl) rfl rfl rfl (diversions := fun _ => ?_)
    rw [List.length_append]
    exact h
  · exact Record.calm_of rfl (.inl rfl) rfl rfl rfl

theorem watching_calm (s : State) (w : Option Nat) (r : Record) : r.Calm (Record.watching s w r) := by
  cases w <;> exact Record.calm_of rfl (.inl rfl) rfl rfl rfl

/-- A head credit keeps a cut in the tree in the tree, and every other state as it is (R99). -/
theorem resumed_state (s : State) (r : Record) :
    s.resumed r = r.state ∨ (s.resumed r).inTree = true ∧ r.state.inTree = true := by
  unfold State.resumed
  by_cases h : r.state = .stalled
  · rw [if_pos h]
    right
    split <;> simp [h, CutState.inTree]
  · exact .inl (if_neg h)

theorem credit_calm (s : State) (x tail : Nat) (v : Option Nat) (timed : Bool) (r : Record) : r.Calm (Record.credit s x tail v timed r) :=
  Record.calm_of rfl (resumed_state s r) rfl rfl rfl

theorem assign_steady (a : Assignment) (r : Record) : r.Steady (Record.assign a r) :=
  Record.steady_of rfl (.inl rfl) rfl rfl id id

/-! ### Pairs of records -/

section
variable {R : Record → Record → Prop} {s t : State}

/-- The records of two states correspond one by one. -/
def State.Pairs (R : Record → Record → Prop) (s t : State) : Prop := List.Forall₂ R s.records t.records

theorem State.Pairs.refl (hR : ∀ r, R r r) (s : State) : s.Pairs R s := List.forall₂_same.mpr fun r _ => hR r

theorem State.Pairs.trans {u : State} (hR : ∀ {r w v}, R r w → R w v → R r v) (h : s.Pairs R t) (k : t.Pairs R u) : s.Pairs R u := by
  have go : ∀ {l m n : List Record}, List.Forall₂ R l m → List.Forall₂ R m n → List.Forall₂ R l n := by
    intro l m n h
    induction h generalizing n with
    | nil => exact id
    | cons hd _ ih =>
      rintro (_ | ⟨kd, kt⟩)
      exact .cons (hR hd kd) (ih kt)
  exact go h k

theorem State.Pairs.imp {S : Record → Record → Prop} (h : s.Pairs R t) (hR : ∀ r w, R r w → S r w) : s.Pairs S t := List.Forall₂.imp hR h

/-- Records changed each by a function correspond to the records before. -/
theorem State.pairs_map {g : Record → Record} (h : t.records = s.records.map g) (hg : ∀ r ∈ s.records, R r (g r)) : s.Pairs R t := by
  unfold State.Pairs
  rw [h, List.forall₂_map_right_iff]
  exact List.forall₂_same.mpr hg

variable (hR : ∀ r w, R r w → w.number = r.number)
include hR

theorem numbers_of_pairs {l m : List Record} (h : List.Forall₂ R l m) : m.map Record.number = l.map Record.number := by
  induction h with
  | nil => rfl
  | cons hd _ ih => rw [List.map_cons, List.map_cons, hR _ _ hd, ih]

/-- The numbers in the table are the same. -/
theorem State.Pairs.numbers (h : s.Pairs R t) : t.records.map Record.number = s.records.map Record.number := numbers_of_pairs hR h

/-- The records found under a number correspond. -/
theorem State.Pairs.record (h : s.Pairs R t) (n : Nat) : Option.Rel R (s.record n) (t.record n) := by
  unfold State.Pairs at h
  unfold State.record
  generalize s.records = l at h ⊢
  generalize t.records = m at h ⊢
  induction h with
  | nil => exact .none
  | @cons r w _ _ hd _ ih =>
    simp only [List.find?_cons, hR _ _ hd]
    cases r.number == n
    · exact ih
    · exact .some hd

theorem State.Pairs.record_some {n : Nat} {r : Record} (h : s.Pairs R t) (hr : s.record n = some r) : ∃ w, t.record n = some w ∧ R r w := by
  have := h.record hR n
  rw [hr] at this
  generalize t.record n = o at this
  cases this with
  | some hw => exact ⟨_, rfl, hw⟩

theorem State.Pairs.record_of_some {n : Nat} {w : Record} (h : s.Pairs R t) (hw : t.record n = some w) : ∃ r, s.record n = some r ∧ R r w := by
  have := h.record hR n
  rw [hw] at this
  generalize s.record n = o at this
  cases this with
  | some hr => exact ⟨_, rfl, hr⟩

omit hR in
/-- Each record after a change comes from one before it. -/
theorem State.Pairs.mem {w : Record} (h : s.Pairs R t) (hw : w ∈ t.records) : ∃ r ∈ s.records, R r w := by
  unfold State.Pairs at h
  generalize s.records = l at h ⊢
  generalize t.records = m at h hw
  induction h with
  | nil => cases hw
  | cons hd _ ih =>
    rcases List.mem_cons.mp hw with rfl | hw
    · exact ⟨_, List.mem_cons_self, hd⟩
    · obtain ⟨r, hr, hrw⟩ := ih hw
      exact ⟨r, List.mem_cons_of_mem _ hr, hrw⟩

end

section
variable {s t : State}

theorem State.Pairs.isIn {R : Record → Record → Prop} {c : CutState} (hR : ∀ r w, R r w → w.number = r.number ∧ (w.state = c ↔ r.state = c))
    (h : s.Pairs R t) (n : Nat) : t.isIn n c = s.isIn n c := by
  rw [Bool.eq_iff_iff, isIn_iff, isIn_iff]
  constructor
  · rintro ⟨w, hw, hc⟩
    obtain ⟨r, hr, hrw⟩ := h.record_of_some (fun r w k => (hR r w k).1) hw
    exact ⟨r, hr, (hR _ _ hrw).2.mp hc⟩
  · rintro ⟨r, hr, hc⟩
    obtain ⟨w, hw, hrw⟩ := h.record_some (fun r w k => (hR r w k).1) hr
    exact ⟨w, hw, (hR _ _ hrw).2.mpr hc⟩

/-- The cuts in the tree are the same. -/
theorem State.Pairs.isInTree (h : s.Pairs Record.Tame t) (n : Nat) : t.isInTree n = s.isInTree n := by
  rw [Bool.eq_iff_iff, isInTree_iff, isInTree_iff]
  constructor
  · rintro ⟨w, hw, hc⟩
    obtain ⟨r, hr, hrw⟩ := h.record_of_some (fun _ _ k => k.number) hw
    exact ⟨r, hr, hrw.inTree ▸ hc⟩
  · rintro ⟨r, hr, hc⟩
    obtain ⟨w, hw, hrw⟩ := h.record_some (fun _ _ k => k.number) hr
    exact ⟨w, hw, hrw.inTree.trans hc⟩

/-- How many records are in the tree. -/
theorem State.Pairs.countInTree (h : s.Pairs Record.Tame t) :
    (t.records.filter (fun r => r.state.inTree)).length = (s.records.filter (fun r => r.state.inTree)).length := by
  unfold State.Pairs at h
  exact ((List.rel_filter (fun _ _ k => by simp only [k.inTree]) h).length_eq).symm

end

end Sys2Proof.Machine
end

section
/-! The moves a board makes that keep the ledger, the lists and the canonical tables as they should be, from the single updates up to what follows
a change (R21, R82, R114). -/

namespace Sys2Proof.Machine

/-- Occupant lists and claim queues name cuts in the tree, each at most once, and a list at most 4 (R82, R114). -/
structure Lists (s : State) : Prop where
  occupants : ∀ x, ∀ n ∈ (s.section x).occupants, s.isInTree n = true
  listedOnce : ∀ x, (s.section x).occupants.Nodup
  room : ∀ x, (s.section x).occupants.length ≤ Config.maxOccupants
  claims : ∀ p, ∀ c ∈ s.claimsAt p, s.isInTree c.cut = true
  claimedOnce : ∀ p, ((s.claimsAt p).map Claim.cut).Nodup

theorem Followed.lists {s : State} (h : Followed s) : Lists s := ⟨h.occupants, h.listedOnce, h.room, h.claims, h.claimedOnce⟩

theorem followed_of {s : State} (c : Canonical s) (l : Ledger s) (h : Lists s) : Followed s :=
  ⟨c, l, h.occupants, h.listedOnce, h.room, h.claims, h.claimedOnce⟩

/-- Lists that have only lost cuts, while the tree holds the same ones. -/
theorem Lists.shrink {s t : State} (h : Lists s) (tree : ∀ n, t.isInTree n = s.isInTree n)
    (sections : ∀ x, (t.section x).occupants.Sublist (s.section x).occupants)
    (claims : ∀ p, ((t.claimsAt p).map Claim.cut).Sublist ((s.claimsAt p).map Claim.cut)) : Lists t where
  occupants x n hn := (tree n).trans (h.occupants x n ((sections x).mem hn))
  listedOnce x := (h.listedOnce x).sublist (sections x)
  room x := (sections x).length_le.trans (h.room x)
  claims p c hc := by
    obtain ⟨d, hd, hcut⟩ := List.mem_map.mp ((claims p).mem (List.mem_map_of_mem hc))
    rw [tree, ← hcut]
    exact h.claims p d hd
  claimedOnce p := (h.claimedOnce p).sublist (claims p)

/-- Canonical tables depend on the tables and images alone. -/
theorem Canonical.congr {s t : State} (h : Canonical s) (tracks : t.tracks = s.tracks) (channels : t.channels = s.channels)
    (sections : t.sections = s.sections) (claims : t.claims = s.claims) (detections : t.detections = s.detections)
    (points : t.points = s.points) (slots : t.slots = s.slots) (working : t.working = s.working) (active : t.active = s.active)
    (commit : t.commit = s.commit) : Canonical t := by
  obtain ⟨h1, h2, h3, h4, h5, h6, h7, h8, h9, h10, h11⟩ := h
  unfold State.slot at h10
  rw [← tracks] at h1
  rw [← channels] at h2
  rw [← sections] at h3
  rw [← claims] at h4
  rw [← detections] at h5
  rw [← points] at h6
  rw [← slots] at h7 h10
  rw [← working] at h8
  rw [← active] at h9
  rw [← commit] at h11
  exact ⟨h1, h2, h3, h4, h5, h6, h7, h8, h9, h10, h11⟩

/-! ### Moves -/

/-- A move from `s` to `t` in which records are changed as `R` says, and the queue, the counts, the crest cut, the run state and the layout stand;
canonical tables and good lists stay so. -/
structure Moves (R : Record → Record → Prop) (s t : State) : Prop where
  canonical : Canonical s → Canonical t
  records : s.Pairs R t
  queue : t.queue = s.queue
  unlisted : t.unlistedCounter = s.unlistedCounter
  inTree : t.inTree = s.inTree
  lists : Lists s → Lists t
  crestCut : t.crestCut = s.crestCut
  runState : t.runState = s.runState
  active : t.active = s.active

/-- A move that leaves the running totals of the tracks too (R69). -/
structure CalmMove (s t : State) : Prop extends Moves Record.Calm s t where
  committed : ∀ x, (t.track x).committed = (s.track x).committed

section
variable {s t u : State} {R : Record → Record → Prop}

theorem Moves.trans (hR : ∀ {r w v}, R r w → R w v → R r v) (h : Moves R s t) (k : Moves R t u) : Moves R s u where
  canonical := k.canonical ∘ h.canonical
  records := h.records.trans hR k.records
  queue := k.queue.trans h.queue
  unlisted := k.unlisted.trans h.unlisted
  inTree := k.inTree.trans h.inTree
  lists := k.lists ∘ h.lists
  crestCut := k.crestCut.trans h.crestCut
  runState := k.runState.trans h.runState
  active := k.active.trans h.active

theorem Moves.imp {S : Record → Record → Prop} (h : Moves R s t) (hR : ∀ r w, R r w → S r w) : Moves S s t :=
  { h with records := h.records.imp hR }

theorem CalmMove.steady (h : CalmMove s t) : Moves Record.Steady s t := h.toMoves.imp fun _ _ k => k.toSteady

theorem Moves.tame (h : Moves Record.Steady s t) : Moves Record.Tame s t := h.imp fun _ _ k => k.toTame

theorem CalmMove.refl (s : State) : CalmMove s s where
  canonical := id
  records := State.Pairs.refl Record.Calm.refl s
  queue := rfl
  unlisted := rfl
  inTree := rfl
  lists := id
  crestCut := rfl
  runState := rfl
  active := rfl
  committed _ := rfl

theorem CalmMove.trans (h : CalmMove s t) (k : CalmMove t u) : CalmMove s u :=
  { h.toMoves.trans (fun a b => a.trans b) k.toMoves with committed := fun x => (k.committed x).trans (h.committed x) }

theorem Moves.isInTree (h : Moves Record.Tame s t) (n : Nat) : t.isInTree n = s.isInTree n := h.records.isInTree n

theorem CalmMove.isInTree (h : CalmMove s t) (n : Nat) : t.isInTree n = s.isInTree n := h.steady.tame.isInTree n

/-- The ledger after a tame move. -/
theorem Moves.ledger (h : Moves Record.Tame s t) (k : Ledger s) : Ledger t where
  slots := by rw [← h.records.length_eq]; exact k.slots
  numbers := by rw [h.records.numbers fun _ _ e => e.number]; exact k.numbers
  bounded w hw := by
    obtain ⟨r, hr, hrw⟩ := h.records.mem hw
    exact hrw.bounded (k.bounded r hr)
  queueOnce := h.queue ▸ k.queueOnce
  queued n hn := by
    rw [h.records.isIn (c := .pending) fun _ _ e => ⟨e.number, e.pending⟩]
    exact k.queued n (h.queue ▸ hn)
  pendings w hw hp := by
    obtain ⟨r, hr, hrw⟩ := h.records.mem hw
    rw [h.queue, hrw.number]
    exact k.pendings r hr (hrw.pending.mp hp)
  unlisted := h.unlisted ▸ k.unlisted
  count := by rw [h.inTree, h.records.countInTree]; exact k.count
  room := h.inTree ▸ k.room

/-- What a board keeps in agreement, it keeps so in a tame move. -/
theorem Moves.followed (h : Moves Record.Tame s t) (k : Followed s) : Followed t :=
  followed_of (h.canonical k.canonical) (h.ledger k.ledger) (h.lists k.lists)

end

/-! ### Single updates -/

section
variable (s : State)

/-- An update of fields that nothing here reads. -/
theorem calm_of_fields {s t : State} (records : t.records = s.records) (queue : t.queue = s.queue)
    (unlisted : t.unlistedCounter = s.unlistedCounter) (inTree : t.inTree = s.inTree) (crestCut : t.crestCut = s.crestCut)
    (runState : t.runState = s.runState) (tracks : t.tracks = s.tracks) (channels : t.channels = s.channels)
    (sections : t.sections = s.sections) (claims : t.claims = s.claims) (detections : t.detections = s.detections)
    (points : t.points = s.points) (slots : t.slots = s.slots) (working : t.working = s.working) (active : t.active = s.active)
    (commit : t.commit = s.commit) : CalmMove s t where
  canonical h := h.congr tracks channels sections claims detections points slots working active commit
  records := by unfold State.Pairs; rw [records]; exact List.forall₂_same.mpr fun r _ => Record.Calm.refl r
  queue := queue
  unlisted := unlisted
  inTree := inTree
  lists h := by
    refine h.shrink (fun n => ?_) (fun x => ?_) (fun p => ?_)
    · unfold State.isInTree State.record; rw [records]
    · unfold State.section; rw [sections]
    · unfold State.claimsAt; rw [claims]
  crestCut := crestCut
  runState := runState
  active := active
  committed x := by unfold State.track; rw [tracks]

theorem latch_calm (c : Cause) : CalmMove s (latch c s) :=
  calm_of_fields rfl rfl rfl rfl rfl rfl rfl rfl rfl rfl rfl rfl rfl rfl rfl rfl

theorem latchIf_calm (b : Bool) (c : Cause) : CalmMove s (latchIf b c s) := by
  cases b
  · exact .refl s
  · exact latch_calm s c

theorem finish_calm : CalmMove s (finish s) :=
  calm_of_fields rfl rfl rfl rfl rfl rfl rfl rfl rfl rfl rfl rfl rfl rfl rfl rfl

theorem pending_calm (l : List Instr) : CalmMove s { s with pending := l } :=
  calm_of_fields rfl rfl rfl rfl rfl rfl rfl rfl rfl rfl rfl rfl rfl rfl rfl rfl

/-- A change of one record moves the board as it changes that record. -/
theorem changeRecord_moves {R : Record → Record → Prop} (refl : ∀ r, R r r) (hR : ∀ r w, R r w → r.Tame w)
    (unseen : ∀ r w, R r w → R r { w with unseen := true }) (n : Nat) (f : Record → Record) (hf : ∀ r ∈ s.records, r.number = n → R r (f r)) :
    Moves R s (changeRecord n f s) where
  canonical h := h.congr (changeRecord_tracks ..) (changeRecord_channels ..) (changeRecord_sections ..) (changeRecord_claims ..)
    (changeRecord_detections ..) (changeRecord_points ..) (changeRecord_slots ..) (changeRecord_working ..) (changeRecord_active ..)
    (changeRecord_commit ..)
  records := by
    refine State.pairs_map (changeRecord_records s n f) fun r hr => ?_
    split
    · unfold Record.changed
      split
      · exact hf r hr ‹_›
      · exact unseen _ _ (hf r hr ‹_›)
    · exact refl r
  queue := changeRecord_queue ..
  unlisted := changeRecord_unlistedCounter ..
  inTree := changeRecord_inTree ..
  lists h := by
    have pairs : s.Pairs Record.Tame (changeRecord n f s) := by
      refine State.pairs_map (changeRecord_records s n f) fun r hr => ?_
      split
      · exact (hR _ _ (hf r hr ‹_›)).trans (Record.calm_changed f r).toTame
      · exact Record.Tame.refl r
    refine h.shrink pairs.isInTree (fun x => ?_) (fun p => ?_)
    · unfold State.section; rw [changeRecord_sections]
    · unfold State.claimsAt; rw [changeRecord_claims]
  crestCut := changeRecord_crestCut ..
  runState := changeRecord_runState ..
  active := changeRecord_active ..

theorem changeRecord_calm (n : Nat) (f : Record → Record) (hf : ∀ r ∈ s.records, r.number = n → r.Calm (f r)) : CalmMove s (changeRecord n f s) :=
  { changeRecord_moves s Record.Calm.refl (fun _ _ h => h.toTame) (fun _ w h => h.trans (w.calm_unseen true)) n f hf with
    committed := fun x => by unfold State.track; rw [changeRecord_tracks] }

theorem changeRecord_steady (n : Nat) (f : Record → Record) (hf : ∀ r ∈ s.records, r.number = n → r.Steady (f r)) :
    Moves Record.Steady s (changeRecord n f s) :=
  changeRecord_moves s (fun r => (Record.Calm.refl r).toSteady) (fun _ _ h => h.toTame) (fun _ w h => h.trans (w.calm_unseen true).toSteady) n f hf

theorem changeRecord_tame (n : Nat) (f : Record → Record) (hf : ∀ r ∈ s.records, r.number = n → r.Tame (f r)) :
    Moves Record.Tame s (changeRecord n f s) :=
  changeRecord_moves s Record.Tame.refl (fun _ _ h => h) (fun _ w h => h.trans (w.calm_unseen true).toTame) n f hf

theorem track_changeTrack (x : Nat) (f : TrackEntry → TrackEntry) (y : Nat) :
    (changeTrack x f s).track y = if y = x then f (s.track x) else s.track y := by
  unfold State.track
  rw [changeTrack_tracks, Table.read_write]
  rfl

/-- A change of one track's entry leaves all but the totals. -/
theorem changeTrack_moves (x : Nat) (f : TrackEntry → TrackEntry) : Moves Record.Calm s (changeTrack x f s) := by
  have written : Moves Record.Calm s { s with tracks := Table.write TrackEntry.initial s.tracks x (f (s.track x)) } :=
    { canonical := fun h => ⟨Table.write_wf _ _ _ _ h.tracks, h.channels, h.sections, h.claims, h.detections, h.points, h.slots, h.working,
        h.active, h.slotImages, h.commitImage⟩
      records := State.Pairs.refl Record.Calm.refl s
      queue := rfl, unlisted := rfl, inTree := rfl
      lists := fun h => ⟨h.occupants, h.listedOnce, h.room, h.claims, h.claimedOnce⟩
      crestCut := rfl, runState := rfl, active := rfl }
  exact written.trans (fun a b => a.trans b) (latchIf_calm _ _ _).toMoves

theorem changeTrack_calm (x : Nat) (f : TrackEntry → TrackEntry) (hf : ∀ e, (f e).committed = e.committed) : CalmMove s (changeTrack x f s) :=
  { changeTrack_moves s x f with
    committed := fun y => by
      rw [track_changeTrack]
      split
      · rename_i h; rw [hf, h]
      · rfl }

theorem changePoint_calm (p : Nat) (f : PointEntry → PointEntry) : CalmMove s (changePoint p f s) where
  canonical h := ⟨h.tracks, h.channels, h.sections, h.claims, h.detections, Table.write_wf _ _ _ _ h.points, h.slots, h.working, h.active,
    h.slotImages, h.commitImage⟩
  records := State.Pairs.refl Record.Calm.refl s
  queue := rfl
  unlisted := rfl
  inTree := rfl
  lists h := ⟨h.occupants, h.listedOnce, h.room, h.claims, h.claimedOnce⟩
  crestCut := rfl
  runState := rfl
  active := rfl
  committed _ := rfl

theorem section_changeSection (x : Nat) (f : SectionEntry → SectionEntry) (y : Nat) :
    (changeSection x f s).section y = if y = x then f (s.section x) else s.section y := Table.read_write _ _ _ _ _

/-- A change of a section entry moves nothing else, where its list stays good. -/
theorem changeSection_calm_of (x : Nat) (f : SectionEntry → SectionEntry)
    (hf : Lists s → (∀ n ∈ (f (s.section x)).occupants, s.isInTree n = true) ∧ (f (s.section x)).occupants.Nodup
      ∧ (f (s.section x)).occupants.length ≤ Config.maxOccupants) : CalmMove s (changeSection x f s) where
  canonical h := ⟨h.tracks, h.channels, Table.write_wf _ _ _ _ h.sections, h.claims, h.detections, h.points, h.slots, h.working, h.active,
    h.slotImages, h.commitImage⟩
  records := State.Pairs.refl Record.Calm.refl s
  queue := rfl
  unlisted := rfl
  inTree := rfl
  lists h := by
    obtain ⟨tree, once, room⟩ := hf h
    refine ⟨fun y n hn => ?_, fun y => ?_, fun y => ?_, h.claims, h.claimedOnce⟩
    · rw [section_changeSection] at hn
      split at hn
      · exact tree n hn
      · exact h.occupants y n hn
    · rw [section_changeSection]
      split
      · exact once
      · exact h.listedOnce y
    · rw [section_changeSection]
      split
      · exact room
      · exact h.room y
  crestCut := rfl
  runState := rfl
  active := rfl
  committed _ := rfl

/-- A section's list that has only lost cuts, or none. -/
theorem changeSection_calm (x : Nat) (f : SectionEntry → SectionEntry) (hf : ∀ e, (f e).occupants.Sublist e.occupants) :
    CalmMove s (changeSection x f s) :=
  changeSection_calm_of s x f fun h =>
    ⟨fun n hn => h.occupants x n ((hf _).mem hn), (h.listedOnce x).sublist (hf _), (hf _).length_le.trans (h.room x)⟩

/-- A change of a claim queue moves nothing else, where the queue stays good. -/
theorem setClaims_calm_of (p : Nat) (l : List Claim)
    (hl : Lists s → (∀ c ∈ l, s.isInTree c.cut = true) ∧ (l.map Claim.cut).Nodup) : CalmMove s (setClaims p l s) where
  canonical h := ⟨h.tracks, h.channels, h.sections, Table.write_wf _ _ _ _ h.claims, h.detections, h.points, h.slots, h.working, h.active,
    h.slotImages, h.commitImage⟩
  records := State.Pairs.refl Record.Calm.refl s
  queue := rfl
  unlisted := rfl
  inTree := rfl
  lists h := by
    obtain ⟨tree, once⟩ := hl h
    refine ⟨h.occupants, h.listedOnce, h.room, fun q c hc => ?_, fun q => ?_⟩
    · rw [claimsAt_setClaims] at hc
      split at hc
      · exact tree c hc
      · exact h.claims q c hc
    · rw [claimsAt_setClaims]
      split
      · exact once
      · exact h.claimedOnce q
  crestCut := rfl
  runState := rfl
  active := rfl
  committed _ := rfl

/-- A claim queue whose cuts are some of those before. -/
theorem setClaims_calm (p : Nat) (l : List Claim) (hl : (l.map Claim.cut).Sublist ((s.claimsAt p).map Claim.cut)) : CalmMove s (setClaims p l s) :=
  setClaims_calm_of s p l fun h => by
    refine ⟨fun c hc => ?_, (h.claimedOnce p).sublist hl⟩
    obtain ⟨d, hd, hcut⟩ := List.mem_map.mp (hl.mem (List.mem_map_of_mem hc))
    rw [← hcut]
    exact h.claims p d hd

end

/-! ### Folds and records -/

theorem CalmMove.foldl {β : Type} (f : State → β → State) (h : ∀ s b, CalmMove s (f s b)) (l : List β) (s : State) : CalmMove s (l.foldl f s) := by
  induction l generalizing s with
  | nil => exact .refl s
  | cons b l ih => exact (h s b).trans (ih _)

theorem CalmMove.ite {c : Prop} [Decidable c] {s t u : State} (h : CalmMove s t) (k : CalmMove s u) : CalmMove s (if c then t else u) := by
  split <;> assumption

section
variable (s : State)

theorem addMark_calm (m : Mark) (n : Nat) : CalmMove s (addMark m n s) := changeRecord_calm s n _ fun r _ _ => withMark_calm m r

theorem addMarkIf_calm (b : Bool) (m : Mark) (n : Nat) : CalmMove s (addMarkIf b m n s) := by
  cases b
  · exact .refl s
  · exact addMark_calm s m n

theorem addMisroute_calm (p : Nat) (w : DivertReason) (n : Nat) : CalmMove s (addMisroute p w n s) :=
  (addMark_calm s .misroute n).trans (changeRecord_calm _ n _ fun r _ _ => withDiversion_calm p w r)

theorem noteDiversion_calm (n p : Nat) : CalmMove s (noteDiversion n p s) :=
  (changeRecord_calm s n _ fun r _ _ => withDiversion_calm p _ r).trans (latch_calm _ _)

/-! ### Claims -/

theorem withdrawAt_calm (l : List Nat) (n : Nat) : CalmMove s (withdrawAt l n s) :=
  CalmMove.foldl _ (fun s _ => setClaims_calm s _ _ (List.filter_sublist.map _)) l s

theorem withdrawAll_calm (n : Nat) : CalmMove s (withdrawAll n s) := withdrawAt_calm s _ n

theorem rewriteClaim_calm (p n : Nat) (f : Claim → Claim) (hf : ∀ c, (f c).cut = c.cut) : CalmMove s (rewriteClaim p n f s) := by
  have cuts : ((s.claimsAt p).map (fun c => if c.cut = n then f c else c)).map Claim.cut = (s.claimsAt p).map Claim.cut := by
    rw [List.map_map]
    refine List.map_congr_left fun c _ => ?_
    simp only [Function.comp]
    split <;> simp [hf]
  exact setClaims_calm s p _ (cuts ▸ List.Sublist.refl _)

/-- What is in a claim queue into which a claim has been put. -/
theorem insertClaim_perm (c : Claim) (l : List Claim) : (insertClaim s c l).Perm (c :: l) := by
  obtain ⟨front, back, hl, hi, -, -⟩ := insertClaim_placed s c l
  rw [hi, hl]
  exact List.perm_middle

theorem insertCut_perm (n : Nat) (l : List Nat) : (insertCut s n l).Perm (n :: l) := by
  obtain ⟨front, back, hl, hi, -, -⟩ := insertCut_placed s n l
  rw [hi, hl]
  exact List.perm_middle

theorem cut_not_mem_of_claimOf_none {p n : Nat} (h : s.claimOf p n = none) : n ∉ (s.claimsAt p).map Claim.cut := by
  intro hm
  obtain ⟨c, hc, hcut⟩ := List.mem_map.mp hm
  exact absurd (List.find?_eq_none.mp h c hc) (by simp [hcut])

theorem claimOnRoute_calm {n : Nat} (h : s.isInTree n = true) (r : Record) (pb : Nat × Position) : CalmMove s (claimOnRoute n r s pb) := by
  unfold claimOnRoute
  split
  · exact rewriteClaim_calm s _ n _ fun _ => rfl
  · rename_i held
    split
    · refine setClaims_calm_of s _ _ fun k => ⟨fun c hc => ?_, ?_⟩
      · rcases List.mem_cons.mp ((insertClaim_perm s _ _).mem_iff.mp hc) with rfl | hc
        · exact h
        · exact k.claims _ c hc
      · rw [((insertClaim_perm s _ _).map Claim.cut).nodup_iff, List.map_cons, List.nodup_cons]
        exact ⟨cut_not_mem_of_claimOf_none s (by simpa using held), k.claimedOnce _⟩
    · exact .refl s

theorem claimsOnRoute_calm {n : Nat} (h : s.isInTree n = true) (r : Record) (route : List (Nat × Position)) :
    CalmMove s (route.foldl (claimOnRoute n r) s) := by
  induction route generalizing s with
  | nil => exact .refl s
  | cons pb route ih =>
    have first := claimOnRoute_calm s h r pb
    exact first.trans (ih _ ((first.isInTree n).trans h))

theorem redoClaims_calm {n : Nat} (h : s.isInTree n = true) : CalmMove s (redoClaims n s) := by
  cases hr : s.record n with
  | none => simp only [redoClaims, hr]; exact .refl s
  | some r =>
    cases ha : r.assigned with
    | none => simp only [redoClaims, hr, ha]; exact .refl s
    | some a =>
      rw [redoClaims_eq s hr ha]
      have front := (withdrawAt_calm s (s.claimsOff n (s.tree.route a.track)) n).trans
        (changeRecord_calm _ n (fun r => { r with unplannedBelow := none }) fun _ _ _ => Record.calm_of rfl (.inl rfl) rfl rfl rfl)
      exact front.trans (claimsOnRoute_calm _ ((front.isInTree n).trans h) r _)

theorem divertUnknown_calm (n p : Nat) : CalmMove s (divertUnknown n p s) :=
  (((noteDiversion_calm s n p).trans (rewriteClaim_calm _ p n (fun c => { c with spent := true }) fun _ => rfl)).trans
    (withdrawAt_calm _ _ n)).trans (changeRecord_calm _ n _ fun _ _ _ => Record.calm_of rfl (.inl rfl) rfl rfl rfl)

/-! ### What follows a change -/

theorem throwDecision_calm (p : Nat) : CalmMove s (throwDecision p s) := by
  unfold throwDecision
  split
  · exact changePoint_calm s p _
  · exact .refl s

theorem expireAtOnce_calm (n : Nat) : CalmMove s (expireAtOnce n s) := by
  rcases expireAtOnce_eq s n with h | h <;> rw [h]
  · exact .refl s
  · exact pending_calm s _

theorem chooseWatch_calm (n : Nat) : CalmMove s (chooseWatch n s) := by
  unfold chooseWatch
  split
  · exact .refl s
  · split
    · exact (changeRecord_calm s n _ fun r _ _ => watching_calm s _ r).trans (expireAtOnce_calm _ n)
    · exact .refl s

theorem followUp_calm (old : State) (ps cs : List Nat) : CalmMove s (followUp old ps cs s) :=
  (CalmMove.foldl _ (fun s p => throwDecision_calm s p) _ _).trans (CalmMove.foldl _ (fun s n => chooseWatch_calm s n) _ _)

/-! ### Sections and points -/

theorem followCut_calm (old : State) (n : Nat) : CalmMove s (followCut old n s) := followUp_calm s old _ _

theorem SectionEntry.without_occupants (n : Nat) (e : SectionEntry) : (e.without n).occupants = e.occupants.filter (fun m => m != n) := by
  unfold SectionEntry.without
  dsimp only
  split <;> rfl

theorem leaveSections_calm (l : List Nat) (n : Nat) : CalmMove s (leaveSections l n s) :=
  CalmMove.foldl _ (fun s _ => changeSection_calm s _ _ fun e => by rw [SectionEntry.without_occupants]; exact List.filter_sublist) l s

/-- A cut in the tree comes in a list that has room (R82). -/
theorem enterSection_calm {n x : Nat} (h : s.isInTree n = true) (room : (s.section x).occupants.length < Config.maxOccupants) :
    CalmMove s (enterSection x n s) := by
  refine changeSection_calm_of s x _ fun k => ?_
  split
  · exact ⟨k.occupants x, k.listedOnce x, k.room x⟩
  · rename_i hn
    have perm := insertCut_perm s n (s.section x).occupants
    refine ⟨fun m hm => ?_, ?_, ?_⟩
    · rcases List.mem_cons.mp (perm.mem_iff.mp hm) with rfl | hm
      · exact h
      · exact k.occupants x m hm
    · rw [perm.nodup_iff, List.nodup_cons]
      exact ⟨by simpa using hn, k.listedOnce x⟩
    · rw [perm.length_eq]
      exact room

theorem endHold_calm (x : Nat) : CalmMove s (endHold x s) := changeSection_calm s x _ fun e => by split <;> exact List.Sublist.refl _

theorem holdUnproven_calm (x : Nat) : CalmMove s (holdUnproven x s) := changeSection_calm s x _ fun e => List.Sublist.refl e.occupants

theorem unexplainedEntry_calm (x : Nat) : CalmMove s (unexplainedEntry x s) := by
  unfold unexplainedEntry
  split
  · exact endHold_calm s x
  · exact (changeSection_calm s x (fun e => { e with unexplained := true }) fun e => List.Sublist.refl e.occupants).trans (latch_calm _ _)

theorem tellDrivers_calm (x : Nat) (e : Option Nat) : CalmMove s (tellDrivers x e s) := by
  unfold tellDrivers
  split
  · unfold wheelsOnPoint
    split
    · cases e
      · exact (changePoint_calm s _ _).trans (latch_calm _ _)
      · exact ((changePoint_calm s _ _).trans (latch_calm _ _)).trans (addMark_calm _ _ _)
    · cases e
      · exact changePoint_calm s _ _
      · exact CalmMove.trans (t := becomeSet _ s) (changePoint_calm s _ _) (addMark_calm _ _ _)
    · exact .refl s
    · exact .refl s
    · exact .refl s
  · exact .refl s

theorem creditHead_calm {n x : Nat} (h : s.isInTree n = true) (room : (s.section x).occupants.length < Config.maxOccupants) (held : Bool)
    (r : Record) : CalmMove s (creditHead n x held r s) :=
  (((enterSection_calm s h room).trans (leaveSections_calm _ _ n)).trans
    (changeRecord_calm _ n _ fun r _ _ => credit_calm s x _ _ true r)).trans (addMarkIf_calm _ _ _ n)

theorem drawOut_calm (u n : Nat) : CalmMove s (drawOut u s n) :=
  ((leaveSections_calm s _ n).trans (changeRecord_calm _ n (fun r => { r with tail := s.nextOfSpan n u })
    fun _ _ _ => Record.calm_of rfl (.inl rfl) rfl rfl rfl)).trans (withdrawAt_calm _ _ n)

end

end Sys2Proof.Machine
end

section
/-! Groups and running totals (R24, R29, R69): what a group's length rests on, and how the sum on a track moves with one record. -/

namespace Sys2Proof.Machine

/-! ### Group lengths (R24) -/

/-- Two records that count alike in every group: number, declared length and followers stand, and so does being JOINED. -/
structure Record.SameGroup (r w : Record) : Prop where
  number : w.number = r.number
  joinedState : w.state = .joined ↔ r.state = .joined
  followers : w.followers = r.followers
  declared : w.declaredLength = r.declaredLength

theorem Record.Steady.sameGroup {r w : Record} (h : r.Steady w) : r.SameGroup w :=
  ⟨h.number, h.joinedState, by unfold Record.followers; rw [h.joined], h.declared⟩

section
variable {s t : State}

theorem State.Pairs.joinedFollowers (h : s.Pairs Record.SameGroup t) (n : Nat) : t.joinedFollowers n = s.joinedFollowers n := by
  have joined : ∀ m, t.isIn m .joined = s.isIn m .joined := h.isIn fun _ _ k => ⟨k.number, k.joinedState⟩
  have := h.record (fun _ _ k => k.number) n
  unfold State.joinedFollowers
  generalize s.record n = o at this ⊢
  generalize t.record n = q at this ⊢
  cases this with
  | none => rfl
  | some k => simp only [k.followers, joined]

theorem State.Pairs.effective (h : s.Pairs Record.SameGroup t) (active : t.active = s.active) (n : Nat) : t.effective n = s.effective n := by
  have := h.record (fun _ _ k => k.number) n
  unfold State.effective State.layout
  rw [active]
  generalize s.record n = o at this ⊢
  generalize t.record n = q at this ⊢
  cases this with
  | none => rfl
  | some k => simp only [k.declared]

theorem State.Pairs.groupLength (h : s.Pairs Record.SameGroup t) (active : t.active = s.active) (n : Nat) :
    t.groupLength n = s.groupLength n := by
  unfold State.groupLength
  rw [h.joinedFollowers, List.map_congr_left fun m _ => h.effective active m]

theorem Moves.groupLength (h : Moves Record.Steady s t) (n : Nat) : t.groupLength n = s.groupLength n :=
  (h.records.imp fun _ _ k => k.sameGroup).groupLength h.active n

theorem mem_joinedFollowers {n m : Nat} :
    m ∈ s.joinedFollowers n ↔ s.isIn m .joined = true ∧ ∃ r, s.record n = some r ∧ m ∈ r.followers := by
  unfold State.joinedFollowers
  cases s.record n with
  | none => simp
  | some r => simp [and_comm]

theorem record_of_mem (hn : (s.records.map Record.number).Nodup) {r : Record} (hr : r ∈ s.records) : s.record r.number = some r := by
  unfold State.record
  generalize s.records = l at *
  induction l with
  | nil => cases hr
  | cons q l ih =>
    rw [List.map_cons, List.nodup_cons] at hn
    rcases List.mem_cons.mp hr with rfl | hr
    · simp
    · have : q.number ≠ r.number := fun e => hn.1 (e ▸ List.mem_map_of_mem hr)
      rw [List.find?_cons_of_neg (by simpa using this)]
      exact ih hn.2 hr

/-- A record is the one found under its number, where no number stands twice. -/
theorem eq_of_mem (hn : (s.records.map Record.number).Nodup) {n : Nat} {r q : Record} (hr : s.record n = some r) (hq : q ∈ s.records)
    (he : q.number = n) : q = r := by
  have := record_of_mem hn hq
  rw [he, hr] at this
  exact (Option.some.inj this).symm

/-- A cut in the tree follows no leader. -/
theorem not_mem_joinedFollowers {n m : Nat} (h : s.isInTree m = true) : m ∉ s.joinedFollowers n := by
  intro hm
  obtain ⟨r, hr, ht⟩ := (isInTree_iff s).mp h
  obtain ⟨q, hq, hj⟩ := (isIn_iff s).mp (mem_joinedFollowers.mp hm).1
  obtain rfl := Option.some.inj (hr.symm.trans hq)
  rw [hj] at ht
  cases ht

end

/-! ### Sums over the records -/

section
variable {R : Record → Record → Prop} {l m : List Record} {f g : Record → Nat}

theorem sum_of_pairs (h : List.Forall₂ R l m) (eq : ∀ r w, R r w → g w = f r) : (m.map g).sum = (l.map f).sum := by
  induction h with
  | nil => rfl
  | cons hd _ ih => rw [List.map_cons, List.map_cons, List.sum_cons, List.sum_cons, eq _ _ hd, ih]

theorem sum_of_pairs_away {n : Nat} (h : List.Forall₂ R l m) (eq : ∀ r w, R r w → r.number ≠ n → g w = f r)
    (hn : n ∉ l.map Record.number) : (m.map g).sum = (l.map f).sum := by
  induction h with
  | nil => rfl
  | cons hd _ ih =>
    rw [List.map_cons, List.mem_cons, not_or] at hn
    rw [List.map_cons, List.map_cons, List.sum_cons, List.sum_cons, eq _ _ hd (Ne.symm hn.1), ih hn.2]

/-- A sum over the records moves with the one record at which the summands differ. -/
theorem sum_of_pairs_but_one {n : Nat} (h : List.Forall₂ R l m) (number : ∀ r w, R r w → w.number = r.number)
    (hn : (l.map Record.number).Nodup) (eq : ∀ r w, R r w → r.number ≠ n → g w = f r) {r w : Record} (hr : r ∈ l) (hrn : r.number = n)
    (hw : w ∈ m) (hwn : w.number = n) : (m.map g).sum + f r = (l.map f).sum + g w := by
  induction h with
  | nil => cases hr
  | @cons a b l m hd tl ih =>
    rw [List.map_cons, List.nodup_cons] at hn
    rw [List.map_cons, List.map_cons, List.sum_cons, List.sum_cons]
    by_cases ha : a.number = n
    · have away : n ∉ l.map Record.number := ha ▸ hn.1
      have hra : r = a := (List.mem_cons.mp hr).resolve_right fun hm => away (hrn ▸ List.mem_map_of_mem hm)
      have hwb : w = b := (List.mem_cons.mp hw).resolve_right fun hm => away (numbers_of_pairs number tl ▸ hwn ▸ List.mem_map_of_mem hm)
      rw [hra, hwb, sum_of_pairs_away tl eq away]
      omega
    · have hr' := (List.mem_cons.mp hr).resolve_left fun e => ha (e ▸ hrn)
      have hw' := (List.mem_cons.mp hw).resolve_left fun e => ha ((number _ _ hd).symm.trans (e ▸ hwn))
      have := ih hn.2 hr' hw'
      rw [eq _ _ hd ha]
      omega

theorem sum_filter (p : Record → Bool) (f : Record → Nat) (l : List Record) :
    ((l.filter p).map f).sum = (l.map (fun r => if p r then f r else 0)).sum := by
  induction l with
  | nil => rfl
  | cons r l ih =>
    rw [List.filter_cons]
    split <;> simp_all

theorem length_filter_eq_sum (p : Record → Bool) (l : List Record) : (l.filter p).length = (l.map (fun r => if p r then 1 else 0)).sum := by
  rw [← sum_filter p (fun _ => 1)]
  simp

end

/-! ### Totals (R69) -/

/-- What a record adds to the total of a track: its group's length, when it is in the tree and assigned to the track. -/
def State.share (s : State) (x : Nat) (r : Record) : Nat :=
  if r.state.inTree && r.assigned.map Assignment.track == some x then s.groupLength r.number else 0

theorem groupsOn_eq_sum (s : State) (x : Nat) : s.groupsOn x = (s.records.map (s.share x)).sum := sum_filter _ _ _

theorem share_le_groupsOn {s : State} {x : Nat} {r : Record} (h : r ∈ s.records) : s.share x r ≤ s.groupsOn x := by
  rw [groupsOn_eq_sum]
  exact List.le_sum_of_mem (List.mem_map_of_mem h)

/-- A record out of the tree adds nothing. -/
theorem share_of_out {s : State} {x : Nat} {r : Record} (h : r.state.inTree = false) : s.share x r = 0 := by simp [State.share, h]

theorem share_inTree {s : State} {x n : Nat} {r : Record} (hr : s.record n = some r) (h : r.state.inTree = true) :
    s.share x r = if s.assignedTrack n = some x then s.groupLength n else 0 := by
  simp [State.share, h, State.assignedTrack, hr, record_number s hr]

/-- What the running totals rest on (R29, R152). -/
structure Bonds (s : State) : Prop where
  leaders : ∀ r ∈ s.records, r.state.inTree = true →
    ∀ m ∈ r.followers, ∃ f, s.record m = some f ∧ f.state = .joined ∧ f.joined = some (.follower r.number)
  followers : ∀ r ∈ s.records, r.state = .joined →
    ∃ c l, r.joined = some (.follower c) ∧ s.record c = some l ∧ l.state.inTree = true ∧ r.number ∈ l.followers
  pendings : ∀ r ∈ s.records, r.state = .pending → r.joined = none ∧ r.assigned = none
  crest : ∀ c, s.crestCut = some c → ∃ r, s.record c = some r ∧ r.state ≠ .pending ∧ r.state ≠ .joined
  halted : s.runState = .halted → s.inTree = 0

theorem Accounted.bonds {s : State} (h : Accounted s) : Bonds s := ⟨h.leaders, h.followers, h.pendings, h.crest, h.halted⟩

theorem accounted_of {s : State} (b : Bonds s) (totals : ∀ x, (s.track x).committed = s.groupsOn x) : Accounted s :=
  ⟨totals, b.leaders, b.followers, b.pendings, b.crest, b.halted⟩

section
variable {s t : State}

/-- The bonds after a steady move that assigns no PENDING record. -/
theorem Moves.bonds (h : Moves Record.Steady s t) (k : Bonds s) (hp : ∀ w ∈ t.records, w.state = .pending → w.assigned = none) : Bonds t where
  leaders w hw ht m hm := by
    obtain ⟨r, hr, hrw⟩ := h.records.mem hw
    rw [hrw.sameGroup.followers] at hm
    obtain ⟨f, hf, hs, hj⟩ := k.leaders r hr (hrw.inTree ▸ ht) m hm
    obtain ⟨g, hg, hfg⟩ := h.records.record_some (fun _ _ e => e.number) hf
    exact ⟨g, hg, hfg.joinedState.mpr hs, by rw [hfg.joined, hj, hrw.number]⟩
  followers w hw hs := by
    obtain ⟨r, hr, hrw⟩ := h.records.mem hw
    obtain ⟨c, l, hj, hl, ht, hm⟩ := k.followers r hr (hrw.joinedState.mp hs)
    obtain ⟨g, hg, hlg⟩ := h.records.record_some (fun _ _ e => e.number) hl
    exact ⟨c, g, hrw.joined.trans hj, hg, hlg.inTree.trans ht, by rwa [hlg.sameGroup.followers, hrw.number]⟩
  pendings w hw hs := by
    obtain ⟨r, hr, hrw⟩ := h.records.mem hw
    exact ⟨hrw.joined.trans (k.pendings r hr (hrw.pending.mp hs)).1, hp w hw hs⟩
  crest c hc := by
    obtain ⟨r, hr, hp, hj⟩ := k.crest c (h.crestCut ▸ hc)
    obtain ⟨w, hw, hrw⟩ := h.records.record_some (fun _ _ e => e.number) hr
    exact ⟨w, hw, fun e => hp (hrw.pending.mp e), fun e => hj (hrw.joinedState.mp e)⟩
  halted hh := h.inTree.trans (k.halted (h.runState ▸ hh))

theorem Moves.steady (h : Moves Record.Calm s t) : Moves Record.Steady s t := h.imp fun _ _ k => k.toSteady

theorem Moves.bonds_calm (h : Moves Record.Calm s t) (k : Bonds s) : Bonds t :=
  h.steady.bonds k fun w hw hs => by
    obtain ⟨r, hr, hrw⟩ := h.records.mem hw
    rw [hrw.assigned]
    exact (k.pendings r hr (hrw.pending.mp hs)).2

theorem Moves.groupsOn (h : Moves Record.Calm s t) (x : Nat) : t.groupsOn x = s.groupsOn x := by
  rw [groupsOn_eq_sum, groupsOn_eq_sum]
  refine sum_of_pairs h.records fun r w k => ?_
  unfold State.share
  rw [k.inTree, k.assigned, k.number, h.steady.groupLength]

/-- The accounts after a calm move. -/
theorem CalmMove.accounted (h : CalmMove s t) (k : Accounted s) : Accounted t :=
  accounted_of (h.bonds_calm k.bonds) fun x => by rw [h.committed, h.groupsOn, k.totals]

end

/-! ### A group is assigned a track (R29, R70, R76) -/

section
variable (s : State)

/-- A change that has been made changes nothing when it is made again. -/
theorem Record.changed_idem {f : Record → Record} (hf : ∀ r b, f { f r with unseen := b } = { f r with unseen := b }) (r : Record) :
    Record.changed f (Record.changed f r) = Record.changed f r := by
  rw [Record.changed_eq f r, Record.changed_eq f, hf]
  simp

theorem changeRecords_records (l : List Nat) {f : Record → Record} (number : ∀ r, (f r).number = r.number)
    (idem : ∀ r, Record.changed f (Record.changed f r) = Record.changed f r) :
    (changeRecords l f s).records = s.records.map (fun r => if r.number ∈ l then Record.changed f r else r) := by
  unfold changeRecords
  induction l generalizing s with
  | nil => simp
  | cons n l ih =>
    rw [List.foldl_cons, ih, changeRecord_records, List.map_map]
    refine List.map_congr_left fun r _ => ?_
    by_cases hn : r.number = n <;> by_cases hl : r.number ∈ l <;> simp_all [Record.changed_number f number]

theorem assign_idem (a : Assignment) (r : Record) :
    Record.changed (Record.assign a) (Record.changed (Record.assign a) r) = Record.changed (Record.assign a) r :=
  Record.changed_idem (fun _ _ => rfl) r

theorem setAssignment_records (n : Nat) (a : Assignment) :
    (setAssignment n a s).records
      = s.records.map (fun r => if r.number ∈ n :: s.joinedFollowers n then Record.changed (Record.assign a) r else r) :=
  changeRecords_records s _ (fun _ => rfl) (assign_idem a)

theorem setAssignment_moves (n : Nat) (a : Assignment) : Moves Record.Steady s (setAssignment n a s) := by
  unfold setAssignment changeRecords
  generalize n :: s.joinedFollowers n = l
  induction l generalizing s with
  | nil => exact (CalmMove.refl s).steady
  | cons k l ih => exact (changeRecord_steady s k _ fun r _ _ => assign_steady a r).trans (fun h k => h.trans k) (ih _)

theorem setAssignment_tracks (n : Nat) (a : Assignment) : (setAssignment n a s).tracks = s.tracks := by
  unfold setAssignment changeRecords
  generalize n :: s.joinedFollowers n = l
  induction l generalizing s with
  | nil => rfl
  | cons k l ih => rw [List.foldl_cons, ih, changeRecord_tracks]

end

end Sys2Proof.Machine
end

section
/-! The agreement of records, queue, lists and claims, with or without the running totals, and the moves that keep it while the tree holds the same
cuts (R69, R76, R82, R114). -/

namespace Sys2Proof.Machine

/-- The agreement of `Followed`; with `a`, the running totals of `Accounted` too. Both invariants are carried through a step at once. -/
def Sound (a : Prop) (s : State) : Prop := Followed s ∧ (a → Accounted s)

/-- A move that keeps the agreement and the cuts in the tree. -/
structure Keeps (a : Prop) (s t : State) : Prop where
  sound : Sound a s → Sound a t
  tree : ∀ n, t.isInTree n = s.isInTree n

section
variable {a : Prop} {s t u : State}

theorem Keeps.refl (a : Prop) (s : State) : Keeps a s s := ⟨id, fun _ => rfl⟩

theorem Keeps.trans (h : Keeps a s t) (k : Keeps a t u) : Keeps a s u := ⟨k.sound ∘ h.sound, fun n => (k.tree n).trans (h.tree n)⟩

theorem CalmMove.keeps (h : CalmMove s t) : Keeps a s t :=
  ⟨fun k => ⟨h.steady.tame.followed k.1, fun ha => h.accounted (k.2 ha)⟩, h.isInTree⟩

theorem Keeps.ite {c : Prop} [Decidable c] (h : Keeps a s t) (k : Keeps a s u) : Keeps a s (if c then t else u) := by split <;> assumption

end

/-! ### Assignments -/

section
variable (s : State) {n : Nat} {r : Record}

/-- After an assignment a group's total has gone from its old track to the new one (R69, R76). -/
theorem groupsOn_setAssignment (hn : (s.records.map Record.number).Nodup) (h : s.record n = some r) (ht : r.state.inTree = true)
    (a : Assignment) (x : Nat) :
    (setAssignment n a s).groupsOn x + (if s.assignedTrack n = some x then s.groupLength n else 0)
      = s.groupsOn x + (if a.track = x then s.groupLength n else 0) := by
  have moves := setAssignment_moves s n a
  obtain ⟨w, hw, hwa, -⟩ := record_setAssignment s a h
  obtain ⟨w', hw', hrw⟩ := moves.records.record_some (fun _ _ k => k.number) h
  obtain rfl := Option.some.inj (hw.symm.trans hw')
  have others : ∀ q v, (q ∈ s.records ∧ v = if q.number ∈ n :: s.joinedFollowers n then Record.changed (Record.assign a) q else q) →
      q.number ≠ n → (setAssignment n a s).share x v = s.share x q := by
    rintro q v ⟨hq, rfl⟩ hqn
    split
    · rename_i hm
      obtain ⟨f, hf, hj⟩ := (isIn_iff s).mp (mem_joinedFollowers.mp ((List.mem_cons.mp hm).resolve_left hqn)).1
      have out : q.state.inTree = false := by rw [eq_of_mem hn hf hq rfl, hj]; rfl
      rw [share_of_out out, share_of_out ((Record.calm_changed _ q).inTree.trans out)]
    · unfold State.share
      rw [moves.groupLength]
  have pairs : s.Pairs (fun q v => q ∈ s.records ∧ v = if q.number ∈ n :: s.joinedFollowers n then Record.changed (Record.assign a) q else q)
      (setAssignment n a s) := State.pairs_map (setAssignment_records s n a) fun q hq => ⟨hq, rfl⟩
  have number : ∀ q v, (q ∈ s.records ∧ v = if q.number ∈ n :: s.joinedFollowers n then Record.changed (Record.assign a) q else q) →
      v.number = q.number := by
    rintro q v ⟨-, rfl⟩
    split
    · exact (Record.calm_changed _ q).number
    · rfl
  have sums := sum_of_pairs_but_one pairs number hn others (record_mem s h) (record_number s h) (record_mem _ hw) (record_number _ hw)
  rw [← groupsOn_eq_sum, ← groupsOn_eq_sum, share_inTree h ht, share_inTree hw (hrw.inTree.trans ht)] at sums
  rw [sums, moves.groupLength]
  simp [State.assignedTrack, hw, hwa]

/-- The bonds after an assignment: a PENDING record is neither the cut nor a JOINED follower. -/
theorem bonds_setAssignment (hn : (s.records.map Record.number).Nodup) (h : s.record n = some r) (ht : r.state.inTree = true) (a : Assignment)
    (k : Bonds s) : Bonds (setAssignment n a s) := by
  refine (setAssignment_moves s n a).bonds k fun w hw hs => ?_
  rw [setAssignment_records] at hw
  obtain ⟨q, hq, rfl⟩ := List.mem_map.mp hw
  split at hs
  · rename_i hm
    have pending : q.state = .pending := (Record.calm_changed _ q).pending.mp hs
    rcases List.mem_cons.mp hm with e | hm
    · rw [← eq_of_mem hn h hq e, pending] at ht
      cases ht
    · obtain ⟨f, hf, hj⟩ := (isIn_iff s).mp (mem_joinedFollowers.mp hm).1
      rw [← eq_of_mem hn hf hq rfl, pending] at hj
      cases hj
  · rename_i hm
    rw [if_neg hm]
    exact (k.pendings q hq hs).2

/-! ### Length moves -/

theorem committed_commitLength (x len y : Nat) :
    ((commitLength x len s).track y).committed = (s.track y).committed + if x = y then len else 0 := by
  rw [commitLength, track_changeTrack]
  by_cases h : y = x
  · subst h; simp
  · simp [h, Ne.symm h]

theorem committed_releaseFrom (x : Option Nat) (len y : Nat) :
    ((releaseFrom x len s).track y).committed = (s.track y).committed - if x = some y then len else 0 := by
  cases x with
  | none => simp [releaseFrom]
  | some x =>
    rw [releaseFrom, releaseLength, track_changeTrack]
    by_cases h : y = x
    · subst h; simp
    · simp [h, Ne.symm h]

theorem releaseFrom_moves (x : Option Nat) (len : Nat) : Moves Record.Calm s (releaseFrom x len s) := by
  cases x with
  | none => exact (CalmMove.refl s).toMoves
  | some x => exact changeTrack_moves s x fun e => { e with committed := e.committed - len }

theorem commitLength_moves (x len : Nat) : Moves Record.Calm s (commitLength x len s) := changeTrack_moves s x _

/-! ### Reassignments -/

theorem reassign_moves (n x : Nat) (why : AssignReason) : Moves Record.Steady s (reassign n x why s) := by
  unfold reassign
  split
  · exact setAssignment_moves s n _
  · exact (((setAssignment_moves s n _).trans (fun h k => h.trans k) (releaseFrom_moves _ _ _).steady).trans (fun h k => h.trans k)
      (commitLength_moves _ _ _).steady).trans (fun h k => h.trans k) (addMarkIf_calm _ _ _ n).steady

theorem assignTrack_moves (n x : Nat) (why : AssignReason) : Moves Record.Steady s (assignTrack n x why s) :=
  ((setAssignment_moves s n _).trans (fun h k => h.trans k) (commitLength_moves _ _ _).steady).trans (fun h k => h.trans k)
    (addMarkIf_calm _ _ _ n).steady

/-- The accounts hold when a group has been assigned a track, and its length has gone with it from the track it had. -/
theorem accounted_of_assigned (k : Accounted s) (hn : (s.records.map Record.number).Nodup) (h : s.record n = some r)
    (ht : r.state.inTree = true) {x : Nat} {why : AssignReason} {t : State} (rest : Moves Record.Calm (setAssignment n ⟨x, why⟩ s) t)
    (committed : ∀ y, (t.track y).committed
      = (s.track y).committed - (if s.assignedTrack n = some y then s.groupLength n else 0) + if x = y then s.groupLength n else 0) :
    Accounted t := by
  refine accounted_of (rest.bonds_calm (bonds_setAssignment s hn h ht _ k.bonds)) fun y => ?_
  have moved := groupsOn_setAssignment s hn h ht ⟨x, why⟩ y
  have held := share_le_groupsOn (x := y) (record_mem s h)
  have sum := committed y
  rw [share_inTree h ht, ← k.totals] at held
  rw [← k.totals] at moved
  rw [rest.groupsOn]
  simp only at moved
  omega

/-- A reassignment keeps the agreement (R76). -/
theorem reassign_keeps {a : Prop} (h : s.isInTree n = true) (x : Nat) (why : AssignReason) : Keeps a s (reassign n x why s) := by
  refine ⟨fun k => ⟨(reassign_moves s n x why).tame.followed k.1, fun ha => ?_⟩, (reassign_moves s n x why).tame.isInTree⟩
  obtain ⟨r, hr, ht⟩ := (isInTree_iff s).mp h
  have hn := k.1.ledger.numbers
  unfold reassign
  split
  · rename_i same
    refine accounted_of_assigned s (k.2 ha) hn hr ht (CalmMove.refl _).toMoves fun y => ?_
    have held := share_le_groupsOn (x := y) (record_mem s hr)
    rw [share_inTree hr ht, ← (k.2 ha).totals] at held
    rw [State.track, setAssignment_tracks]
    change (s.track y).committed = _
    rw [same] at held ⊢
    simp only [Option.some.injEq] at held ⊢
    omega
  · refine (addMarkIf_calm _ _ _ n).accounted (accounted_of_assigned s (k.2 ha) hn hr ht
      ((releaseFrom_moves _ _ _).trans (fun h k => h.trans k) (commitLength_moves _ _ _)) fun y => ?_)
    rw [committed_commitLength, committed_releaseFrom, State.track, setAssignment_tracks]
    rfl

/-- The assignment of a cut that waits for its track keeps the agreement (R70). -/
theorem assignTrack_keeps {a : Prop} (h : s.isInTree n = true) (none : a → s.assignedTrack n = none) (x : Nat) (why : AssignReason) :
    Keeps a s (assignTrack n x why s) := by
  refine ⟨fun k => ⟨(assignTrack_moves s n x why).tame.followed k.1, fun ha => ?_⟩, (assignTrack_moves s n x why).tame.isInTree⟩
  obtain ⟨r, hr, ht⟩ := (isInTree_iff s).mp h
  refine (addMarkIf_calm _ _ _ n).accounted (accounted_of_assigned s (k.2 ha) k.1.ledger.numbers hr ht
    (commitLength_moves _ _ _) fun y => ?_)
  rw [committed_commitLength, State.track, setAssignment_tracks, none ha]
  simp [State.track]

theorem releaseAssignment_keeps {a : Prop} (h : s.isInTree n = true) (none : a → s.assignedTrack n = none) (x : Nat) :
    Keeps a s (releaseAssignment n x s) := assignTrack_keeps s h none _ _

theorem replan_keeps {a : Prop} (h : s.isInTree n = true) (p : Nat) (b : Position) : Keeps a s (replan n p b s) := by
  unfold replan
  split
  · exact (redoClaims_calm s h).keeps
  · rename_i x _
    have first := reassign_keeps (a := a) s h x .diverted
    exact first.trans (redoClaims_calm _ ((first.tree n).trans h)).keeps

theorem divertTo_keeps {a : Prop} (h : s.isInTree n = true) (p : Nat) (x : Position) : Keeps a s (divertTo n p x s) := by
  have noted : CalmMove s (noteAndRewrite n p (fun c => { c with position := x, spent := true }) s) :=
    (noteDiversion_calm s n p).trans (rewriteClaim_calm _ p n _ fun _ => rfl)
  exact (noted.keeps (a := a)).trans (replan_keeps _ ((noted.isInTree n).trans h) p x)

/-- A last-moment expiry keeps the agreement (R124, R130). -/
theorem lastMomentExpires_keeps {a : Prop} (hr : s.record n = some r) (ht : r.state.inTree = true) : Keeps a s (lastMomentExpires n r s) := by
  have h : s.isInTree n = true := (isInTree_iff s).mpr ⟨r, hr, ht⟩
  unfold lastMomentExpires
  split
  · rename_i none
    have first := assignTrack_keeps (a := a) s h (fun _ => by simp [State.assignedTrack, hr, none]) (defaultTrack s.layout) .defaultNoTrack
    exact (first.trans (redoClaims_calm _ ((first.tree n).trans h)).keeps).trans (followUp_calm _ s _ _).keeps
  · unfold expireAt
    split
    · exact (followUp_calm s s _ _).keeps
    · split
      · split
        · exact ((rewriteClaim_calm s _ n (fun c => { c with spent := true }) fun _ => rfl).trans (followUp_calm _ s _ _)).keeps
        · exact (divertTo_keeps s h _ _).trans (followUp_calm _ s _ _).keeps
      · exact ((divertUnknown_calm s n _).trans (followUp_calm _ s _ _)).keeps
  · exact (followUp_calm s s _ _).keeps

/-! ### Head credits that may misroute (R87, R91) -/

theorem addMisrouteIf_calm (c : Prop) [Decidable c] (p : Nat) (w : DivertReason) : CalmMove s (if c then addMisroute p w n s else s) :=
  CalmMove.ite (addMisroute_calm s p w n) (.refl s)

/-- A misroute noted and a replan, where they are called for, keep the agreement. -/
theorem misrouteAndReplan_keeps {a : Prop} (h : s.isInTree n = true) (c d : Prop) [Decidable c] [Decidable d] (p : Nat) (w : DivertReason)
    (b : Position) :
    Keeps a s (if d then replan n p b (if c then addMisroute p w n s else s) else if c then addMisroute p w n s else s) := by
  have noted := addMisrouteIf_calm s (n := n) c p w
  exact Keeps.ite ((noted.keeps (a := a)).trans (replan_keeps _ ((noted.isInTree n).trans h) p b)) noted.keeps

theorem checkBranch_keeps {a : Prop} (h : s.isInTree n = true) (u x : Nat) : Keeps a s (checkBranch n u x s) := by
  unfold checkBranch
  split
  · exact .refl a s
  · split
    · exact .refl a s
    · exact misrouteAndReplan_keeps s h _ _ _ _ _

/-- An entry credited keeps the agreement (R86). -/
theorem creditEntry_keeps {a : Prop} (h : s.isInTree n = true) {x : Nat} (room : (s.section x).occupants.length < Config.maxOccupants) :
    Keeps a s (creditEntry n x s) := by
  unfold creditEntry
  split
  · exact .refl a s
  · split
    · exact ((creditHead_calm s h room _ _).trans (endHold_calm _ x)).keeps
    · rename_i q _ _ u _
      have credited := (creditHead_calm s h room (s.shownState u == .unproven) q).trans (endHold_calm _ x)
      exact ((credited.keeps (a := a)).trans (checkBranch_keeps _ ((credited.isInTree n).trans h) u x)).trans (withdrawAt_calm _ _ n).keeps

end

end Sys2Proof.Machine
end

section
/-! A cut leaves the tree, LOST or SETTLED, with its followers (R28, R30, R78, R92, R96): what it leaves behind, and that the agreement is kept. -/

namespace Sys2Proof.Machine

/-! ### What a cut leaves behind -/

section
variable (s : State)

theorem occupants_leaveSections (l : List Nat) (n y : Nat) :
    ((leaveSections l n s).section y).occupants
      = if y ∈ l then (s.section y).occupants.filter (fun m => m != n) else (s.section y).occupants := by
  unfold leaveSections
  induction l generalizing s with
  | nil => simp
  | cons x l ih =>
    rw [List.foldl_cons, ih, section_changeSection]
    by_cases hy : y = x <;> by_cases hl : y ∈ l <;> simp [hy, hl, SectionEntry.without_occupants]

/-- A section in whose list a cut stands is in the cut's span. -/
theorem mem_spanOf {x n : Nat} (h : n ∈ (s.section x).occupants) : x ∈ s.spanOf n := by
  unfold State.spanOf
  unfold State.section at h
  generalize s.sections = k at *
  induction k with
  | nil => cases h
  | cons e k ih =>
    obtain ⟨j, v⟩ := e
    rw [List.filter_cons]
    by_cases hj : j = x
    · have hv : n ∈ v.occupants := by simpa [Table.read, hj] using h
      simp [hv, hj]
    · have := ih (by simpa [Table.read, hj] using h)
      split
      · exact List.mem_cons_of_mem _ this
      · exact this

/-- A cut that leaves its whole span stands in no list. -/
theorem occupants_leaveSpan (n y : Nat) :
    ((leaveSections (s.spanOf n) n s).section y).occupants = (s.section y).occupants.filter (fun m => m != n) := by
  rw [occupants_leaveSections]
  split
  · rfl
  · rename_i h
    refine (List.filter_eq_self.mpr fun m hm => ?_).symm
    exact bne_iff_ne.mpr fun e => h (mem_spanOf s (e ▸ hm))

theorem claimsAt_withdrawAll (n q : Nat) : (withdrawAll n s).claimsAt q = (s.claimsAt q).filter (fun c => c.cut != n) := by
  rw [withdrawAll, claimsAt_withdrawAt]
  split
  · rfl
  · rename_i h
    refine (List.filter_eq_self.mpr fun c hc => ?_).symm
    have := List.find?_eq_none.mp (claimOf_eq_none_of_not_mem s h) c hc
    simpa using this

end

/-! ### The change of the records -/

/-- A change that ends a cut's way through the tree: it comes out SETTLED or LOST, and keeps its number, its group and its bounds. -/
structure Record.Ends (f : Record → Record) : Prop where
  number : ∀ r, (f r).number = r.number
  out : ∀ r, (f r).state = .settled ∨ (f r).state = .lost
  joined : ∀ r, (f r).joined = r.joined
  declared : ∀ r, (f r).declaredLength = r.declaredLength
  axles : ∀ r, (f r).measuredAxles = r.measuredAxles
  diversions : ∀ r, (f r).diversions = r.diversions
  idem : ∀ r, Record.changed f (Record.changed f r) = Record.changed f r

theorem lose_ends (why : LostReason) : Record.Ends (Record.lose why) :=
  ⟨fun _ => rfl, fun _ => .inr rfl, fun _ => rfl, fun _ => rfl, fun _ => rfl, fun _ => rfl, Record.changed_idem fun _ _ => rfl⟩

theorem settle_ends (x : Nat) : Record.Ends (Record.settle x) :=
  ⟨fun _ => rfl, fun _ => .inl rfl, fun _ => rfl, fun _ => rfl, fun _ => rfl, fun _ => rfl, Record.changed_idem fun _ _ => rfl⟩

section
variable {f g : Record → Record}

theorem Record.Ends.changed (h : Record.Ends f) (r : Record) :
    (Record.changed f r).number = r.number ∧ (Record.changed f r).state = (f r).state ∧ (Record.changed f r).joined = r.joined
      ∧ (r.Bounded → (Record.changed f r).Bounded) := by
  rw [Record.changed_eq]
  refine ⟨h.number r, rfl, h.joined r, fun k => ⟨?_, ?_, ?_, ?_⟩⟩
  · exact (h.number r).symm ▸ k.number
  · exact (h.axles r).symm ▸ k.axles
  · exact (h.diversions r).symm ▸ k.diversions
  · show ((f r).followers).length ≤ _
    unfold Record.followers
    rw [h.joined r]
    exact k.followers

theorem Record.Ends.out_inTree (h : Record.Ends f) (r : Record) : (Record.changed f r).state.inTree = false := by
  rw [(h.changed r).2.1]
  rcases h.out r with e | e <;> rw [e] <;> rfl

theorem Record.Ends.not_state (h : Record.Ends f) (r : Record) :
    (Record.changed f r).state ≠ .pending ∧ (Record.changed f r).state ≠ .joined := by
  rw [(h.changed r).2.1]
  rcases h.out r with e | e <;> rw [e] <;> exact ⟨nofun, nofun⟩

/-- What the departure of a cut `n` with its followers `l` makes of a record. -/
def Record.depart (n : Nat) (l : List Nat) (f g : Record → Record) (r : Record) : Record :=
  if r.number = n then Record.changed f r else if r.number ∈ l then Record.changed g r else r

theorem Record.depart_number (hf : Record.Ends f) (hg : Record.Ends g) (n : Nat) (l : List Nat) (r : Record) :
    (Record.depart n l f g r).number = r.number := by
  unfold Record.depart
  split
  · exact (hf.changed r).1
  · split
    · exact (hg.changed r).1
    · rfl

theorem Record.depart_bounded (hf : Record.Ends f) (hg : Record.Ends g) (n : Nat) (l : List Nat) (r : Record) (k : r.Bounded) :
    (Record.depart n l f g r).Bounded := by
  unfold Record.depart
  split
  · exact (hf.changed r).2.2.2 k
  · split
    · exact (hg.changed r).2.2.2 k
    · exact k

/-- A record that is still JOINED, or still in the tree, is one that has not departed. -/
theorem Record.depart_stays (hf : Record.Ends f) (hg : Record.Ends g) {n : Nat} {l : List Nat} {r : Record}
    (h : (Record.depart n l f g r).state = .pending ∨ (Record.depart n l f g r).state = .joined ∨ (Record.depart n l f g r).state.inTree = true) :
    Record.depart n l f g r = r ∧ r.number ≠ n ∧ r.number ∉ l := by
  have gone : ∀ {k : Record → Record}, Record.Ends k → ¬ ((Record.changed k r).state = .pending ∨ (Record.changed k r).state = .joined
      ∨ (Record.changed k r).state.inTree = true) := fun hk => by
    simp [hk.not_state r, hk.out_inTree r]
  unfold Record.depart at h ⊢
  split
  · rename_i e
    rw [if_pos e] at h
    exact absurd h (gone hf)
  · rename_i e
    rw [if_neg e] at h
    split
    · rename_i e'
      rw [if_pos e'] at h
      exact absurd h (gone hg)
    · exact ⟨rfl, e, ‹_›⟩

/-! ### The departure -/

/-- A cut in the tree goes with its JOINED followers: its record is changed by `f` and theirs by `g`, its claims are withdrawn and it leaves every
occupant list (R28, R30, R96, R117). -/
def sendAway (f g : Record → Record) (n : Nat) (s : State) : State :=
  let s2 := changeRecords (s.joinedFollowers n) g (leaveTree (changeRecord n f s))
  leaveSections (s2.spanOf n) n (withdrawAll n s2)

theorem withdrawAt_frame (l : List Nat) (n : Nat) (s : State) : withdrawAt l n s = { s with claims := (withdrawAt l n s).claims } := by
  unfold withdrawAt
  induction l generalizing s with
  | nil => rfl
  | cons p l ih => exact (ih (setClaims p _ s)).trans rfl

theorem leaveSections_frame (l : List Nat) (n : Nat) (s : State) :
    leaveSections l n s = { s with sections := (leaveSections l n s).sections } := by
  unfold leaveSections
  induction l generalizing s with
  | nil => rfl
  | cons x l ih => exact (ih (changeSection x _ s)).trans rfl

/-- What leaving lists and withdrawing claims cannot touch. -/
theorem leftLists_frame (l : List Nat) (n : Nat) (s : State) :
    leaveSections l n (withdrawAll n s) = { s with
      sections := (leaveSections l n (withdrawAll n s)).sections, claims := (withdrawAll n s).claims } := by
  rw [leaveSections_frame]
  unfold withdrawAll
  rw [withdrawAt_frame]

/-- Only records and flags may differ: what changes of records can touch. -/
def RecordsOnly (s t : State) : Prop := t = { s with records := t.records, flags := t.flags }

theorem RecordsOnly.trans {s t u : State} (h : RecordsOnly s t) (k : RecordsOnly t u) : RecordsOnly s u := by
  unfold RecordsOnly at *
  rw [k, h]

theorem changeRecord_only (s : State) (n : Nat) (f : Record → Record) : RecordsOnly s (changeRecord n f s) := by
  unfold changeRecord latchIf
  split <;> exact rfl

theorem changeRecords_only (s : State) (l : List Nat) (f : Record → Record) : RecordsOnly s (changeRecords l f s) := by
  unfold changeRecords
  induction l generalizing s with
  | nil => exact rfl
  | cons n l ih => exact (changeRecord_only s n f).trans (ih _)

/-- Only records, flags, the in-tree count, occupant lists and claims are touched by a departure. -/
theorem sendAway_frame (f g : Record → Record) (n : Nat) (s : State) :
    sendAway f g n s = { s with
      records := (sendAway f g n s).records, flags := (sendAway f g n s).flags, inTree := s.inTree - 1
      sections := (sendAway f g n s).sections, claims := (sendAway f g n s).claims } := by
  have first := changeRecord_only s n f
  have second := changeRecords_only (leaveTree (changeRecord n f s)) (s.joinedFollowers n) g
  unfold sendAway
  dsimp only
  rw [leftLists_frame]
  unfold RecordsOnly at first second
  rw [second, first]
  rfl

section
variable (s : State) (n : Nat)

theorem sendAway_claimsAt (q : Nat) : (sendAway f g n s).claimsAt q = (s.claimsAt q).filter (fun c => c.cut != n) := by
  have same : (changeRecords (s.joinedFollowers n) g (leaveTree (changeRecord n f s))).claims = s.claims :=
    (changeRecords_claims _ _ _).trans (changeRecord_claims ..)
  show Table.read [] (leaveSections _ n (withdrawAll n _)).claims q = _
  rw [leftLists_frame]
  show (withdrawAll n _).claimsAt q = _
  rw [claimsAt_withdrawAll]
  unfold State.claimsAt
  rw [same]

theorem sendAway_occupants (x : Nat) : ((sendAway f g n s).section x).occupants = (s.section x).occupants.filter (fun m => m != n) := by
  have same : (changeRecords (s.joinedFollowers n) g (leaveTree (changeRecord n f s))).sections = s.sections := by
    rw [changeRecords_only (leaveTree (changeRecord n f s)) (s.joinedFollowers n) g]
    exact changeRecord_sections ..
  unfold sendAway
  dsimp only
  generalize changeRecords (s.joinedFollowers n) g (leaveTree (changeRecord n f s)) = u at *
  have span : u.spanOf n = (withdrawAll n u).spanOf n := by unfold State.spanOf withdrawAll; rw [withdrawAt_frame]
  have list : (withdrawAll n u).section x = s.section x := by unfold State.section withdrawAll; rw [withdrawAt_frame, ← same]
  rw [span, occupants_leaveSpan, list]

theorem sendAway_tracks : (sendAway f g n s).tracks = s.tracks := by rw [sendAway_frame]

end

section
variable {s : State} {n : Nat} (hf : Record.Ends f) (hg : Record.Ends g) (h : s.isInTree n = true)
include hf hg h

theorem sendAway_records : (sendAway f g n s).records = s.records.map (Record.depart n (s.joinedFollowers n) f g) := by
  have alone : n ∉ s.joinedFollowers n := not_mem_joinedFollowers h
  show (leaveSections _ n (withdrawAll n _)).records = _
  rw [leftLists_frame, changeRecords_records _ _ hg.number hg.idem, leaveTree_records, changeRecord_records, List.map_map]
  refine List.map_congr_left fun r _ => ?_
  simp only [Function.comp, Record.depart]
  by_cases e : r.number = n
  · rw [if_pos e, if_pos e, if_neg]
    rwa [(hf.changed r).1, e]
  · rw [if_neg e, if_neg e]

/-- Lookups after a departure. -/
theorem sendAway_record (k : Nat) : (sendAway f g n s).record k = (s.record k).map (Record.depart n (s.joinedFollowers n) f g) := by
  unfold State.record
  rw [sendAway_records hf hg h, find_map_number (Record.depart_number hf hg n _)]

/-- The cut is gone from the tree, and no other is. -/
theorem sendAway_isInTree (k : Nat) : (sendAway f g n s).isInTree k = (s.isInTree k && k != n) := by
  rw [Bool.eq_iff_iff, isInTree_iff, Bool.and_eq_true, isInTree_iff, sendAway_record hf hg h, bne_iff_ne]
  constructor
  · rintro ⟨w, hw, ht⟩
    obtain ⟨r, hr, rfl⟩ := Option.map_eq_some_iff.mp hw
    obtain ⟨same, hn, -⟩ := Record.depart_stays hf hg (.inr (.inr ht))
    exact ⟨⟨r, hr, same ▸ ht⟩, record_number s hr ▸ hn⟩
  · rintro ⟨⟨r, hr, ht⟩, hk⟩
    have out : r.number ∉ s.joinedFollowers n := not_mem_joinedFollowers ((isInTree_iff s).mpr ⟨r, record_number s hr ▸ hr, ht⟩)
    refine ⟨_, by rw [hr]; rfl, ?_⟩
    unfold Record.depart
    rwa [if_neg (by rwa [record_number s hr]), if_neg out]

/-- A record of the table that is PENDING is PENDING still, and no other becomes so. -/
theorem depart_pending (hn : (s.records.map Record.number).Nodup) {r : Record} (hr : r ∈ s.records) :
    (Record.depart n (s.joinedFollowers n) f g r).state = .pending ↔ r.state = .pending := by
  refine ⟨fun k => (Record.depart_stays hf hg (.inl k)).1 ▸ k, fun k => ?_⟩
  obtain ⟨q, hq, ht⟩ := (isInTree_iff s).mp h
  have here : r.number ≠ n := fun e => by
    rw [← eq_of_mem hn hq hr e, k] at ht
    cases ht
  have there : r.number ∉ s.joinedFollowers n := fun hm => by
    obtain ⟨q, hq, hj⟩ := (isIn_iff s).mp (mem_joinedFollowers.mp hm).1
    rw [← eq_of_mem hn hq hr rfl, k] at hj
    cases hj
  unfold Record.depart
  rwa [if_neg here, if_neg there]

theorem sendAway_ledger (k : Ledger s) : Ledger (sendAway f g n s) := by
  have records := sendAway_records hf hg h
  have pending : ∀ m, (sendAway f g n s).isIn m .pending = s.isIn m .pending := fun m => by
    refine State.Pairs.isIn (R := fun r w => w.number = r.number ∧ (w.state = .pending ↔ r.state = .pending)) (fun _ _ e => e)
      (State.pairs_map records fun r hr => ⟨Record.depart_number hf hg n _ r, depart_pending hf hg h k.numbers hr⟩) m
  have numbers : (sendAway f g n s).records.map Record.number = s.records.map Record.number := by
    rw [records, List.map_map]
    exact List.map_congr_left fun r _ => Record.depart_number hf hg n _ r
  obtain ⟨r, hr, ht⟩ := (isInTree_iff s).mp h
  have count : ((sendAway f g n s).records.filter (fun r => r.state.inTree)).length + 1 = (s.records.filter (fun r => r.state.inTree)).length := by
    have pairs : s.Pairs (fun r w => r ∈ s.records ∧ w = Record.depart n (s.joinedFollowers n) f g r) (sendAway f g n s) :=
      State.pairs_map records fun r hr => ⟨hr, rfl⟩
    have sums := sum_of_pairs_but_one (n := n) (f := fun r => if r.state.inTree then 1 else 0) (g := fun r => if r.state.inTree then 1 else 0)
      pairs (by rintro q _ ⟨-, rfl⟩; exact Record.depart_number hf hg n _ q) k.numbers ?_ (record_mem s hr) (record_number s hr)
      (w := Record.depart n (s.joinedFollowers n) f g r) ?_ ((Record.depart_number hf hg n _ r).trans (record_number s hr))
    · have gone : (Record.depart n (s.joinedFollowers n) f g r).state.inTree = false := by
        unfold Record.depart
        rw [if_pos (record_number s hr)]
        exact hf.out_inTree r
      rw [← length_filter_eq_sum, ← length_filter_eq_sum, ht, gone] at sums
      simpa using sums
    · rintro q _ ⟨hq, rfl⟩ hqn
      have : (Record.depart n (s.joinedFollowers n) f g q).state.inTree = q.state.inTree := by
        unfold Record.depart
        rw [if_neg hqn]
        split
        · rename_i hm
          obtain ⟨v, hv, hj⟩ := (isIn_iff s).mp (mem_joinedFollowers.mp hm).1
          rw [hg.out_inTree, eq_of_mem k.numbers hv hq rfl, hj]
          rfl
        · rfl
      simp only [this]
    · rw [records]
      exact List.mem_map_of_mem (record_mem s hr)
  have inTree : (sendAway f g n s).inTree = s.inTree - 1 := by rw [sendAway_frame]
  have queue : (sendAway f g n s).queue = s.queue := by rw [sendAway_frame]
  refine ⟨?_, numbers ▸ k.numbers, fun w hw => ?_, queue ▸ k.queueOnce, fun m hm => ?_, fun w hw hs => ?_, ?_, ?_, ?_⟩
  · rw [records, List.length_map]; exact k.slots
  · rw [records] at hw
    obtain ⟨q, hq, rfl⟩ := List.mem_map.mp hw
    exact Record.depart_bounded hf hg n _ q (k.bounded q hq)
  · rw [pending]
    exact k.queued m (queue ▸ hm)
  · rw [records] at hw
    obtain ⟨q, hq, rfl⟩ := List.mem_map.mp hw
    rw [queue, Record.depart_number hf hg]
    exact k.pendings q hq ((depart_pending hf hg h k.numbers hq).mp hs)
  · rw [sendAway_frame]; exact k.unlisted
  · rw [inTree, k.count]
    omega
  · rw [inTree]
    exact (Nat.sub_le _ _).trans k.room

omit hf hg h in
theorem canonical_sendAway (k : Canonical s) : Canonical (sendAway f g n s) := by
  have front : Canonical (changeRecords (s.joinedFollowers n) g (leaveTree (changeRecord n f s))) := by
    have only := changeRecords_only (leaveTree (changeRecord n f s)) (s.joinedFollowers n) g
    have only' := changeRecord_only s n f
    unfold RecordsOnly at only only'
    rw [only, only']
    exact k.congr rfl rfl rfl rfl rfl rfl rfl rfl rfl rfl
  exact ((withdrawAll_calm _ n).trans (leaveSections_calm _ _ n)).canonical front

theorem sendAway_followed (k : Followed s) : Followed (sendAway f g n s) := by
  refine followed_of (canonical_sendAway k.canonical) (sendAway_ledger hf hg h k.ledger) ⟨fun x m hm => ?_, fun x => ?_, fun x => ?_,
    fun p c hc => ?_, fun p => ?_⟩
  · rw [sendAway_occupants, List.mem_filter] at hm
    rw [sendAway_isInTree hf hg h, k.occupants x m hm.1, hm.2]
    rfl
  · rw [sendAway_occupants]
    exact (k.listedOnce x).filter _
  · rw [sendAway_occupants]
    exact (List.length_filter_le _ _).trans (k.room x)
  · rw [sendAway_claimsAt, List.mem_filter] at hc
    rw [sendAway_isInTree hf hg h, k.claims p c hc.1, hc.2]
    rfl
  · rw [sendAway_claimsAt]
    exact (k.claimedOnce p).sublist (List.filter_sublist.map _)

/-! ### The totals -/

/-- A follower of another cut in the tree is neither the cut that departs nor one of its followers. -/
theorem follower_stays (hn : (s.records.map Record.number).Nodup) (k : Bonds s) {q : Record} (hq : q ∈ s.records) (ht : q.state.inTree = true)
    (hqn : q.number ≠ n) {m : Nat} (hm : m ∈ q.followers) : (sendAway f g n s).record m = s.record m := by
  obtain ⟨v, hv, hj, hl⟩ := k.leaders q hq ht m hm
  rw [sendAway_record hf hg h, hv, Option.map_some]
  have here : v.number ≠ n := fun e => by
    obtain ⟨r, hr, ht'⟩ := (isInTree_iff s).mp h
    rw [← eq_of_mem hn hr (record_mem s hv) e, hj] at ht'
    cases ht'
  have there : v.number ∉ s.joinedFollowers n := fun hm' => by
    obtain ⟨-, r, hr, hmr⟩ := mem_joinedFollowers.mp hm'
    obtain ⟨r', hr', ht'⟩ := (isInTree_iff s).mp h
    obtain rfl := Option.some.inj (hr.symm.trans hr')
    obtain ⟨v', hv', -, hl'⟩ := k.leaders r (record_mem s hr) ht' _ hmr
    rw [record_number s hv, hv] at hv'
    obtain rfl := Option.some.inj hv'
    rw [hl] at hl'
    injection hl' with e
    injection e with e
    exact hqn (e.trans (record_number s hr))
  unfold Record.depart
  rw [if_neg here, if_neg there]

theorem record_stays {k : Nat} (ht : s.isInTree k = true) (hk : k ≠ n) : (sendAway f g n s).record k = s.record k := by
  obtain ⟨r, hr, -⟩ := (isInTree_iff s).mp ht
  rw [sendAway_record hf hg h, hr, Option.map_some, Record.depart, record_number s hr, if_neg hk, if_neg (not_mem_joinedFollowers ht)]

omit hf hg h in
/-- A group is as long as before when its records are the ones before. -/
theorem groupLength_congr {t : State} {k : Nat} {r : Record} (hr : s.record k = some r) (record : t.record k = s.record k)
    (followers : ∀ m ∈ r.followers, t.record m = s.record m) (active : t.active = s.active) : t.groupLength k = s.groupLength k := by
  have isIn : ∀ m ∈ r.followers, t.isIn m .joined = s.isIn m .joined := fun m hm => by unfold State.isIn; rw [followers m hm]
  have joined : t.joinedFollowers k = s.joinedFollowers k := by
    unfold State.joinedFollowers
    rw [record, hr]
    exact List.filter_congr isIn
  unfold State.groupLength
  rw [joined, List.map_congr_left]
  intro m hm
  have found : t.record m = s.record m := by
    rcases List.mem_cons.mp hm with rfl | hm
    · exact record
    · obtain ⟨-, q, hq, hmq⟩ := mem_joinedFollowers.mp hm
      obtain rfl := Option.some.inj (hr.symm.trans hq)
      exact followers m hmq
  unfold State.effective State.layout
  rw [found, active]

/-- The total of a track falls by the group's length where the group was assigned to it. -/
theorem groupsOn_sendAway (hn : (s.records.map Record.number).Nodup) (k : Bonds s) (x : Nat) :
    (sendAway f g n s).groupsOn x + (if s.assignedTrack n = some x then s.groupLength n else 0) = s.groupsOn x := by
  have records := sendAway_records hf hg h
  obtain ⟨r, hr, ht⟩ := (isInTree_iff s).mp h
  have pairs : s.Pairs (fun r w => r ∈ s.records ∧ w = Record.depart n (s.joinedFollowers n) f g r) (sendAway f g n s) :=
    State.pairs_map records fun r hr => ⟨hr, rfl⟩
  have others : ∀ q w, (q ∈ s.records ∧ w = Record.depart n (s.joinedFollowers n) f g q) → q.number ≠ n →
      (sendAway f g n s).share x w = s.share x q := by
    rintro q _ ⟨hq, rfl⟩ hqn
    by_cases hm : q.number ∈ s.joinedFollowers n
    · obtain ⟨v, hv, hj⟩ := (isIn_iff s).mp (mem_joinedFollowers.mp hm).1
      have out : q.state.inTree = false := by rw [eq_of_mem hn hv hq rfl, hj]; rfl
      rw [share_of_out out, share_of_out]
      rw [Record.depart, if_neg hqn, if_pos hm]
      exact hg.out_inTree q
    · rw [Record.depart, if_neg hqn, if_neg hm]
      unfold State.share
      by_cases hqt : q.state.inTree = true
      · have found := record_of_mem hn hq
        have active : (sendAway f g n s).active = s.active := by rw [sendAway_frame]
        rw [groupLength_congr found (record_stays hf hg h ((isInTree_iff s).mpr ⟨q, found, hqt⟩) hqn)
          (fun m hm => follower_stays hf hg h hn k hq hqt hqn hm) active]
      · simp [hqt]
  have sums := sum_of_pairs_but_one pairs (by rintro q _ ⟨-, rfl⟩; exact Record.depart_number hf hg n _ q) hn others (record_mem s hr)
    (record_number s hr) (w := Record.depart n (s.joinedFollowers n) f g r) (records ▸ List.mem_map_of_mem (record_mem s hr))
    ((Record.depart_number hf hg n _ r).trans (record_number s hr))
  have gone : (Record.depart n (s.joinedFollowers n) f g r).state.inTree = false := by
    rw [Record.depart, if_pos (record_number s hr)]
    exact hf.out_inTree r
  rw [← groupsOn_eq_sum, ← groupsOn_eq_sum, share_inTree hr ht, share_of_out gone] at sums
  exact sums

/-- The bonds after a departure: the leader goes with all its followers. -/
theorem sendAway_bonds (hn : (s.records.map Record.number).Nodup) (count : s.inTree ≠ 0) (k : Bonds s) : Bonds (sendAway f g n s) := by
  have records := sendAway_records hf hg h
  obtain ⟨r, hr, ht⟩ := (isInTree_iff s).mp h
  refine ⟨fun w hw hwt m hm => ?_, fun w hw hs => ?_, fun w hw hs => ?_, fun c hc => ?_, fun hh => ?_⟩
  · rw [records] at hw
    obtain ⟨q, hq, rfl⟩ := List.mem_map.mp hw
    obtain ⟨same, hqn, -⟩ := Record.depart_stays hf hg (.inr (.inr hwt))
    rw [same] at hwt hm ⊢
    rw [follower_stays hf hg h hn k hq hwt hqn hm]
    exact k.leaders q hq hwt m hm
  · rw [records] at hw
    obtain ⟨q, hq, rfl⟩ := List.mem_map.mp hw
    obtain ⟨same, hqn, hql⟩ := Record.depart_stays hf hg (.inr (.inl hs))
    rw [same] at hs ⊢
    obtain ⟨c, l, hj, hl, hlt, hm⟩ := k.followers q hq hs
    have hc : c ≠ n := by
      rintro rfl
      exact hql (mem_joinedFollowers.mpr ⟨(isIn_iff s).mpr ⟨q, record_of_mem hn hq, hs⟩, l, hl, hm⟩)
    exact ⟨c, l, hj, by rw [record_stays hf hg h ((isInTree_iff s).mpr ⟨l, hl, hlt⟩) hc, hl], hlt, hm⟩
  · rw [records] at hw
    obtain ⟨q, hq, rfl⟩ := List.mem_map.mp hw
    have same := (Record.depart_stays hf hg (.inl hs)).1
    rw [same] at hs ⊢
    exact k.pendings q hq hs
  · rw [sendAway_frame] at hc
    obtain ⟨q, hq, hp, hj⟩ := k.crest c hc
    refine ⟨_, by rw [sendAway_record hf hg h, hq]; rfl, fun e => ?_, fun e => ?_⟩
    · exact hp ((Record.depart_stays hf hg (.inl e)).1 ▸ e)
    · exact hj ((Record.depart_stays hf hg (.inr (.inl e))).1 ▸ e)
  · rw [sendAway_frame] at hh
    exact absurd (k.halted hh) count

end

end

end Sys2Proof.Machine
end

section
/-! The cuts lost, settled and closed up keep the agreement (R86 to R96), and so do the section inputs, the proving timers and the halt. -/

namespace Sys2Proof.Machine

/-! ### LOST and SETTLED -/

section
variable (s : State) {n : Nat}

omit s in
theorem latch_latchIf (b : Bool) (c d : Cause) (s : State) : latchIf b d (latch c s) = latch c (latchIf b d s) := by
  cases b
  · rfl
  · show { s with flags := (s.flags ||| causeBit c) ||| causeBit d } = { s with flags := (s.flags ||| causeBit d) ||| causeBit c }
    rw [BitVec.or_assoc, BitVec.or_comm (causeBit c), ← BitVec.or_assoc]

theorem changeRecord_latch (c : Cause) (n : Nat) (f : Record → Record) : changeRecord n f (latch c s) = latch c (changeRecord n f s) :=
  latch_latchIf _ c .cutChanged { s with records := s.records.map (fun r => if r.number = n then Record.changed f r else r) }

/-- A cut LOST with its followers is a departure after LOST has latched, then its length is taken off its track (R28, R30, R78, R96). -/
theorem loseCut_eq (why : LostReason) (h : s.isInTree n = true) :
    loseCut why n s = releaseFrom (s.assignedTrack n) (s.groupLength n)
      (sendAway (Record.lose why) (Record.lose .leaderLost) n (latch .lost s)) := by
  unfold loseCut
  rw [if_pos h]
  unfold sendAway
  rw [changeRecord_latch]
  rfl

theorem loseCut_out (why : LostReason) (h : s.isInTree n = false) : loseCut why n s = s := by
  unfold loseCut
  rw [if_neg (by simp [h])]

/-- The record of a cut that is to be settled, the misroute noted where its track is another (R92). -/
def markedMisroute (p x n : Nat) (s : State) : State :=
  if (s.assignedTrack n).isSome && s.assignedTrack n != some x then addMisroute p .misroute n s else s

theorem markedMisroute_calm (p x n : Nat) : CalmMove s (markedMisroute p x n s) := addMisrouteIf_calm s _ p _

/-- A cut SETTLED with its followers is a departure after the misroute has been noted, then its length becomes fill (R92, R30, R77). -/
theorem settleCut_eq (p x : Nat) (h : s.isInTree n = true) :
    settleCut p x n s = settleLength (s.assignedTrack n) x (s.groupLength n)
      (sendAway (Record.settle x) (Record.settle x) n (markedMisroute p x n s)) := by
  have followers : (markedMisroute p x n s).joinedFollowers n = s.joinedFollowers n :=
    ((markedMisroute_calm s p x n).records.imp fun _ _ k => k.sameGroup).joinedFollowers n
  unfold settleCut sendAway
  rw [if_pos h, followers]
  rfl

theorem settleCut_out (p x : Nat) (h : s.isInTree n = false) : settleCut p x n s = s := by
  unfold settleCut
  rw [if_neg (by simp [h])]

theorem committed_settleLength (y : Option Nat) (x len z : Nat) :
    ((settleLength y x len s).track z).committed = (s.track z).committed - if y = some z then len else 0 := by
  unfold settleLength
  split
  · rename_i e
    subst e
    rw [track_changeTrack]
    by_cases h : z = x
    · subst h; simp
    · simp [h, Ne.symm h]
  · rw [track_changeTrack]
    have := committed_releaseFrom s y len z
    split
    · rename_i e
      subst e
      exact this
    · exact this

theorem settleLength_moves (y : Option Nat) (x len : Nat) : Moves Record.Calm s (settleLength y x len s) := by
  unfold settleLength
  split
  · exact changeTrack_moves s _ _
  · exact (releaseFrom_moves s y len).trans (fun h k => h.trans k) (changeTrack_moves _ _ _)

end

section
variable {a : Prop} {s : State} {n : Nat}

theorem inTree_ne_zero (k : Ledger s) (h : s.isInTree n = true) : s.inTree ≠ 0 := by
  obtain ⟨r, hr, ht⟩ := (isInTree_iff s).mp h
  rw [k.count]
  exact fun e => List.ne_nil_of_mem (List.mem_filter.mpr ⟨record_mem s hr, ht⟩) (List.length_eq_zero_iff.mp e)

/-- The agreement after a departure from a state that keeps it, when the length of the group has been taken off its track. -/
theorem sound_of_departure {f g : Record → Record} (hf : Record.Ends f) (hg : Record.Ends g) (k : Sound a s) (h : s.isInTree n = true)
    {t : State} (rest : Moves Record.Calm (sendAway f g n s) t)
    (committed : ∀ y, (t.track y).committed = (s.track y).committed - if s.assignedTrack n = some y then s.groupLength n else 0) :
    Sound a t ∧ ∀ m, t.isInTree m = (s.isInTree m && m != n) := by
  refine ⟨⟨rest.steady.tame.followed (sendAway_followed hf hg h k.1), fun ha => ?_⟩, fun m => ?_⟩
  · have hn := k.1.ledger.numbers
    refine accounted_of (rest.bonds_calm (sendAway_bonds hf hg h hn (inTree_ne_zero k.1.ledger h) (k.2 ha).bonds)) fun y => ?_
    have fallen := groupsOn_sendAway hf hg h hn (k.2 ha).bonds y
    rw [rest.groupsOn, committed, (k.2 ha).totals]
    omega
  · rw [rest.steady.tame.isInTree, sendAway_isInTree hf hg h]

/-- A cut lost keeps the agreement, and leaves the tree alone. -/
theorem loseCut_sound (why : LostReason) (k : Sound a s) :
    Sound a (loseCut why n s) ∧ ∀ m, (loseCut why n s).isInTree m = (s.isInTree m && m != n) := by
  by_cases h : s.isInTree n = true
  · rw [loseCut_eq s why h]
    refine sound_of_departure (s := latch .lost s) (lose_ends why) (lose_ends _) ((latch_calm s _).keeps.sound k) h (releaseFrom_moves _ _ _)
      fun y => ?_
    rw [committed_releaseFrom, State.track, sendAway_tracks]
    rfl
  · have h' : s.isInTree n = false := by simpa using h
    rw [loseCut_out s why h']
    refine ⟨k, fun m => ?_⟩
    by_cases e : m = n
    · rw [e, h']; rfl
    · simp [e]

theorem settleCut_sound (p x : Nat) (k : Sound a s) :
    Sound a (settleCut p x n s) ∧ ∀ m, (settleCut p x n s).isInTree m = (s.isInTree m && m != n) := by
  by_cases h : s.isInTree n = true
  · have noted := markedMisroute_calm s p x n
    have track : (markedMisroute p x n s).assignedTrack n = s.assignedTrack n := by
      have := noted.records.record (fun _ _ e => e.number) n
      unfold State.assignedTrack
      generalize s.record n = o at this ⊢
      generalize (markedMisroute p x n s).record n = q at this ⊢
      cases this with
      | none => rfl
      | some e => simp [e.assigned]
    rw [settleCut_eq s p x h]
    obtain ⟨sound, tree⟩ := sound_of_departure (a := a) (settle_ends x) (settle_ends x) (noted.keeps.sound k) ((noted.isInTree n).trans h)
      (settleLength_moves _ (s.assignedTrack n) x (s.groupLength n)) fun y => by
        have same : ((sendAway (Record.settle x) (Record.settle x) n (markedMisroute p x n s)).track y).committed
            = ((markedMisroute p x n s).track y).committed := by unfold State.track; rw [sendAway_tracks]
        rw [committed_settleLength, track, noted.steady.groupLength, same]
    exact ⟨sound, fun m => by rw [tree, noted.isInTree]⟩
  · have h' : s.isInTree n = false := by simpa using h
    rw [settleCut_out s p x h']
    refine ⟨k, fun m => ?_⟩
    by_cases e : m = n
    · rw [e, h']; rfl
    · simp [e]

/-- Each of some cuts lost in turn. -/
theorem loseCuts_sound (why : LostReason) (l : List Nat) (k : Sound a s) :
    Sound a (loseCuts why l s) ∧ ∀ m, (loseCuts why l s).isInTree m = (s.isInTree m && !l.contains m) := by
  unfold loseCuts
  induction l generalizing s with
  | nil => exact ⟨k, fun m => by simp⟩
  | cons n l ih =>
    obtain ⟨first, tree⟩ := loseCut_sound (n := n) why k
    obtain ⟨rest, tree'⟩ := ih first
    refine ⟨rest, fun m => ?_⟩
    rw [List.foldl_cons, tree', tree, List.contains_cons, Bool.and_assoc, bne, Bool.not_or]

theorem settleCuts_sound (p : State → Nat) (x : Nat) (l : List Nat) (k : Sound a s) :
    Sound a (l.foldl (fun s n => settleCut (p s) x n s) s) := by
  induction l generalizing s with
  | nil => exact k
  | cons n l ih => exact ih (settleCut_sound (p s) x k).1

/-! ### Clearing sections -/

/-- An occupant of a clearing section brought up into the section its way out names: its head and tail are that section, and its claims where it
was are withdrawn (R91). -/
def broughtUp (d n : Nat) (s : State) : State :=
  let back := (s.spanOf n).filter (fun y => y != d)
  withdrawAt (s.pointsIn back) n (addMark .closedUp n
    (changeRecord n (fun r => Record.credit s d d r.speed false r) (leaveSections back n (enterSection d n s))))

theorem broughtUp_calm {d : Nat} (h : s.isInTree n = true) (room : (s.section d).occupants.length < Config.maxOccupants) :
    CalmMove s (broughtUp d n s) :=
  ((((enterSection_calm s h room).trans (leaveSections_calm _ _ n)).trans
    (changeRecord_calm _ n _ fun r _ _ => credit_calm s d d r.speed false r)).trans (addMark_calm _ _ n)).trans (withdrawAt_calm _ _ n)

theorem closeUp_keeps (u : Nat) {d : Nat} (h : s.isInTree n = true) (room : (s.section d).occupants.length < Config.maxOccupants) :
    Keeps a s (closeUp u d s n) := by
  have up := broughtUp_calm h room
  unfold closeUp
  rw [if_neg (Nat.not_le.mpr room)]
  dsimp only
  split
  · refine up.keeps.trans ?_
    exact misrouteAndReplan_keeps (broughtUp d n s) ((up.isInTree n).trans h) _ _ _ _ _
  · exact up.keeps

/-- A cut closed up, or lost for want of room, keeps the agreement, and no other leaves the tree (R91). -/
theorem closeUp_sound (u d : Nat) (k : Sound a s) (h : s.isInTree n = true) :
    Sound a (closeUp u d s n) ∧ ∀ m, m ≠ n → (closeUp u d s n).isInTree m = s.isInTree m := by
  by_cases room : (s.section d).occupants.length < Config.maxOccupants
  · have keeps := closeUp_keeps (a := a) u h room
    exact ⟨keeps.sound k, fun m _ => keeps.tree m⟩
  · have full : closeUp u d s n = loseCut .overcrowded n s := if_pos (Nat.not_lt.mp room)
    obtain ⟨sound, tree⟩ := loseCut_sound (n := n) .overcrowded k
    rw [full]
    exact ⟨sound, fun m hm => by rw [tree]; simp [hm]⟩

/-- Cuts in the tree, no two the same, are closed up in turn. -/
theorem closeUps_sound (u d : Nat) (l : List Nat) (hl : l.Nodup) (k : Sound a s) (h : ∀ n ∈ l, s.isInTree n = true) :
    Sound a (l.foldl (closeUp u d) s) := by
  induction l generalizing s with
  | nil => exact k
  | cons n l ih =>
    rw [List.nodup_cons] at hl
    obtain ⟨first, tree⟩ := closeUp_sound u d k (h n List.mem_cons_self)
    refine ih hl.2 first fun m hm => ?_
    rw [tree m fun e => hl.1 (e ▸ hm)]
    exact h m (List.mem_cons_of_mem n hm)

theorem dealWithHeld_sound (u : Nat) (l : List Nat) (hl : l.Nodup) (k : Sound a s) (h : ∀ n ∈ l, s.isInTree n = true) :
    Sound a (dealWithHeld u l s) := by
  have held : Sound a (holdUnproven u s) := (holdUnproven_calm s u).keeps.sound k
  have up : ∀ d, Sound a (l.foldl (closeUp u d) s) := fun d => closeUps_sound u d l hl k h
  unfold dealWithHeld
  cases s.wayOut u with
  | some way =>
    cases way with
    | sec d =>
      dsimp only
      split
      · exact up d
      · exact held
    | track x => exact settleCuts_sound (fun s => (pointOfSection s.layout u).getD 0) x l k
  | none =>
    dsimp only
    split
    · split
      · exact (loseCuts_sound .noDetection l k).1
      · exact held
    · exact held

/-- A section that has become clear keeps the agreement (R90 to R93). -/
theorem sectionLeft_sound (old : State) (u : Nat) (k : Sound a s) : Sound a (sectionLeft old u s) := by
  have quiet : CalmMove s (changeSection u (fun e => { e with unexplained := false }) s) :=
    changeSection_calm s u _ fun e => List.Sublist.refl e.occupants
  have drawn := quiet.trans (CalmMove.foldl (drawOut u) (fun s n => drawOut_calm s u n)
    ((s.section u).occupants.filter (fun n => !s.headIn u n)) _)
  unfold sectionLeft
  dsimp only
  refine (followUp_calm _ old _ _).keeps.sound ?_
  split
  · exact drawn.keeps.sound k
  · refine dealWithHeld_sound u _ ((k.1.listedOnce u).filter _) (drawn.keeps.sound k) fun n hn => ?_
    rw [drawn.isInTree]
    exact k.1.occupants u n (List.mem_of_mem_filter hn)

/-- A proving timer that has run out keeps the agreement (R94). -/
theorem provingExpires_sound (x : Nat) (k : Sound a s) : Sound a (provingExpires x s) := by
  have lost := (loseCuts_sound .unproven (s.section x).occupants k).1
  have rest : CalmMove (loseCuts .unproven (s.section x).occupants s) (provingExpires x s) :=
    ((changeSection_calm _ x (fun e => { e with unproven := false, proving := none }) fun e => List.Sublist.refl e.occupants).trans
      (latch_calm _ _)).trans (followUp_calm _ s _ _)
  exact rest.keeps.sound lost

/-! ### Occupied sections -/

theorem sortCuts_perm (s : State) (l : List Nat) : (sortCuts s l).Perm l := by
  have go : ∀ l acc : List Nat, (l.foldl (fun acc n => insertCut s n acc) acc).Perm (l ++ acc) := by
    intro l
    induction l with
    | nil => exact fun acc => .refl acc
    | cons n l ih => exact fun acc => (ih _).trans (((insertCut_perm s n acc).append_left l).trans List.perm_middle)
  exact (go l []).trans (by rw [List.append_nil])

/-- An entrant is in the tree (R85). -/
theorem entrant_isInTree (k : Followed s) {x : Nat} (h : s.entrant x = some n) : s.isInTree n = true := by
  unfold State.entrant at h
  split at h
  · have hm := (sortCuts_perm s _).mem_iff.mp (List.mem_of_head? h)
    obtain ⟨r, hr, rfl⟩ := List.mem_map.mp hm
    rw [List.mem_filter, Bool.and_eq_true] at hr
    exact (isInTree_iff s).mpr ⟨r, record_of_mem k.ledger.numbers hr.1, hr.2.1⟩
  · split at h
    · cases h
    · exact k.occupants _ n (List.mem_of_find?_eq_some h)

/-- A section that has become occupied keeps the agreement (R85 to R89). -/
theorem sectionEntered_sound (old : State) (x : Nat) (k : Sound a s) : Sound a (sectionEntered old x s) := by
  unfold sectionEntered
  split
  · exact (((unexplainedEntry_calm s x).trans (tellDrivers_calm _ x none)).trans (followUp_calm _ old _ _)).keeps.sound k
  · rename_i n he
    split
    · exact (((endHold_calm _ x).trans (tellDrivers_calm _ x none)).trans (followUp_calm _ old _ _)).keeps.sound
        (loseCut_sound (n := n) .overcrowded k).1
    · rename_i room
      have credited := creditEntry_keeps (a := a) s (entrant_isInTree k.1 he) (Nat.not_le.mp room)
      exact ((tellDrivers_calm _ x (some n)).trans (followUp_calm _ old _ _)).keeps.sound (credited.sound k)

theorem setChannel_calm (s : State) (c : Nat) (b : Bool) : CalmMove s (setChannel c b s) where
  canonical h := ⟨h.tracks, Table.write_wf _ _ _ _ h.channels, h.sections, h.claims, h.detections, h.points, h.slots, h.working, h.active,
    h.slotImages, h.commitImage⟩
  records := State.Pairs.refl Record.Calm.refl s
  queue := rfl
  unlisted := rfl
  inTree := rfl
  lists h := ⟨h.occupants, h.listedOnce, h.room, h.claims, h.claimedOnce⟩
  crestCut := rfl
  runState := rfl
  active := rfl
  committed _ := rfl

theorem inputChanges_sound (c : Nat) (b : Bool) (k : Sound a s) : Sound a (inputChanges c b s) := by
  have set : Sound a (setChannel c b s) := (setChannel_calm s c b).keeps.sound k
  unfold inputChanges
  dsimp only
  split
  · split
    · split
      · exact sectionEntered_sound s _ set
      · exact sectionLeft_sound s _ set
    · exact set
  · exact set

end

end Sys2Proof.Machine
end

section
/-! Records that come into the table, leave it, or leave the humping queue, and what that is to the ledger and the accounts (R21, R34, R50 to R53). -/

namespace Sys2Proof.Machine

/-! ### Changes that touch no table -/

/-- The keyed tables, the images and the commit under way are the same. -/
structure SameTables (s t : State) : Prop where
  tracks : t.tracks = s.tracks
  channels : t.channels = s.channels
  sections : t.sections = s.sections
  claims : t.claims = s.claims
  detections : t.detections = s.detections
  points : t.points = s.points
  slots : t.slots = s.slots
  working : t.working = s.working
  active : t.active = s.active
  commit : t.commit = s.commit

section
variable {s t : State}

theorem SameTables.canonical (h : SameTables s t) (k : Canonical s) : Canonical t :=
  k.congr h.tracks h.channels h.sections h.claims h.detections h.points h.slots h.working h.active h.commit

theorem SameTables.track (h : SameTables s t) (x : Nat) : t.track x = s.track x := by unfold State.track; rw [h.tracks]

/-- The agreement after a change that touches no table and takes no cut out of the tree. -/
theorem SameTables.followed (h : SameTables s t) (k : Followed s) (ledger : Ledger t) (tree : ∀ m, s.isInTree m = true → t.isInTree m = true) :
    Followed t := by
  have sections : ∀ x, t.section x = s.section x := fun x => by unfold State.section; rw [h.sections]
  have claims : ∀ p, t.claimsAt p = s.claimsAt p := fun p => by unfold State.claimsAt; rw [h.claims]
  refine ⟨h.canonical k.canonical, ledger, fun x m hm => ?_, fun x => ?_, fun x => ?_, fun p c hc => ?_, fun p => ?_⟩
  · exact tree m (k.occupants x m (sections x ▸ hm))
  · exact sections x ▸ k.listedOnce x
  · exact sections x ▸ k.room x
  · exact tree _ (k.claims p c (claims p ▸ hc))
  · exact claims p ▸ k.claimedOnce p

end

/-! ### The records that groups are made of -/

/-- A record in the tree or JOINED: one that leads a group or follows in one (R24, R29). -/
def Record.grouped (r : Record) : Bool := r.state.inTree || r.state == .joined

section
variable {s t : State}

theorem grouped_of_inTree {r : Record} (h : r.state.inTree = true) : r.grouped = true := by simp [Record.grouped, h]

theorem grouped_of_joined {r : Record} (h : r.state = .joined) : r.grouped = true := by simp [Record.grouped, h]

/-- A record that belongs to a group is found in any table whose groups are made of the same records. -/
theorem record_grouped (hn : (t.records.map Record.number).Nodup) (core : t.records.filter Record.grouped = s.records.filter Record.grouped)
    {n : Nat} {r : Record} (hr : s.record n = some r) (g : r.grouped = true) : t.record n = some r := by
  have here : r ∈ t.records.filter Record.grouped := core ▸ List.mem_filter.mpr ⟨record_mem s hr, g⟩
  rw [← record_number s hr]
  exact record_of_mem hn (List.mem_of_mem_filter here)

theorem isIn_joined_of_core (hs : (s.records.map Record.number).Nodup) (ht : (t.records.map Record.number).Nodup)
    (core : t.records.filter Record.grouped = s.records.filter Record.grouped) (m : Nat) : t.isIn m .joined = s.isIn m .joined := by
  rw [Bool.eq_iff_iff, isIn_iff, isIn_iff]
  constructor <;> rintro ⟨r, hr, hj⟩
  · exact ⟨r, record_grouped hs core.symm hr (grouped_of_joined hj), hj⟩
  · exact ⟨r, record_grouped ht core hr (grouped_of_joined hj), hj⟩

/-- A group is as long as before. -/
theorem groupLength_of_core (hs : (s.records.map Record.number).Nodup) (ht : (t.records.map Record.number).Nodup)
    (core : t.records.filter Record.grouped = s.records.filter Record.grouped) (active : t.active = s.active) {n : Nat} {r : Record}
    (hr : s.record n = some r) (g : r.grouped = true) : t.groupLength n = s.groupLength n := by
  have same := record_grouped ht core hr g
  have followers : t.joinedFollowers n = s.joinedFollowers n := by
    unfold State.joinedFollowers
    rw [same, hr]
    exact List.filter_congr fun m _ => isIn_joined_of_core hs ht core m
  unfold State.groupLength
  rw [followers, List.map_congr_left]
  intro m hm
  have found : t.record m = s.record m := by
    rcases List.mem_cons.mp hm with rfl | hm
    · rw [same, hr]
    · obtain ⟨f, hf, hj⟩ := (isIn_iff s).mp (mem_joinedFollowers.mp hm).1
      rw [record_grouped ht core hf (grouped_of_joined hj), hf]
  unfold State.effective State.layout
  rw [found, active]

/-- Changes that leave alone every record in a group, and put none in one. -/
theorem core_of_map {g : Record → Record} (records : t.records = s.records.map g)
    (hg : ∀ r ∈ s.records, g r = r ∨ r.grouped = false ∧ (g r).grouped = false) :
    t.records.filter Record.grouped = s.records.filter Record.grouped := by
  rw [records]
  generalize s.records = l at hg
  induction l with
  | nil => rfl
  | cons r l ih =>
    have tail := ih fun q hq => hg q (List.mem_cons_of_mem r hq)
    rw [List.map_cons, List.filter_cons, List.filter_cons, tail]
    rcases hg r List.mem_cons_self with same | ⟨before, after⟩
    · rw [same]
    · rw [before, after]
      rfl

theorem groupsOn_of_core (hs : (s.records.map Record.number).Nodup) (ht : (t.records.map Record.number).Nodup)
    (core : t.records.filter Record.grouped = s.records.filter Record.grouped) (active : t.active = s.active) (x : Nat) :
    t.groupsOn x = s.groupsOn x := by
  have within : ∀ u : State, u.records.filter (fun r => r.state.inTree && r.assigned.map Assignment.track == some x)
      = (u.records.filter Record.grouped).filter (fun r => r.state.inTree && r.assigned.map Assignment.track == some x) := fun u => by
    rw [List.filter_filter]
    refine List.filter_congr fun r _ => ?_
    cases h : r.state.inTree <;> simp [Record.grouped, h]
  unfold State.groupsOn
  rw [within t, within s, core]
  congr 1
  refine List.map_congr_left fun r hr => ?_
  obtain ⟨hm, g⟩ := List.mem_filter.mp (List.mem_of_mem_filter hr)
  exact groupLength_of_core hs ht core active (record_of_mem hs hm) g

/-- The accounts when the groups are made of the same records, each assigned as before. -/
theorem accounted_of_core (k : Accounted s) (hs : (s.records.map Record.number).Nodup) (ht : (t.records.map Record.number).Nodup)
    (core : t.records.filter Record.grouped = s.records.filter Record.grouped) (active : t.active = s.active)
    (committed : ∀ x, (t.track x).committed = (s.track x).committed)
    (pendings : ∀ r ∈ t.records, r.state = .pending → r.joined = none ∧ r.assigned = none)
    (crest : ∀ c, t.crestCut = some c → ∃ r, t.record c = some r ∧ r.state ≠ .pending ∧ r.state ≠ .joined)
    (halted : t.runState = .halted → t.inTree = 0) : Accounted t := by
  have back : ∀ r ∈ t.records, r.grouped = true → r ∈ s.records := fun r hr g =>
    List.mem_of_mem_filter (core ▸ List.mem_filter.mpr ⟨hr, g⟩)
  refine ⟨fun x => ?_, fun r hr hi m hm => ?_, fun r hr hj => ?_, pendings, crest, halted⟩
  · rw [committed, k.totals, groupsOn_of_core hs ht core active]
  · obtain ⟨f, hf, hj, hl⟩ := k.leaders r (back r hr (grouped_of_inTree hi)) hi m hm
    exact ⟨f, record_grouped ht core hf (grouped_of_joined hj), hj, hl⟩
  · obtain ⟨c, l, hc, hl, hi, hm⟩ := k.followers r (back r hr (grouped_of_joined hj)) hj
    exact ⟨c, l, hc, record_grouped ht core hl (grouped_of_inTree hi), hi, hm⟩

/-- The cuts in the tree are those of the groups. -/
theorem isInTree_of_core (hs : (s.records.map Record.number).Nodup) (ht : (t.records.map Record.number).Nodup)
    (core : t.records.filter Record.grouped = s.records.filter Record.grouped) (m : Nat) : t.isInTree m = s.isInTree m := by
  rw [Bool.eq_iff_iff, isInTree_iff, isInTree_iff]
  constructor <;> rintro ⟨r, hr, hi⟩
  · exact ⟨r, record_grouped hs core.symm hr (grouped_of_inTree hi), hi⟩
  · exact ⟨r, record_grouped ht core hr (grouped_of_inTree hi), hi⟩

theorem countInTree_of_core (core : t.records.filter Record.grouped = s.records.filter Record.grouped) :
    (t.records.filter (fun r => r.state.inTree)).length = (s.records.filter (fun r => r.state.inTree)).length := by
  have within : ∀ u : State, u.records.filter (fun r => r.state.inTree) = (u.records.filter Record.grouped).filter (fun r => r.state.inTree) :=
    fun u => by
      rw [List.filter_filter]
      refine List.filter_congr fun r _ => ?_
      cases h : r.state.inTree <;> simp [Record.grouped, h]
  rw [within t, within s, core]

end

/-! ### A record comes (R38, R51) -/

section
variable {a : Prop} {s : State} {r : Record}

theorem not_grouped_of_pending (h : r.state = .pending) : r.grouped = false := by simp [Record.grouped, h, CutState.inTree]

theorem number_not_mem (free : s.record r.number = none) : r.number ∉ s.records.map Record.number := by
  intro h
  obtain ⟨q, hq, e⟩ := List.mem_map.mp h
  have := List.find?_eq_none.mp free q hq
  simp [e] at this

/-- A PENDING record in a free slot, its number in the humping queue: the agreement is kept. -/
theorem addRecord_sound (pending : r.state = .pending) (bounded : r.Bounded) (alone : r.joined = none ∧ r.assigned = none)
    (free : s.record r.number = none) (slot : s.freeSlots ≠ 0) {q : List Nat} (hq : q.Perm (r.number :: s.queue)) {u : Nat}
    (hu : Config.firstUnlisted ≤ u ∧ u ≤ 65535) (k : Sound a s) :
    Sound a (addRecord r { s with queue := q, unlistedCounter := u }) := by
  have hs := k.1.ledger.numbers
  have records : (addRecord r { s with queue := q, unlistedCounter := u }).records = s.records ++ [{ r with unseen := true }] := rfl
  have fresh := number_not_mem free
  have core : (addRecord r { s with queue := q, unlistedCounter := u }).records.filter Record.grouped = s.records.filter Record.grouped := by
    have out : Record.grouped { r with unseen := true } = false := not_grouped_of_pending (r := { r with unseen := true }) pending
    rw [records, List.filter_append, List.filter_singleton, out]
    exact List.append_nil _
  have ht : ((addRecord r { s with queue := q, unlistedCounter := u }).records.map Record.number).Nodup := by
    rw [records, List.map_append, List.nodup_append]
    refine ⟨hs, List.nodup_singleton _, fun x hx y hy => ?_⟩
    rw [List.mem_singleton.mp hy]
    exact fun e => fresh (e ▸ hx)
  have found : ∀ m v, s.record m = some v → (addRecord r { s with queue := q, unlistedCounter := u }).record m = some v := fun m v hv => by
    rw [record_addRecord]
    show (s.record m).or _ = _
    rw [hv]
    rfl
  have new : (addRecord r { s with queue := q, unlistedCounter := u }).record r.number = some { r with unseen := true } := by
    rw [record_addRecord]
    show (s.record r.number).or _ = _
    rw [free, if_pos rfl]
    rfl
  have ledger : Ledger (addRecord r { s with queue := q, unlistedCounter := u }) := by
    refine ⟨?_, ht, fun w hw => ?_, ?_, fun m hm => ?_, fun w hw hp => ?_, hu, ?_, k.1.ledger.room⟩
    · rw [records, List.length_append]
      unfold State.freeSlots at slot
      show s.records.length + 1 ≤ _
      omega
    · rcases List.mem_append.mp hw with hw | hw
      · exact k.1.ledger.bounded w hw
      · rw [List.mem_singleton.mp hw]
        exact (r.calm_unseen true).bounded bounded
    · refine hq.nodup_iff.mpr (List.nodup_cons.mpr ⟨fun hm => fresh ?_, k.1.ledger.queueOnce⟩)
      obtain ⟨v, hv, -⟩ := (isIn_iff s).mp (k.1.ledger.queued _ hm)
      exact List.mem_map.mpr ⟨v, record_mem s hv, record_number s hv⟩
    · rcases List.mem_cons.mp (hq.mem_iff.mp hm) with rfl | hm
      · exact (isIn_iff _).mpr ⟨_, new, pending⟩
      · obtain ⟨v, hv, hp⟩ := (isIn_iff s).mp (k.1.ledger.queued _ hm)
        exact (isIn_iff _).mpr ⟨v, found m v hv, hp⟩
    · refine hq.mem_iff.mpr ?_
      rcases List.mem_append.mp hw with hw | hw
      · exact List.mem_cons_of_mem _ (k.1.ledger.pendings w hw hp)
      · rw [List.mem_singleton.mp hw]
        exact List.mem_cons_self
    · rw [countInTree_of_core core]
      exact k.1.ledger.count
  have tables : SameTables s (addRecord r { s with queue := q, unlistedCounter := u }) := ⟨rfl, rfl, rfl, rfl, rfl, rfl, rfl, rfl, rfl, rfl⟩
  refine ⟨tables.followed k.1 ledger fun m hm => (isInTree_of_core hs ht core m).trans hm, fun ha => ?_⟩
  refine accounted_of_core (k.2 ha) hs ht core rfl (fun x => by rw [tables.track]) (fun w hw hp => ?_) (fun c hc => ?_) (k.2 ha).halted
  · rcases List.mem_append.mp hw with hw | hw
    · exact (k.2 ha).pendings w hw hp
    · rw [List.mem_singleton.mp hw]
      exact alone
  · obtain ⟨v, hv, hs⟩ := (k.2 ha).crest c hc
    exact ⟨v, found c v hv, hs⟩

end

/-! ### A record goes (R43, R46) -/

section
variable {a : Prop} {s : State} {n : Nat}

/-- The slot of a record becomes FREE, its number leaves the queue, and the crest and the target are given. -/
def takenOut (n : Nat) (c d : Option Nat) (s : State) : State :=
  { freeRecord n s with queue := s.queue.filter (fun m => m != n), crestCut := c, target := d }

/-- A record in no group leaves the table: the agreement is kept, where the crest cut is not that record. -/
theorem takenOut_sound {r : Record} (hr : s.record n = some r) (out : r.grouped = false) {c d : Option Nat}
    (crest : a → ∀ m, c = some m → m ≠ n ∧ s.crestCut = some m) (k : Sound a s) : Sound a (takenOut n c d s) := by
  have hs := k.1.ledger.numbers
  have records : (takenOut n c d s).records = s.records.filter (fun r => r.number != n) := rfl
  have ht : ((takenOut n c d s).records.map Record.number).Nodup := hs.sublist (List.filter_sublist.map _)
  have core : (takenOut n c d s).records.filter Record.grouped = s.records.filter Record.grouped := by
    rw [records, List.filter_filter]
    refine List.filter_congr fun q hq => ?_
    by_cases e : q.number = n
    · rw [eq_of_mem hs hr hq e, out]; rfl
    · simp [e]
  have found : ∀ m, m ≠ n → (takenOut n c d s).record m = s.record m := fun m hm => by
    show (freeRecord n s).record m = _
    rw [record_freeRecord, if_neg hm]
  have ledger : Ledger (takenOut n c d s) := by
    refine ⟨(List.length_filter_le _ _).trans k.1.ledger.slots, ht, fun w hw => k.1.ledger.bounded w (List.mem_of_mem_filter hw),
      k.1.ledger.queueOnce.filter _, fun m hm => ?_, fun w hw hp => ?_, k.1.ledger.unlisted, ?_, k.1.ledger.room⟩
    · obtain ⟨hm, hne⟩ := List.mem_filter.mp hm
      obtain ⟨v, hv, hp⟩ := (isIn_iff s).mp (k.1.ledger.queued m hm)
      exact (isIn_iff _).mpr ⟨v, (found m (bne_iff_ne.mp hne)).trans hv, hp⟩
    · obtain ⟨hw, hne⟩ := List.mem_filter.mp hw
      exact List.mem_filter.mpr ⟨k.1.ledger.pendings w hw hp, hne⟩
    · rw [countInTree_of_core core]
      exact k.1.ledger.count
  have tables : SameTables s (takenOut n c d s) := ⟨rfl, rfl, rfl, rfl, rfl, rfl, rfl, rfl, rfl, rfl⟩
  refine ⟨tables.followed k.1 ledger fun m hm => (isInTree_of_core hs ht core m).trans hm, fun ha => ?_⟩
  refine accounted_of_core (k.2 ha) hs ht core rfl (fun x => by rw [tables.track])
    (fun w hw => (k.2 ha).pendings w (List.mem_of_mem_filter hw)) (fun m hm => ?_) (k.2 ha).halted
  obtain ⟨hne, hm⟩ := crest ha m hm
  rw [found m hne]
  exact (k.2 ha).crest m hm

end

/-! ### A cut leaves the humping queue (R52, R53, R55) -/

/-- A change that takes a record to a state, and keeps its number and its bounds. -/
structure Record.Becomes (c : CutState) (f : Record → Record) : Prop where
  number : ∀ r, (f r).number = r.number
  state : ∀ r, (f r).state = c
  axles : ∀ r, (f r).measuredAxles ≤ 255
  diversions : ∀ r, (f r).diversions = r.diversions
  followers : ∀ r, (f r).followers.length ≤ r.followers.length

/-- The head of the humping queue leaves it, its record changed, with a release sequence number taken; the in-tree count rises by `k`. -/
def offQueue (f : Record → Record) (n : Nat) (rest : List Nat) (k : Nat) (s : State) : State :=
  { changeRecord n f s with queue := rest, inTree := s.inTree + k, seqCounter := s.seqCounter + 1 }

section
variable {c : CutState} {f : Record → Record} {s : State} {n : Nat} {rest : List Nat}

theorem offQueue_tables (k : Nat) : SameTables s (offQueue f n rest k s) :=
  ⟨changeRecord_tracks .., changeRecord_channels .., changeRecord_sections .., changeRecord_claims .., changeRecord_detections ..,
    changeRecord_points .., changeRecord_slots .., changeRecord_working .., changeRecord_active .., changeRecord_commit ..⟩

theorem offQueue_records (k : Nat) : (offQueue f n rest k s).records = s.records.map (fun r => if r.number = n then Record.changed f r else r) :=
  changeRecord_records ..

theorem offQueue_record (hf : Record.Becomes c f) (k m : Nat) :
    (offQueue f n rest k s).record m = if m = n then (s.record m).map (Record.changed f) else s.record m :=
  record_changeRecord s n f hf.number m

theorem offQueue_numbers (hf : Record.Becomes c f) (k : Nat) : (offQueue f n rest k s).records.map Record.number = s.records.map Record.number :=
  numbers_changeRecord s n f hf.number

theorem Record.Becomes.changed (hf : Record.Becomes c f) (r : Record) :
    (Record.changed f r).number = r.number ∧ (Record.changed f r).state = c ∧ (r.Bounded → (Record.changed f r).Bounded) := by
  rw [Record.changed_eq]
  refine ⟨hf.number r, hf.state r, fun k => ⟨?_, hf.axles r, ?_, (hf.followers r).trans k.followers⟩⟩
  · exact (hf.number r).symm ▸ k.number
  · exact (hf.diversions r).symm ▸ k.diversions

/-- The record at the head of the queue is PENDING. -/
theorem queueHead (k : Ledger s) (hq : s.queue = n :: rest) : ∃ r, s.record n = some r ∧ r.state = .pending :=
  (isIn_iff s).mp (k.queued n (hq ▸ List.mem_cons_self))

theorem offQueue_ledger (hf : Record.Becomes c f) (hc : c ≠ .pending) (k : Ledger s) (hq : s.queue = n :: rest)
    (room : s.inTree + (if c.inTree then 1 else 0) ≤ Config.maxInTree) : Ledger (offQueue f n rest (if c.inTree then 1 else 0) s) := by
  obtain ⟨r, hr, hp⟩ := queueHead k hq
  have once := hq ▸ k.queueOnce
  rw [List.nodup_cons] at once
  have mem : ∀ w ∈ (offQueue f n rest (if c.inTree then 1 else 0) s).records,
      w.number = n ∧ w.state = c ∧ w.Bounded ∨ w.number ≠ n ∧ w ∈ s.records := by
    intro w hw
    rw [offQueue_records] at hw
    obtain ⟨q, hq, rfl⟩ := List.mem_map.mp hw
    obtain ⟨number, state, bounded⟩ := hf.changed q
    split
    · rename_i e
      exact .inl ⟨number.trans e, state, bounded (k.bounded q hq)⟩
    · exact .inr ⟨‹_›, hq⟩
  refine ⟨?_, (offQueue_numbers hf _).symm ▸ k.numbers, fun w hw => ?_, once.2, fun m hm => ?_, fun w hw hs => ?_, ?_, ?_, room⟩
  · rw [offQueue_records, List.length_map]; exact k.slots
  · rcases mem w hw with ⟨-, -, bounded⟩ | ⟨-, hw⟩
    · exact bounded
    · exact k.bounded w hw
  · have hmn : m ≠ n := fun e => once.1 (e ▸ hm)
    obtain ⟨v, hv, hs⟩ := (isIn_iff s).mp (k.queued m (hq ▸ List.mem_cons_of_mem n hm))
    exact (isIn_iff _).mpr ⟨v, by rw [offQueue_record hf, if_neg hmn, hv], hs⟩
  · rcases mem w hw with ⟨-, state, -⟩ | ⟨hne, hw⟩
    · exact absurd (state.symm.trans hs) hc
    · exact (List.mem_cons.mp (hq ▸ k.pendings w hw hs)).resolve_left hne
  · show Config.firstUnlisted ≤ (changeRecord n f s).unlistedCounter ∧ (changeRecord n f s).unlistedCounter ≤ 65535
    rw [changeRecord_unlistedCounter]
    exact k.unlisted
  · have pairs : s.Pairs (fun q w => q ∈ s.records ∧ w = if q.number = n then Record.changed f q else q)
        (offQueue f n rest (if c.inTree then 1 else 0) s) := State.pairs_map (offQueue_records _) fun q hq => ⟨hq, rfl⟩
    have number : ∀ q w, (q ∈ s.records ∧ w = if q.number = n then Record.changed f q else q) → w.number = q.number := by
      rintro q w ⟨-, rfl⟩
      split
      · exact (hf.changed q).1
      · rfl
    have sums := sum_of_pairs_but_one (n := n) (f := fun r => if r.state.inTree then 1 else 0) (g := fun r => if r.state.inTree then 1 else 0)
      pairs number k.numbers (by rintro q w ⟨-, rfl⟩ hqn; simp only [if_neg hqn]) (record_mem s hr) (record_number s hr)
      (w := Record.changed f r) (offQueue_records _ ▸ List.mem_map.mpr ⟨r, record_mem s hr, if_pos (record_number s hr)⟩)
      ((hf.changed r).1.trans (record_number s hr))
    rw [← length_filter_eq_sum, ← length_filter_eq_sum, (hf.changed r).2.1, hp] at sums
    show s.inTree + _ = _
    rw [k.count]
    simpa [CutState.inTree] using sums.symm

theorem offQueue_followed (hf : Record.Becomes c f) (hc : c ≠ .pending) (k : Followed s) (hq : s.queue = n :: rest)
    (room : s.inTree + (if c.inTree then 1 else 0) ≤ Config.maxInTree) : Followed (offQueue f n rest (if c.inTree then 1 else 0) s) := by
  refine (offQueue_tables _).followed k (offQueue_ledger hf hc k.ledger hq room) fun m hm => ?_
  obtain ⟨r, hr, hp⟩ := queueHead k.ledger hq
  have hmn : m ≠ n := by
    rintro rfl
    obtain ⟨q, hq, ht⟩ := (isInTree_iff s).mp hm
    rw [Option.some.inj (hq.symm.trans hr), hp] at ht
    cases ht
  unfold State.isInTree at hm ⊢
  rwa [offQueue_record hf, if_neg hmn]

/-- The records in a group are the same when the head of the queue goes straight out of the tree. -/
theorem offQueue_core (hf : Record.Becomes c f) (hc : c = .settled ∨ c = .lost) (k : Ledger s) (hq : s.queue = n :: rest) (i : Nat) :
    (offQueue f n rest i s).records.filter Record.grouped = s.records.filter Record.grouped := by
  obtain ⟨r, hr, hp⟩ := queueHead k hq
  refine core_of_map (offQueue_records i) fun q hm => ?_
  by_cases e : q.number = n
  · rw [if_pos e, eq_of_mem k.numbers hr hm e]
    refine .inr ⟨not_grouped_of_pending hp, ?_⟩
    rcases hc with rfl | rfl <;> simp [Record.grouped, (hf.changed r).2.1, CutState.inTree]
  · exact .inl (if_neg e)

end

end Sys2Proof.Machine
end

section
/-! The first axle of a group keeps the agreement (R22, R50 to R53, R73). -/

namespace Sys2Proof.Machine

/-! ### The crest (R48) -/

section
variable {a : Prop} {s : State}

/-- What the Crest Counter holds is changed, and a crest cut, if there is one, is a record neither PENDING nor JOINED. -/
theorem crest_sound (k : Sound a s) (c : CrestState) (cut target : Option Nat) (sep : Option Instant) (due : Option Nat)
    (crest : a → ∀ m, cut = some m → ∃ r, s.record m = some r ∧ r.state ≠ .pending ∧ r.state ≠ .joined) :
    Sound a { s with crest := c, crestCut := cut, target := target, separation := sep, remnantDue := due } := by
  have l := k.1.ledger
  refine ⟨SameTables.followed (s := s) ⟨rfl, rfl, rfl, rfl, rfl, rfl, rfl, rfl, rfl, rfl⟩ k.1
    ⟨l.slots, l.numbers, l.bounded, l.queueOnce, l.queued, l.pendings, l.unlisted, l.count, l.room⟩ fun _ h => h, fun ha => ?_⟩
  have b := k.2 ha
  exact ⟨b.totals, b.leaders, b.followers, b.pendings, crest ha, b.halted⟩

theorem startGroup_sound (k : Sound a s) (cut : Option Nat)
    (crest : a → ∀ m, cut = some m → ∃ r, s.record m = some r ∧ r.state ≠ .pending ∧ r.state ≠ .joined) : Sound a (startGroup cut s) :=
  crest_sound k .counting cut cut s.separation s.remnantDue crest

/-- A remnant that was due is so no more, or one is now. -/
theorem remnantDue_calm (s : State) (due : Option Nat) : CalmMove s { s with remnantDue := due } :=
  calm_of_fields rfl rfl rfl rfl rfl rfl rfl rfl rfl rfl rfl rfl rfl rfl rfl rfl

theorem separation_calm (s : State) (sep : Option Instant) : CalmMove s { s with separation := sep } :=
  calm_of_fields rfl rfl rfl rfl rfl rfl rfl rfl rfl rfl rfl rfl rfl rfl rfl rfl

theorem target_calm (s : State) (n : Option Nat) : CalmMove s { s with target := n } :=
  calm_of_fields rfl rfl rfl rfl rfl rfl rfl rfl rfl rfl rfl rfl rfl rfl rfl rfl

end

/-! ### Release (R52, R53) -/

theorem released_becomes (s : State) : Record.Becomes .releasing (Record.released s) :=
  ⟨fun _ => rfl, fun _ => rfl, fun _ => Nat.le_of_ble_eq_true rfl, fun _ => rfl, fun r => Nat.le_refl r.followers.length⟩

theorem overloaded_becomes (s : State) : Record.Becomes .lost (Record.overloaded s) :=
  ⟨fun _ => rfl, fun _ => rfl, fun _ => Nat.le_of_ble_eq_true rfl, fun _ => rfl, fun r => Nat.le_refl r.followers.length⟩

section
variable {a : Prop} {s : State} {n : Nat} {rest : List Nat}

/-- The accounts when the head of the queue is released: it leads no group yet, and has no track. -/
theorem offQueue_released_accounted (u : State) (k : Accounted s) (l : Ledger s) (hq : s.queue = n :: rest) (hr : s.runState ≠ .halted) :
    Accounted (offQueue (Record.released u) n rest 1 s) := by
  obtain ⟨r, hn, hp⟩ := queueHead l hq
  obtain ⟨alone, waiting⟩ := k.pendings r (record_mem s hn) hp
  have hf := released_becomes u
  have same : ∀ q ∈ s.records, (if q.number = n then Record.changed (Record.released u) q else q) = q
      ∨ q = r ∧ (if q.number = n then Record.changed (Record.released u) q else q) = Record.changed (Record.released u) r := fun q hm => by
    by_cases e : q.number = n
    · rw [if_pos e, eq_of_mem l.numbers hn hm e]; exact .inr ⟨rfl, rfl⟩
    · exact .inl (if_neg e)
  have fields : (Record.changed (Record.released u) r).joined = none ∧ (Record.changed (Record.released u) r).assigned = none
      ∧ (Record.changed (Record.released u) r).declaredLength = r.declaredLength := by
    rw [Record.changed_eq]; exact ⟨alone, waiting, rfl⟩
  have state : (Record.changed (Record.released u) r).state = .releasing := (hf.changed r).2.1
  have pairs : s.Pairs Record.SameGroup (offQueue (Record.released u) n rest 1 s) := State.pairs_map (offQueue_records 1) fun q hm => by
    rcases same q hm with e | ⟨rfl, e⟩
    · rw [e]; exact (Record.Calm.refl q).sameGroup
    · rw [e]
      exact ⟨(hf.changed q).1, by rw [state, hp]; exact ⟨nofun, nofun⟩,
        by unfold Record.followers; rw [fields.1, alone], fields.2.2⟩
  have active : (offQueue (Record.released u) n rest 1 s).active = s.active := changeRecord_active ..
  have other : ∀ m v, s.record m = some v → v.state ≠ .pending → (offQueue (Record.released u) n rest 1 s).record m = some v :=
    fun m v hv hs => by
      rw [offQueue_record hf, if_neg, hv]
      rintro rfl
      exact hs (Option.some.inj (hv.symm.trans hn) ▸ hp)
  refine ⟨fun x => ?_, fun w hw hi m hm => ?_, fun w hw hj => ?_, fun w hw hs => ?_, fun c hc => ?_, fun hh => ?_⟩
  · rw [(offQueue_tables 1).track, k.totals, groupsOn_eq_sum, groupsOn_eq_sum, offQueue_records, List.map_map]
    congr 1
    refine (List.map_congr_left fun q hm => ?_).symm
    show State.share _ x (if q.number = n then Record.changed (Record.released u) q else q) = _
    rcases same q hm with e | ⟨rfl, e⟩
    · rw [e]; unfold State.share; rw [pairs.groupLength active]
    · rw [e, share_of_out (r := q) (by rw [hp]; rfl)]
      simp [State.share, fields.2.1]
  · rw [offQueue_records] at hw
    obtain ⟨q, hq', rfl⟩ := List.mem_map.mp hw
    rcases same q hq' with e | ⟨rfl, e⟩
    · rw [e] at hi hm ⊢
      obtain ⟨f, hf', hj, hl⟩ := k.leaders q hq' hi m hm
      exact ⟨f, other m f hf' (by rw [hj]; nofun), hj, hl⟩
    · rw [e, Record.followers, fields.1] at hm
      cases hm
  · rw [offQueue_records] at hw
    obtain ⟨q, hq', rfl⟩ := List.mem_map.mp hw
    rcases same q hq' with e | ⟨rfl, e⟩
    · rw [e] at hj ⊢
      obtain ⟨c, v, hc, hv, hi, hm⟩ := k.followers q hq' hj
      exact ⟨c, v, hc, other c v hv (by rintro hs; rw [hs] at hi; cases hi), hi, hm⟩
    · rw [e, state] at hj
      cases hj
  · rw [offQueue_records] at hw
    obtain ⟨q, hq', rfl⟩ := List.mem_map.mp hw
    rcases same q hq' with e | ⟨rfl, e⟩
    · rw [e] at hs ⊢
      exact k.pendings q hq' hs
    · rw [e, state] at hs
      cases hs
  · have hc : s.crestCut = some c := (changeRecord_crestCut ..).symm.trans hc
    obtain ⟨v, hv, hs, hj⟩ := k.crest c hc
    exact ⟨v, other c v hv hs, hs, hj⟩
  · exact absurd ((changeRecord_runState ..).symm.trans hh) hr

theorem assignAtRelease_keeps (r : Record) (h : s.isInTree n = true) (none : a → s.assignedTrack n = none) :
    Keeps a s (assignAtRelease n r s) := by
  unfold assignAtRelease
  split
  · split
    · exact releaseAssignment_keeps s h none _
    · exact (latch_calm s _).keeps
  all_goals exact assignTrack_keeps s h none _ _

/-- A cut that leaves the queue, where the queue is given without it. -/
theorem offQueue_front (f : Record → Record) (i : Nat) :
    offQueue f n s.queue i { s with queue := n :: s.queue }
      = { changeRecord n f s with inTree := (changeRecord n f s).inTree + i, seqCounter := (changeRecord n f s).seqCounter + 1 } := by
  unfold offQueue changeRecord
  dsimp only
  cases s.records.any fun r => r.number == n && decide ((f r).shown ≠ r.shown) <;> rfl

/-- The cut chosen is released, or LOST for want of room in the tree: the agreement is kept, and the cut may be the crest cut. That it headed the
queue is said of the state with it there. -/
theorem releaseCut_sound (old : State) (hr : s.runState ≠ .halted) (k : Sound a { s with queue := n :: s.queue }) :
    Sound a (releaseCut old n s) ∧ ∃ w, (releaseCut old n s).record n = some w ∧ w.state ≠ .pending ∧ w.state ≠ .joined := by
  obtain ⟨r, hn, hp⟩ := queueHead (s := { s with queue := n :: s.queue }) k.1.ledger rfl
  have found : s.record n = some r := hn
  unfold releaseCut
  rw [found]
  dsimp only
  split
  · rename_i room
    have front : joinTree (nextSequence (changeRecord n (Record.released s) s))
        = offQueue (Record.released s) n s.queue 1 { s with queue := n :: s.queue } := (offQueue_front _ 1).symm
    rw [front]
    have sound : Sound a (offQueue (Record.released s) n s.queue 1 { s with queue := n :: s.queue }) :=
      ⟨offQueue_followed (released_becomes s) nofun k.1 rfl room, fun ha => offQueue_released_accounted s (k.2 ha) k.1.ledger rfl hr⟩
    have here : (offQueue (Record.released s) n s.queue 1 { s with queue := n :: s.queue }).record n
        = some (Record.changed (Record.released s) r) := by
      rw [offQueue_record (released_becomes s), if_pos rfl, hn]; rfl
    have state := ((released_becomes s).changed r).2.1
    generalize offQueue (Record.released s) n s.queue 1 { s with queue := n :: s.queue } = u at sound here
    have tree : u.isInTree n = true := (isInTree_iff u).mpr ⟨_, here, by rw [state]; rfl⟩
    have waiting : a → u.assignedTrack n = none := fun ha => by
      have := ((k.2 ha).pendings r (record_mem _ hn) hp).2
      unfold State.assignedTrack
      rw [here, Record.changed_eq]
      simp [Record.released, Record.sequenced, this]
    have first := assignAtRelease_keeps (a := a) r tree waiting
    have all := (first.trans (redoClaims_calm _ ((first.tree n).trans tree)).keeps).trans (followCut_calm _ old n).keeps
    refine ⟨all.sound sound, ?_⟩
    obtain ⟨w, hw, hi⟩ := (isInTree_iff _).mp ((all.tree n).trans tree)
    exact ⟨w, hw, fun e => (by rw [e] at hi; cases hi), fun e => (by rw [e] at hi; cases hi)⟩
  · have front : nextSequence (changeRecord n (Record.overloaded s) s)
        = offQueue (Record.overloaded s) n s.queue 0 { s with queue := n :: s.queue } := (offQueue_front _ 0).symm
    rw [front]
    have hf := overloaded_becomes s
    have core := offQueue_core hf (.inr rfl) k.1.ledger rfl 0
    have followed := offQueue_followed hf nofun k.1 rfl k.1.ledger.room
    have here : (offQueue (Record.overloaded s) n s.queue 0 { s with queue := n :: s.queue }).record n
        = some (Record.changed (Record.overloaded s) r) := by
      rw [offQueue_record hf, if_pos rfl, hn]; rfl
    have state := (hf.changed r).2.1
    have sound : Sound a (offQueue (Record.overloaded s) n s.queue 0 { s with queue := n :: s.queue }) := by
      refine ⟨followed, fun ha => accounted_of_core (k.2 ha) k.1.ledger.numbers followed.ledger.numbers core
        (changeRecord_active ..) (fun x => by rw [(offQueue_tables 0).track]) (fun w hw hs => ?_) (fun c hc => ?_) (fun hh => ?_)⟩
      · rw [offQueue_records] at hw
        obtain ⟨q, hq, rfl⟩ := List.mem_map.mp hw
        split at hs
        · rw [(hf.changed q).2.1] at hs
          cases hs
        · rename_i e
          rw [if_neg e]
          exact (k.2 ha).pendings q hq hs
      · obtain ⟨v, hv, hs, hj⟩ := (k.2 ha).crest c ((changeRecord_crestCut ..).symm.trans hc)
        refine ⟨v, ?_, hs, hj⟩
        rw [offQueue_record hf, if_neg, hv]
        rintro rfl
        exact hs (Option.some.inj (hv.symm.trans hn) ▸ hp)
      · exact absurd ((changeRecord_runState ..).symm.trans hh) hr
    refine ⟨(latch_calm _ _).keeps.sound sound, _, here, ?_, ?_⟩ <;> rw [state] <;> nofun

end

/-! ### Unlisted records (R22, R51) -/

/-- The number reached from a counter value after some steps: after 65535 comes 61440 (R22). -/
def unlistedFrom (c k : Nat) : Nat := Config.firstUnlisted + (c - Config.firstUnlisted + k) % 4096

section
variable (s : State)

theorem unlistedFrom_range (c k : Nat) : Config.firstUnlisted ≤ unlistedFrom c k ∧ unlistedFrom c k ≤ 65535 := by
  unfold unlistedFrom
  have : Config.firstUnlisted = 61440 := rfl
  omega

theorem unlistedFrom_zero {c : Nat} (hc : Config.firstUnlisted ≤ c ∧ c ≤ 65535) : unlistedFrom c 0 = c := by
  unfold unlistedFrom
  have : Config.firstUnlisted = 61440 := rfl
  omega

theorem unlistedFrom_succ {c : Nat} (hc : Config.firstUnlisted ≤ c ∧ c ≤ 65535) (k : Nat) :
    unlistedFrom (if c = 65535 then Config.firstUnlisted else c + 1) k = unlistedFrom c (k + 1) := by
  unfold unlistedFrom
  have : Config.firstUnlisted = 61440 := rfl
  split <;> omega

/-- The number found is the first one free, where one is free within the steps allowed. -/
theorem freeNumber_eq {fuel k : Nat} {c : Nat} (hc : Config.firstUnlisted ≤ c ∧ c ≤ 65535)
    (carried : ∀ j, j < k → (s.record (unlistedFrom c j)).isSome = true) (free : s.record (unlistedFrom c k) = none) (hk : k < fuel) :
    freeNumber s fuel c = unlistedFrom c k := by
  induction fuel generalizing c k with
  | zero => omega
  | succ fuel ih =>
    unfold freeNumber
    cases k with
    | zero =>
      rw [unlistedFrom_zero hc] at free ⊢
      rw [free]
      rfl
    | succ k =>
      have next : Config.firstUnlisted ≤ (if c = 65535 then Config.firstUnlisted else c + 1)
          ∧ (if c = 65535 then Config.firstUnlisted else c + 1) ≤ 65535 := by
        have : Config.firstUnlisted = 61440 := rfl
        split <;> omega
      rw [if_pos (by rw [← unlistedFrom_zero hc]; exact carried 0 (Nat.succ_pos k)), ← unlistedFrom_succ hc k]
      rw [← unlistedFrom_succ hc] at free
      refine ih next (fun j hj => ?_) free (Nat.lt_of_succ_lt_succ hk)
      rw [unlistedFrom_succ hc]
      exact carried (j + 1) (Nat.succ_lt_succ hj)

/-- Of the first numbers from a counter value on, one more than the records, some is free. -/
theorem exists_free (room : s.records.length ≤ Config.cutSlots) (c : Nat) :
    ∃ k, k ≤ s.records.length ∧ s.record (unlistedFrom c k) = none := by
  by_contra none
  have carried : ∀ k, k ≤ s.records.length → unlistedFrom c k ∈ s.records.map Record.number := fun k hk => by
    cases h : s.record (unlistedFrom c k) with
    | none => exact absurd ⟨k, hk, h⟩ none
    | some r => exact List.mem_map.mpr ⟨r, record_mem s h, record_number s h⟩
  have once : ((List.range (s.records.length + 1)).map (unlistedFrom c)).Nodup := by
    refine List.Nodup.map_on (fun i hi j hj e => ?_) List.nodup_range
    have hi := List.mem_range.mp hi
    have hj := List.mem_range.mp hj
    have hs : Config.cutSlots = 48 := rfl
    unfold unlistedFrom at e
    omega
  have fits := (once.subperm fun x hx => by
    obtain ⟨k, hk, rfl⟩ := List.mem_map.mp hx
    exact carried k (Nat.le_of_lt_succ (List.mem_range.mp hk))).length_le
  simp only [List.length_map, List.length_range] at fits
  omega

/-- The number of a new unlisted record: the first one free from the counter on (R22). -/
theorem nextUnlisted_first (room : s.records.length ≤ Config.cutSlots)
    (hc : Config.firstUnlisted ≤ s.unlistedCounter ∧ s.unlistedCounter ≤ 65535) :
    ∃ k, s.nextUnlisted = unlistedFrom s.unlistedCounter k ∧ s.record s.nextUnlisted = none := by
  have some := exists_free s room s.unlistedCounter
  let k := Nat.find some
  obtain ⟨hk, free⟩ := Nat.find_spec some
  have first : ∀ j, j < Nat.find some → (s.record (unlistedFrom s.unlistedCounter j)).isSome = true := fun j hj => by
    have := Nat.find_min some hj
    rw [← Option.not_isNone]
    simp only [not_and, Option.isNone_iff_eq_none, Bool.not_eq_true', ← Bool.not_eq_true] at this ⊢
    exact this (by omega)
  have e : s.nextUnlisted = unlistedFrom s.unlistedCounter (Nat.find some) :=
    freeNumber_eq s hc first free (Nat.lt_succ_of_le hk)
  exact ⟨_, e, e ▸ free⟩

end

section
variable {a : Prop} {s : State}

/-- An unlisted record created and released, or the group counted untracked (R51). -/
theorem releaseUnlisted_sound (old : State) (o : Origin) (hr : s.runState ≠ .halted) (k : Sound a s) : Sound a (releaseUnlisted old o s) := by
  unfold releaseUnlisted
  split
  · exact startGroup_sound ((latch_calm s _).keeps.sound k) none fun _ _ => nofun
  · rename_i slot
    obtain ⟨i, number, free⟩ := nextUnlisted_first s k.1.ledger.slots k.1.ledger.unlisted
    obtain ⟨low, high⟩ := unlistedFrom_range s.unlistedCounter i
    rw [← number] at low high
    have first : Config.firstUnlisted = 61440 := rfl
    have after : Config.firstUnlisted ≤ afterUnlisted s.nextUnlisted ∧ afterUnlisted s.nextUnlisted ≤ 65535 := by
      unfold afterUnlisted
      split <;> omega
    have bounded : (unlistedRecord s.nextUnlisted o s).Bounded :=
      ⟨⟨Nat.le_trans (by omega) low, high⟩, Nat.zero_le _, Nat.zero_le _, Nat.zero_le _⟩
    have added := addRecord_sound (r := unlistedRecord s.nextUnlisted o s) rfl bounded ⟨rfl, rfl⟩ free slot (List.Perm.refl _) after k
    obtain ⟨sound, w, hw, hs, hj⟩ := releaseCut_sound old (n := s.nextUnlisted)
      (s := addRecord (unlistedRecord s.nextUnlisted o s) { s with unlistedCounter := afterUnlisted s.nextUnlisted }) hr added
    exact startGroup_sound sound _ fun _ m hm => by
      obtain rfl := Option.some.inj hm
      exact ⟨w, hw, hs, hj⟩

/-- The first axle of a group keeps the agreement (R50). -/
theorem firstAxle_sound (hr : s.runState ≠ .halted) (k : Sound a s) : Sound a (firstAxle s) := by
  have latched := (latchIf_calm s (s.runState == .standby) .run).keeps.sound k
  have hr' : (latchIf (s.runState == .standby) .run s).runState ≠ .halted := by rwa [latchIf_runState]
  unfold firstAxle
  generalize latchIf (s.runState == .standby) .run s = u at latched hr'
  dsimp only
  split
  · exact releaseUnlisted_sound s _ hr' ((remnantDue_calm u none).keeps.sound latched)
  · split
    · exact releaseUnlisted_sound s _ hr' latched
    · split
      · exact releaseUnlisted_sound s _ hr' latched
      · rename_i n rest hq
        have whole : Sound a { ({ u with queue := rest } : State) with queue := n :: ({ u with queue := rest } : State).queue } := by
          show Sound a { u with queue := n :: rest }
          rw [← hq]
          exact latched
        obtain ⟨sound, w, hw, hs, hj⟩ := releaseCut_sound (s := { u with queue := rest }) s hr' whole
        exact startGroup_sound sound _ fun _ m hm => by
          obtain rfl := Option.some.inj hm
          exact ⟨w, hw, hs, hj⟩

end

end Sys2Proof.Machine
end

section
/-! Counting, joins and separation keep the agreement (R49, R54 to R60). -/

namespace Sys2Proof.Machine

/-! ### The join as it is recorded (R55) -/

/-- The head of the queue has been joined to the crest cut: it is JOINED and the counting target, and the crest cut's list has gained it. -/
def joinNoted (c n : Nat) (rest : List Nat) (s : State) : State :=
  latch .crest (changeRecord c (Record.withFollower n) (offQueue (Record.joinedTo s c) n rest 0 { s with target := some n }))

theorem joinedTo_becomes (s : State) (c : Nat) : Record.Becomes .joined (Record.joinedTo s c) :=
  ⟨fun _ => rfl, fun _ => rfl, fun _ => Nat.le_of_ble_eq_true rfl, fun _ => rfl, fun _ => Nat.zero_le _⟩

section
variable {s : State} {n c : Nat} {rest : List Nat}

theorem joinNoted_eq (hq : s.queue = n :: rest) :
    latch .crest (changeRecord c (Record.withFollower n)
      (nextSequence (changeRecord n (Record.joinedTo s c) { s with queue := s.queue.drop 1, target := some n }))) = joinNoted c n rest s := by
  have front := offQueue_front (n := n) (s := { s with queue := rest, target := some n }) (Record.joinedTo s c) 0
  unfold joinNoted
  have whole : { s with target := some n } = { s with queue := n :: rest, target := some n } := by rw [← hq]
  rw [whole, hq]
  exact congrArg (fun u => latch .crest (changeRecord c (Record.withFollower n) u)) front.symm

theorem withFollower_tame (n : Nat) {r : Record} (room : r.followers.length < Config.maxFollowers) : r.Tame (Record.withFollower n r) :=
  ⟨rfl, rfl, Iff.rfl, fun h => ⟨h.number, h.axles, h.diversions, by
    show (r.followers ++ [n]).length ≤ _
    rw [List.length_append]
    exact room⟩⟩

/-- The record of a cut after the join. -/
theorem joinNoted_record (m : Nat) :
    (joinNoted c n rest s).record m
      = if m = c then ((offQueue (Record.joinedTo s c) n rest 0 { s with target := some n }).record m).map (Record.changed (Record.withFollower n))
        else if m = n then (s.record m).map (Record.changed (Record.joinedTo s c)) else s.record m := by
  show (changeRecord c (Record.withFollower n) _).record m = _
  rw [record_changeRecord _ c (Record.withFollower n) fun _ => rfl]
  split
  · rfl
  · exact offQueue_record (joinedTo_becomes s c) 0 m

theorem joinNoted_tame {rc : Record} (hc : s.record c = some rc) (room : rc.followers.length < Config.maxFollowers)
    (k : (offQueue (Record.joinedTo s c) n rest 0 { s with target := some n }).records.map Record.number |>.Nodup) :
    Moves Record.Tame (offQueue (Record.joinedTo s c) n rest 0 { s with target := some n }) (joinNoted c n rest s) := by
  refine (changeRecord_tame _ c _ fun q hq e => withFollower_tame n ?_).trans (fun h k => h.trans k) (latch_calm _ _).steady.tame
  have found := record_of_mem k hq
  rw [e, offQueue_record (joinedTo_becomes s c)] at found
  split at found
  · obtain ⟨v, -, rfl⟩ := Option.map_eq_some_iff.mp found
    rw [Record.changed_eq]
    exact Nat.zero_lt_succ 2
  · rwa [← Option.some.inj (hc.symm.trans found)]

theorem joinNoted_followed (k : Followed s) (hq : s.queue = n :: rest) {rc : Record} (hc : s.record c = some rc)
    (room : rc.followers.length < Config.maxFollowers) : Followed (joinNoted c n rest s) := by
  have first : Followed (offQueue (Record.joinedTo s c) n rest 0 { s with target := some n }) :=
    offQueue_followed (joinedTo_becomes s c) nofun ((target_calm s _).steady.tame.followed k) hq k.ledger.room
  exact (joinNoted_tame hc room first.ledger.numbers).followed first

/-- The fields a join leaves as they are. -/
theorem joinNoted_frame :
    (joinNoted c n rest s).tracks = s.tracks ∧ (joinNoted c n rest s).active = s.active ∧ (joinNoted c n rest s).crestCut = s.crestCut
      ∧ (joinNoted c n rest s).runState = s.runState ∧ (joinNoted c n rest s).inTree = s.inTree := by
  refine ⟨?_, ?_, ?_, ?_, ?_⟩ <;> unfold joinNoted offQueue <;> simp

/-- What a join makes of a record: the crest cut's gains the follower, the follower's is joined, every other stands. -/
def Record.joinSide (s : State) (c n : Nat) (q : Record) : Record :=
  if q.number = c then Record.changed (Record.withFollower n) (if q.number = n then Record.changed (Record.joinedTo s c) q else q)
  else if q.number = n then Record.changed (Record.joinedTo s c) q else q

theorem joinNoted_records : (joinNoted c n rest s).records = s.records.map (Record.joinSide s c n) := by
  show (changeRecord c (Record.withFollower n) _).records = _
  rw [changeRecord_records, offQueue_records, List.map_map]
  refine List.map_congr_left fun q _ => ?_
  simp only [Function.comp, Record.joinSide]
  by_cases e : q.number = n
  · rw [if_pos e, ((joinedTo_becomes s c).changed q).1]
  · rw [if_neg e]

/-- The fields of the crest cut's record after a join. -/
theorem withFollower_changed (n : Nat) (q : Record) :
    (Record.changed (Record.withFollower n) q).number = q.number ∧ (Record.changed (Record.withFollower n) q).state = q.state
      ∧ (Record.changed (Record.withFollower n) q).followers = q.followers ++ [n]
      ∧ (Record.changed (Record.withFollower n) q).assigned = q.assigned
      ∧ (Record.changed (Record.withFollower n) q).declaredLength = q.declaredLength := by
  rw [Record.changed_eq]
  exact ⟨rfl, rfl, rfl, rfl, rfl⟩

/-- The fields of the follower's record after a join. -/
theorem joinedTo_changed (s : State) (c : Nat) (q : Record) :
    (Record.changed (Record.joinedTo s c) q).number = q.number ∧ (Record.changed (Record.joinedTo s c) q).state = .joined
      ∧ (Record.changed (Record.joinedTo s c) q).joined = some (.follower c)
      ∧ (Record.changed (Record.joinedTo s c) q).declaredLength = q.declaredLength := by
  rw [Record.changed_eq]
  exact ⟨rfl, rfl, rfl, rfl⟩

theorem Record.joinSide_number (q : Record) : (Record.joinSide s c n q).number = q.number := by
  unfold Record.joinSide
  split
  · rw [(withFollower_changed n _).1]
    split
    · exact (joinedTo_changed s c q).1
    · rfl
  · split
    · exact (joinedTo_changed s c q).1
    · rfl

section
variable {r rc : Record} (hs : (s.records.map Record.number).Nodup) (hc : s.record c = some rc) (hn : s.record n = some r) (hcn : c ≠ n)
include hcn

/-- A record of the table is the crest cut's, the follower's, or one of the others. -/
theorem joinSide_cases (hs : (s.records.map Record.number).Nodup) (hc : s.record c = some rc) (hn : s.record n = some r) {q : Record}
    (hq : q ∈ s.records) :
    q = rc ∧ Record.joinSide s c n q = Record.changed (Record.withFollower n) rc
      ∨ q = r ∧ Record.joinSide s c n q = Record.changed (Record.joinedTo s c) r
      ∨ (q.number ≠ c ∧ q.number ≠ n) ∧ Record.joinSide s c n q = q := by
  unfold Record.joinSide
  by_cases ec : q.number = c
  · rw [if_pos ec, if_neg (by rw [ec]; exact hcn), eq_of_mem hs hc hq ec]
    exact .inl ⟨rfl, rfl⟩
  · rw [if_neg ec]
    by_cases en : q.number = n
    · rw [if_pos en, eq_of_mem hs hn hq en]
      exact .inr (.inl ⟨rfl, rfl⟩)
    · rw [if_neg en]
      exact .inr (.inr ⟨⟨ec, en⟩, rfl⟩)

include hc in
theorem joinNoted_record_crest : (joinNoted c n rest s).record c = some (Record.changed (Record.withFollower n) rc) := by
  rw [joinNoted_record, if_pos rfl, offQueue_record (joinedTo_becomes s c), if_neg hcn]
  show (s.record c).map _ = _
  rw [hc]; rfl

include hn in
theorem joinNoted_record_head : (joinNoted c n rest s).record n = some (Record.changed (Record.joinedTo s c) r) := by
  rw [joinNoted_record, if_neg hcn.symm, if_pos rfl, hn]; rfl

omit hcn in
theorem joinNoted_record_other {m : Nat} (mc : m ≠ c) (mn : m ≠ n) : (joinNoted c n rest s).record m = s.record m := by
  rw [joinNoted_record, if_neg mc, if_neg mn]

include hc hn in
theorem joinNoted_effective (m : Nat) : (joinNoted c n rest s).effective m = s.effective m := by
  unfold State.effective State.layout
  rw [joinNoted_frame.2.1]
  by_cases e : m = c
  · rw [e, joinNoted_record_crest hc hcn, hc]
    simp only [(withFollower_changed n rc).2.2.2.2]
  · by_cases e' : m = n
    · rw [e', joinNoted_record_head hn hcn, hn]
      simp only [(joinedTo_changed s c r).2.2.2]
    · rw [joinNoted_record_other e e']

include hc in
theorem joinNoted_isIn_joined {m : Nat} (mn : m ≠ n) : (joinNoted c n rest s).isIn m .joined = s.isIn m .joined := by
  unfold State.isIn
  by_cases e : m = c
  · rw [e, joinNoted_record_crest hc hcn, hc]
    simp only [(withFollower_changed n rc).2.1]
  · rw [joinNoted_record_other e mn]

include hc hn in
/-- The followers of the crest cut after a join. -/
theorem joinNoted_joinedFollowers (fresh : n ∉ rc.followers) : (joinNoted c n rest s).joinedFollowers c = s.joinedFollowers c ++ [n] := by
  unfold State.joinedFollowers
  rw [joinNoted_record_crest hc hcn, hc]
  simp only [(withFollower_changed n rc).2.2.1]
  rw [List.filter_append, List.filter_singleton,
    (isIn_iff (joinNoted c n rest s)).mpr ⟨_, joinNoted_record_head hn hcn, (joinedTo_changed s c r).2.1⟩]
  exact congrArg (· ++ [n]) (List.filter_congr fun m hm => joinNoted_isIn_joined hc hcn fun e => fresh (e ▸ hm))

include hc hn in
/-- The length of the crest cut's group after a join. -/
theorem joinNoted_groupLength (fresh : n ∉ rc.followers) : (joinNoted c n rest s).groupLength c = s.groupLength c + s.effective n := by
  unfold State.groupLength
  rw [joinNoted_joinedFollowers hc hn hcn fresh, List.map_congr_left fun m _ => joinNoted_effective hc hn hcn m]
  simp [Nat.add_assoc]

end

end

/-! ### A join under a crest cut in the tree (R56, R57) -/

/-- The bonds hold, and each running total is that of the groups but for a length still to come on one cut's track. -/
def Owing (c len : Nat) (s : State) : Prop :=
  Bonds s ∧ ∀ x, s.groupsOn x = (s.track x).committed + if s.assignedTrack c = some x then len else 0

section
variable {a : Prop} {s : State} {n c : Nat} {rest : List Nat}

section
variable {r rc : Record} (k : Followed s) (b : Accounted s) (hn : s.record n = some r) (hp : r.state = .pending) (hc : s.record c = some rc)
  (ht : rc.state.inTree = true)
include k b hn hp hc ht

omit k b in
theorem crest_ne_head : c ≠ n := by
  rintro rfl
  rw [Option.some.inj (hc.symm.trans hn), hp] at ht
  cases ht

omit k in
theorem head_not_follower : n ∉ rc.followers := fun hm => by
  obtain ⟨f, hf, hj, -⟩ := b.leaders rc (record_mem s hc) ht n hm
  rw [Option.some.inj (hf.symm.trans hn), hp] at hj
  cases hj

omit k b in
/-- A JOINED record is neither the crest cut's nor the follower's. -/
theorem joinNoted_record_joined {m : Nat} {v : Record} (hv : s.record m = some v) (hj : v.state = .joined) :
    (joinNoted c n rest s).record m = some v := by
  rw [joinNoted_record_other, hv]
  · rintro rfl
    rw [Option.some.inj (hc.symm.trans hv), hj] at ht
    cases ht
  · rintro rfl
    rw [Option.some.inj (hn.symm.trans hv), hj] at hp
    cases hp

/-- Every other group is as long as before. -/
theorem joinNoted_groupLength_other {q : Record} (hq : q ∈ s.records) (hi : q.state.inTree = true) (hne : q.number ≠ c) :
    (joinNoted c n rest s).groupLength q.number = s.groupLength q.number := by
  have found := record_of_mem k.ledger.numbers hq
  have hqn : q.number ≠ n := fun e => by
    rw [eq_of_mem k.ledger.numbers hn hq e, hp] at hi
    cases hi
  refine groupLength_congr found (joinNoted_record_other hne hqn) (fun m hm => ?_) joinNoted_frame.2.1
  obtain ⟨f, hf, hj, -⟩ := b.leaders q hq hi m hm
  rw [joinNoted_record_joined hn hp hc ht hf hj, hf]

/-- The bonds after a join to a crest cut in the tree. -/
theorem joinNoted_bonds (crest : s.crestCut = some c) (hr : s.runState ≠ .halted) : Bonds (joinNoted c n rest s) := by
  have hcn := crest_ne_head hn hp hc ht
  obtain ⟨-, -, crestCut, runState, -⟩ := joinNoted_frame (s := s) (n := n) (c := c) (rest := rest)
  obtain ⟨gNumber, gState, gFollowers, -⟩ := withFollower_changed n rc
  obtain ⟨jNumber, jState, jLeader, -⟩ := joinedTo_changed s c r
  have out : ∀ {st : CutState}, st.inTree = false → (Record.changed (Record.withFollower n) rc).state ≠ st := fun hst e => by
    rw [gState] at e
    rw [e, hst] at ht
    cases ht
  have joined : ∀ {m : Nat} {v : Record}, s.record m = some v → v.state = .joined → (joinNoted c n rest s).record m = some v :=
    fun hv hj => joinNoted_record_joined hn hp hc ht hv hj
  have sides : ∀ w ∈ (joinNoted c n rest s).records, w = Record.changed (Record.withFollower n) rc
      ∨ w = Record.changed (Record.joinedTo s c) r ∨ w ∈ s.records := fun w hw => by
    rw [joinNoted_records] at hw
    obtain ⟨q, hq, rfl⟩ := List.mem_map.mp hw
    rcases joinSide_cases hcn k.ledger.numbers hc hn hq with ⟨-, e⟩ | ⟨-, e⟩ | ⟨-, e⟩ <;> rw [e]
    · exact .inl rfl
    · exact .inr (.inl rfl)
    · exact .inr (.inr hq)
  refine ⟨fun w hw hwt m hm => ?_, fun w hw hj => ?_, fun w hw hs => ?_, fun d hd => ?_, fun hh => absurd (runState ▸ hh) hr⟩
  · rcases sides w hw with rfl | rfl | hw
    · rw [gFollowers] at hm
      rcases List.mem_append.mp hm with hm | hm
      · obtain ⟨f, hf, hj, hl⟩ := b.leaders rc (record_mem s hc) ht m hm
        exact ⟨f, joined hf hj, hj, gNumber.symm ▸ hl⟩
      · rw [List.mem_singleton.mp hm]
        exact ⟨_, joinNoted_record_head hn hcn, jState, by rw [jLeader, gNumber, record_number s hc]⟩
    · rw [jState] at hwt
      cases hwt
    · obtain ⟨f, hf, hj, hl⟩ := b.leaders w hw hwt m hm
      exact ⟨f, joined hf hj, hj, hl⟩
  · rcases sides w hw with rfl | rfl | hw
    · exact absurd hj (out rfl)
    · exact ⟨c, _, jLeader, joinNoted_record_crest hc hcn, gState.symm ▸ ht, by rw [gFollowers, jNumber, record_number s hn]; simp⟩
    · obtain ⟨d, l, hd, hl, hlt, hm⟩ := b.followers w hw hj
      by_cases e : d = c
      · subst e
        obtain rfl : l = rc := Option.some.inj (hl.symm.trans hc)
        exact ⟨d, _, hd, joinNoted_record_crest hc hcn, gState.symm ▸ hlt, by rw [gFollowers]; exact List.mem_append_left _ hm⟩
      · refine ⟨d, l, hd, (joinNoted_record_other e ?_).trans hl, hlt, hm⟩
        rintro rfl
        rw [Option.some.inj (hl.symm.trans hn), hp] at hlt
        cases hlt
  · rcases sides w hw with rfl | rfl | hw
    · exact absurd hs (out rfl)
    · rw [jState] at hs
      cases hs
    · exact b.pendings w hw hs
  · rw [crestCut, crest] at hd
    obtain rfl := Option.some.inj hd
    exact ⟨_, joinNoted_record_crest hc hcn, out rfl, out rfl⟩

/-- The totals after a join to a crest cut in the tree: its group has grown by the follower. -/
theorem groupsOn_joinNoted (x : Nat) :
    (joinNoted c n rest s).groupsOn x = s.groupsOn x + if s.assignedTrack c = some x then s.effective n else 0 := by
  have hcn := crest_ne_head hn hp hc ht
  have hs := k.ledger.numbers
  obtain ⟨gNumber, gState, -, gAssigned, -⟩ := withFollower_changed n rc
  have pairs : s.Pairs (fun q w => q ∈ s.records ∧ w = Record.joinSide s c n q) (joinNoted c n rest s) :=
    State.pairs_map joinNoted_records fun q hm => ⟨hm, rfl⟩
  have atC := joinNoted_record_crest (rest := rest) hc hcn
  have sums := sum_of_pairs_but_one (f := s.share x) (g := (joinNoted c n rest s).share x) pairs
    (fun q w h => h.2 ▸ Record.joinSide_number q) hs (fun q w hqw hqc => by
      obtain ⟨hm, rfl⟩ := hqw
      rcases joinSide_cases hcn hs hc hn hm with ⟨rfl, -⟩ | ⟨rfl, e⟩ | ⟨-, e⟩
      · exact absurd (record_number s hc) hqc
      · rw [e, share_of_out (by rw [(joinedTo_changed s c q).2.1]; rfl), share_of_out (by rw [hp]; rfl)]
      · rw [e]
        unfold State.share
        by_cases hi : q.state.inTree = true
        · rw [joinNoted_groupLength_other k b hn hp hc ht hm hi hqc]
        · simp [hi]) (record_mem s hc) (record_number s hc) (record_mem _ atC) (record_number _ atC)
  have assigned : (joinNoted c n rest s).assignedTrack c = s.assignedTrack c := by
    unfold State.assignedTrack
    rw [atC, hc]
    simp only [Option.bind_some, gAssigned]
  rw [← groupsOn_eq_sum, ← groupsOn_eq_sum, share_inTree hc ht, share_inTree atC (gState.symm ▸ ht),
    joinNoted_groupLength hc hn hcn (head_not_follower b hn hp hc ht), assigned] at sums
  by_cases e : s.assignedTrack c = some x
  · simp only [e, if_true] at sums ⊢
    omega
  · simp only [e, if_false] at sums ⊢
    exact sums

end

/-- The accounts as they stand when a join to a crest cut in the tree has been recorded: the follower's length is still to come. -/
theorem joinNoted_owing (k : Followed s) (b : Accounted s) (hq : s.queue = n :: rest) (crest : s.crestCut = some c)
    (hi : s.isInTree c = true) (hr : s.runState ≠ .halted) :
    Owing c ((joinNoted c n rest s).effective n) (joinNoted c n rest s) ∧ n ∈ (joinNoted c n rest s).joinedFollowers c := by
  obtain ⟨r, hn, hp⟩ := queueHead k.ledger hq
  obtain ⟨rc, hc, ht⟩ := (isInTree_iff s).mp hi
  have hcn := crest_ne_head hn hp hc ht
  refine ⟨⟨joinNoted_bonds k b hn hp hc ht crest hr, fun x => ?_⟩, ?_⟩
  · have total : ((joinNoted c n rest s).track x).committed = (s.track x).committed := by unfold State.track; rw [joinNoted_frame.1]
    have assigned : (joinNoted c n rest s).assignedTrack c = s.assignedTrack c := by
      unfold State.assignedTrack
      rw [joinNoted_record_crest hc hcn, hc]
      simp only [Option.bind_some, (withFollower_changed n rc).2.2.2.1]
    rw [groupsOn_joinNoted k b hn hp hc ht, total, assigned, joinNoted_effective hc hn hcn, b.totals]
  · rw [joinNoted_joinedFollowers hc hn hcn (head_not_follower b hn hp hc ht)]
    simp

/-- The length owed is paid: the accounts hold. -/
theorem commitFollower_sound {m x : Nat} (k : Followed s) (owing : a → Owing c (s.effective m) s) (hx : s.assignedTrack c = some x) :
    Sound a (commitFollower c m x s) := by
  have moves := commitLength_moves s x (s.effective m)
  refine (addMarkIf_calm _ _ .overfill c).keeps.sound ⟨moves.steady.tame.followed k, fun ha => ?_⟩
  obtain ⟨bonds, totals⟩ := owing ha
  refine accounted_of (moves.bonds_calm bonds) fun y => ?_
  rw [moves.groupsOn, totals, committed_commitLength, hx]
  simp

theorem effective_le_groupLength {m : Nat} (h : m ∈ s.joinedFollowers c) : s.effective m ≤ s.groupLength c :=
  List.le_sum_of_mem (List.mem_map_of_mem (List.mem_cons_of_mem c h))

/-- The group is sent to the default track, the follower's length with it (R57). -/
theorem rehumpGroup_sound {x : Nat} (k : Followed s) (hi : s.isInTree c = true) (owing : a → Owing c (s.effective n) s ∧ n ∈ s.joinedFollowers c)
    (hx : s.assignedTrack c = some x) : Sound a (rehumpGroup c n x s) := by
  obtain ⟨r, hr, ht⟩ := (isInTree_iff s).mp hi
  have hn := k.ledger.numbers
  have moves := setAssignment_moves s c ⟨defaultTrack s.layout, .defaultJoin⟩
  have followed : Followed (setAssignment c ⟨defaultTrack s.layout, .defaultJoin⟩ s) := moves.tame.followed k
  have bonds : a → Bonds (setAssignment c ⟨defaultTrack s.layout, .defaultJoin⟩ s) := fun ha =>
    bonds_setAssignment s hn hr ht _ (owing ha).1.1
  have totals : ∀ y, ((setAssignment c ⟨defaultTrack s.layout, .defaultJoin⟩ s).track y).committed = (s.track y).committed := fun y => by
    unfold State.track; rw [setAssignment_tracks]
  have moved := groupsOn_setAssignment s hn hr ht ⟨defaultTrack s.layout, .defaultJoin⟩
  unfold rehumpGroup
  dsimp only
  split
  · rename_i same
    have assigned : (setAssignment c ⟨defaultTrack s.layout, .defaultJoin⟩ s).assignedTrack c = some (defaultTrack s.layout) := by
      obtain ⟨w, hw, hwa, -⟩ := record_setAssignment s ⟨defaultTrack s.layout, .defaultJoin⟩ hr
      simp [State.assignedTrack, hw, hwa]
    refine commitFollower_sound followed (fun ha => ⟨bonds ha, fun y => ?_⟩) assigned
    have moved := moved y
    have owed := (owing ha).1.2 y
    have effective := (moves.records.imp fun _ _ k => k.sameGroup).effective moves.active n
    rw [assigned, totals, effective]
    rw [hx, same] at moved owed
    simp only [Option.some.injEq] at moved owed ⊢
    omega
  · rename_i differ
    have rest := (releaseFrom_moves (setAssignment c ⟨defaultTrack s.layout, .defaultJoin⟩ s) (some x)
      (s.groupLength c - s.effective n)).trans (fun h k => h.trans k) (commitLength_moves _ (defaultTrack s.layout) (s.groupLength c))
    change Sound a (addMarkIf _ .overfill c (commitLength _ _ (releaseFrom (some x) (s.groupLength c - s.effective n) _)))
    refine (addMarkIf_calm _ _ .overfill c).keeps.sound ⟨rest.steady.tame.followed followed, fun ha => ?_⟩
    refine accounted_of (rest.bonds_calm (bonds ha)) fun y => ?_
    have moved := moved y
    have owed := (owing ha).1.2 y
    have held := share_le_groupsOn (x := y) (record_mem s hr)
    have within := effective_le_groupLength (owing ha).2
    have released := committed_releaseFrom (setAssignment c ⟨defaultTrack s.layout, .defaultJoin⟩ s) (some x) (s.groupLength c - s.effective n) y
    rw [share_inTree hr ht] at held
    rw [rest.groupsOn, committed_commitLength, released, totals]
    rw [hx] at moved owed held
    simp only [Option.some.injEq] at moved owed held ⊢
    by_cases ey : x = y
    · have hd : defaultTrack s.layout ≠ y := fun e => differ (ey.trans e.symm)
      simp only [ey, hd, if_true, if_false] at moved owed held ⊢
      omega
    · simp only [ey, if_false] at moved owed held ⊢
      omega

theorem rehumpGroup_tree (x m : Nat) : (rehumpGroup c n x s).isInTree m = s.isInTree m := by
  have first := (setAssignment_moves s c ⟨defaultTrack s.layout, .defaultJoin⟩)
  unfold rehumpGroup commitFollower
  dsimp only
  split
  · exact ((first.trans (fun h k => h.trans k) (commitLength_moves _ _ _).steady).trans (fun h k => h.trans k)
      (addMarkIf_calm _ _ .overfill c).steady).tame.isInTree m
  · exact ((first.trans (fun h k => h.trans k) ((releaseFrom_moves _ (some x) (s.groupLength c - s.effective n)).trans (fun h k => h.trans k)
      (commitLength_moves _ _ _)).steady).trans (fun h k => h.trans k) (addMarkIf_calm _ _ .overfill c).steady).tame.isInTree m

/-- The track of the group is settled by the join policy: the agreement holds (R56, R57). -/
theorem joinPolicyTrack_sound (old : State) (k : Followed s) (hi : s.isInTree c = true)
    (owing : a → Owing c (s.effective n) s ∧ n ∈ s.joinedFollowers c) : Sound a (joinPolicyTrack old c n s) := by
  obtain ⟨r, hr, ht⟩ := (isInTree_iff s).mp hi
  have unowed : r.assigned = none → Sound a s := fun none => by
    refine ⟨k, fun ha => accounted_of (owing ha).1.1 fun x => ?_⟩
    have := (owing ha).1.2 x
    simpa [State.assignedTrack, hr, none] using this.symm
  have assigned : ∀ {x : Assignment}, r.assigned = some x → s.assignedTrack c = some x.track := fun h => by simp [State.assignedTrack, hr, h]
  unfold joinPolicyTrack
  rw [hr]
  dsimp only
  split
  · split
    · rename_i none
      have first := assignTrack_keeps (a := a) s hi (fun _ => by simp [State.assignedTrack, hr, none]) (defaultTrack s.layout) .defaultJoin
      exact ((first.trans (redoClaims_calm _ ((first.tree c).trans hi)).keeps).trans (followCut_calm _ old c).keeps).sound (unowed none)
    · rename_i x hx
      split
      · have sent := rehumpGroup_sound k hi owing (assigned hx)
        exact (((redoClaims_calm _ ((rehumpGroup_tree x.track c).trans hi)).trans (followCut_calm _ old c)).keeps (a := a)).sound sent
      · exact commitFollower_sound k (fun ha => (owing ha).1) (assigned hx)
  · split
    · exact unowed ‹_›
    · exact commitFollower_sound k (fun ha => (owing ha).1) (assigned ‹_›)

/-! ### A join under a crest cut that has left the tree (R58) -/

theorem ends_tame {f : Record → Record} (hf : Record.Ends f) {r : Record} (h : r.state = .joined) : r.Tame (f r) := by
  have out : (f r).state.inTree = false ∧ (f r).state ≠ .pending := by
    rcases hf.out r with e | e <;> rw [e] <;> exact ⟨rfl, nofun⟩
  refine ⟨hf.number r, by rw [out.1, h]; rfl, by rw [h]; exact ⟨fun e => absurd e out.2, nofun⟩, fun b => ⟨?_, ?_, ?_, ?_⟩⟩
  · exact (hf.number r).symm ▸ b.number
  · exact (hf.axles r).symm ▸ b.axles
  · exact (hf.diversions r).symm ▸ b.diversions
  · unfold Record.followers
    rw [hf.joined r]
    exact b.followers

theorem joinOutcome_followed (k : Followed s) {r : Record} (hr : s.record n = some r) (hj : r.state = .joined) :
    Followed (joinOutcome c n s) := by
  have ended : ∀ {f : Record → Record}, Record.Ends f → Followed (changeRecord n f s) := fun hf =>
    (changeRecord_tame s n _ fun q hq e => ends_tame hf (by rw [eq_of_mem k.ledger.numbers hr hq e, hj])).followed k
  unfold joinOutcome
  split
  · exact k
  · split
    · exact (latch_calm _ _).steady.tame.followed (ended (lose_ends _))
    · exact ended (settle_ends _)
    all_goals exact k

/-- The accounts after a join to a crest cut that has left the tree: neither record is in a group before or after. -/
theorem joinOutcome_accounted (k : Followed s) (b : Accounted s) (hq : s.queue = n :: rest) {rc : Record} (hc : s.record c = some rc)
    (room : rc.followers.length < Config.maxFollowers) (crest : s.crestCut = some c) (hi : s.isInTree c = false) (hr : s.runState ≠ .halted) :
    Accounted (joinOutcome c n (joinNoted c n rest s)) := by
  obtain ⟨r, hn, hp⟩ := queueHead k.ledger hq
  obtain ⟨rc', hc', notPending, notJoined⟩ := b.crest c crest
  obtain rfl := Option.some.inj (hc.symm.trans hc')
  have out : rc.state.inTree = false := by simpa [State.isInTree, hc] using hi
  have hs := k.ledger.numbers
  have hcn : c ≠ n := by
    rintro rfl
    exact notPending (Option.some.inj (hc.symm.trans hn) ▸ hp)
  have noted := joinNoted_followed k hq hc room
  obtain ⟨tracks, active, crestCut, runState, -⟩ := joinNoted_frame (s := s) (n := n) (c := c) (rest := rest)
  have atC := joinNoted_record_crest (rest := rest) hc hcn
  have atN := joinNoted_record_head (rest := rest) hn hcn
  have followed := joinOutcome_followed (c := c) noted atN ((joinedTo_becomes s c).changed r).2.1
  have stateC := (withFollower_changed n rc).2.1
  have ended : ∀ {f : Record → Record} {t : State}, Record.Ends f → t.records = (changeRecord n f (joinNoted c n rest s)).records → Followed t →
      t.active = s.active → (∀ x, (t.track x).committed = (s.track x).committed) → t.crestCut = s.crestCut → t.runState = s.runState →
      Accounted t := by
    intro f t hf records ft active committed crestCut runState
    have after := records.trans ((changeRecord_records _ n f).trans (congrArg _ joinNoted_records))
    rw [List.map_map] at after
    have out' : rc.grouped = false ∧ (Record.changed (Record.withFollower n) rc).grouped = false := by
      simp [Record.grouped, stateC, out, notJoined]
    have change : ∀ q ∈ s.records, ∀ w, w = ((fun r => if r.number = n then Record.changed f r else r) ∘ Record.joinSide s c n) q →
        q = rc ∧ w = Record.changed (Record.withFollower n) rc ∨ q = r ∧ w = Record.changed f (Record.changed (Record.joinedTo s c) r)
          ∨ w = q := by
      rintro q hm w rfl
      simp only [Function.comp, Record.joinSide_number]
      rcases joinSide_cases hcn hs hc hn hm with ⟨rfl, e⟩ | ⟨rfl, e⟩ | ⟨⟨-, en⟩, e⟩ <;> rw [e]
      · exact .inl ⟨rfl, if_neg (record_number s hc ▸ hcn)⟩
      · exact .inr (.inl ⟨rfl, if_pos (record_number s hn)⟩)
      · exact .inr (.inr (if_neg en))
    refine accounted_of_core b hs ft.ledger.numbers (core_of_map after fun q hm => ?_) active committed (fun w hw hwp => ?_)
      (fun d hd => ?_) fun hh => absurd (runState ▸ hh) hr
    · rcases change q hm _ rfl with ⟨rfl, e⟩ | ⟨rfl, e⟩ | e
      · rw [e]; exact .inr out'
      · rw [e]
        refine .inr ⟨not_grouped_of_pending hp, ?_⟩
        simp [Record.grouped, hf.out_inTree, hf.not_state]
      · exact .inl e
    · rw [after] at hw
      obtain ⟨q, hm, e⟩ := List.mem_map.mp hw
      rcases change q hm w e.symm with ⟨rfl, rfl⟩ | ⟨rfl, rfl⟩ | rfl
      · exact absurd (stateC.symm.trans hwp) notPending
      · exact absurd hwp (hf.not_state _).1
      · exact b.pendings w hm hwp
    · rw [crestCut, crest] at hd
      obtain rfl := Option.some.inj hd
      refine ⟨Record.changed (Record.withFollower n) rc, ?_, stateC.symm ▸ notPending, stateC.symm ▸ notJoined⟩
      have found : t.record c = (changeRecord n f (joinNoted c n rest s)).record c := by unfold State.record; rw [records]
      rw [found, record_changeRecord_other _ f hf.number hcn, atC]
  have total : ∀ x, ((joinNoted c n rest s).track x).committed = (s.track x).committed := fun x => by unfold State.track; rw [tracks]
  unfold joinOutcome at followed ⊢
  rw [atC] at followed ⊢
  dsimp only at followed ⊢
  rw [stateC] at followed ⊢
  cases hst : rc.state with
  | lost =>
    rw [hst] at followed
    refine ended (f := Record.lose .leaderLost) (lose_ends _) rfl followed ((changeRecord_active ..).trans active) (fun x => ?_)
      ((changeRecord_crestCut ..).trans crestCut) ((changeRecord_runState ..).trans runState)
    rw [← total x]
    unfold State.track
    rw [latch_tracks, changeRecord_tracks]
  | settled =>
    rw [hst] at followed
    refine ended (settle_ends _) rfl followed ((changeRecord_active ..).trans active) (fun x => ?_)
      ((changeRecord_crestCut ..).trans crestCut) ((changeRecord_runState ..).trans runState)
    rw [← total x]
    unfold State.track
    rw [changeRecord_tracks]
  | pending => exact absurd hst notPending
  | joined => exact absurd hst notJoined
  | releasing => rw [hst] at out; cases out
  | rolling => rw [hst] at out; cases out
  | stalled => rw [hst] at out; cases out

/-! ### Counting (R49, R54, R55) -/

theorem joinPair_some {c n : Nat} (h : joinPair s = some (c, n)) :
    s.crestCut = some c ∧ s.runState = .running ∧ (∃ rest, s.queue = n :: rest)
      ∧ ∃ rc, s.record c = some rc ∧ rc.followers.length < Config.maxFollowers := by
  unfold joinPair at h
  split at h
  · rename_i c' n' rest hc hq
    split at h
    · rename_i r hr
      split at h
      · rename_i cond
        obtain ⟨rfl, rfl⟩ := Prod.mk.inj (Option.some.inj h)
        exact ⟨hc, cond.1, ⟨rest, hq⟩, r, hr, cond.2⟩
      · cases h
    · cases h
  · cases h

theorem joinNoted_isInTree (k : Followed s) (hq : s.queue = n :: rest) {rc : Record} (hc : s.record c = some rc)
    (hi : s.isInTree c = true) : (joinNoted c n rest s).isInTree c = true := by
  obtain ⟨r, hn, hp⟩ := queueHead k.ledger hq
  have hcn : c ≠ n := by
    rintro rfl
    simp [State.isInTree, hn, hp, CutState.inTree] at hi
  refine (isInTree_iff _).mpr ⟨_, joinNoted_record_crest hc hcn, ?_⟩
  rw [(withFollower_changed n rc).2.1]
  simpa [State.isInTree, hc] using hi

/-- A join keeps the agreement (R55). -/
theorem joinCut_sound {c n : Nat} (h : joinPair s = some (c, n)) (k : Sound a s) : Sound a (joinCut c n s) := by
  obtain ⟨crest, hr, ⟨rest, hq⟩, rc, hc, room⟩ := joinPair_some h
  have running : s.runState ≠ .halted := by rw [hr]; nofun
  have noted := joinNoted_followed k.1 hq hc room
  unfold joinCut
  rw [joinNoted_eq hq]
  dsimp only
  split
  · rename_i hi
    exact joinPolicyTrack_sound s noted (joinNoted_isInTree k.1 hq hc hi) fun ha => joinNoted_owing k.1 (k.2 ha) hq crest hi running
  · rename_i hi
    obtain ⟨r, hn, -⟩ := queueHead k.1.ledger hq
    have hi : s.isInTree c = false := by simpa using hi
    refine ⟨?_, fun ha => joinOutcome_accounted k.1 (k.2 ha) hq hc room crest hi running⟩
    by_cases e : n = c
    · refine joinOutcome_followed noted (r := Record.changed (Record.withFollower n) (Record.changed (Record.joinedTo s c) r)) ?_ ?_
      · rw [joinNoted_record, if_pos e, offQueue_record (joinedTo_becomes s c), if_pos rfl]
        show ((s.record n).map _).map _ = _
        rw [hn]; rfl
      · rw [Record.changed_eq]
        exact ((joinedTo_becomes s c).changed r).2.1
    · refine joinOutcome_followed noted (joinNoted_record_head hn (Ne.symm e)) (joinedTo_changed s c r).2.1

theorem countAxle_calm (s : State) (n : Nat) : CalmMove s (countAxle n s) :=
  changeRecord_calm s n _ fun _ _ _ => Record.calm_of rfl (.inl rfl) rfl rfl rfl (axles := fun _ => Nat.min_le_left _ _)

theorem countPulse_sound (k : Sound a s) : Sound a (countPulse s) := by
  have counted : ∀ n, Sound a (countAxle n s) := fun n => (countAxle_calm s n).keeps.sound k
  unfold countPulse
  split
  · exact k
  · split
    · exact k
    · split
      · exact counted _
      · split
        · exact counted _
        · split
          · rename_i cn h
            exact joinCut_sound h k
          · exact (addMark_calm _ _ _).keeps.sound (counted _)

/-- An axle pulse keeps the agreement (R49). -/
theorem takePulse_sound (hr : s.runState ≠ .halted) (k : Sound a s) : Sound a (takePulse s) := by
  have timed := (separation_calm s (some (later s.clock (separationGap s.layout)))).keeps.sound k
  unfold takePulse
  dsimp only
  split
  · exact firstAxle_sound hr timed
  · exact countPulse_sound timed

/-! ### Separation (R59, R60) -/

theorem shortTest_calm (s : State) : CalmMove s (shortTest s) := by
  unfold shortTest
  split
  · exact ((remnantDue_calm s _).trans (addMark_calm _ _ _)).trans (latch_calm _ _)
  · exact .refl s

theorem letGo_calm (s : State) : CalmMove s (letGo s) := by
  unfold letGo
  split
  · refine changeRecord_calm s _ _ fun r _ _ => ?_
    split
    · rename_i h
      exact Record.calm_of rfl (.inr ⟨rfl, by rw [h]; rfl⟩) rfl rfl rfl
    · exact .refl r
  · exact .refl s

theorem separate_sound (k : Sound a s) : Sound a (separate s) :=
  crest_sound (((shortTest_calm s).trans (letGo_calm _)).keeps.sound k) .idle none none none (letGo (shortTest s)).remnantDue fun _ _ => nofun

end

end Sys2Proof.Machine
end

section
/-! Every request, every event and every tick keeps the agreement: the two invariants of the step (R21 to R34, R69, R82, R114). -/

namespace Sys2Proof.Machine

/-! ### Moves of the stores, the link and the clock -/

section
variable {a : Prop} {s t : State}

/-- A move that leaves the records, the counts, the lists, the totals and the active layout alone. -/
theorem calm_of_same (canonical : Canonical s → Canonical t) (records : t.records = s.records) (queue : t.queue = s.queue)
    (unlisted : t.unlistedCounter = s.unlistedCounter) (inTree : t.inTree = s.inTree) (sections : t.sections = s.sections)
    (claims : t.claims = s.claims) (crestCut : t.crestCut = s.crestCut) (runState : t.runState = s.runState) (active : t.active = s.active)
    (tracks : t.tracks = s.tracks) : CalmMove s t where
  canonical := canonical
  records := by unfold State.Pairs; rw [records]; exact List.forall₂_same.mpr fun r _ => Record.Calm.refl r
  queue := queue
  unlisted := unlisted
  inTree := inTree
  lists h := by
    refine h.shrink (fun n => ?_) (fun x => ?_) (fun p => ?_)
    · unfold State.isInTree State.record; rw [records]
    · unfold State.section; rw [sections]
    · unfold State.claimsAt; rw [claims]
  crestCut := crestCut
  runState := runState
  active := active
  committed x := by unfold State.track; rw [tracks]

theorem hunt_calm (s : State) : CalmMove s (hunt s) :=
  calm_of_fields rfl rfl rfl rfl rfl rfl rfl rfl rfl rfl rfl rfl rfl rfl rfl rfl

theorem collect_calm (s : State) (bytes : List Byte) : CalmMove s (collect bytes s) :=
  calm_of_fields rfl rfl rfl rfl rfl rfl rfl rfl rfl rfl rfl rfl rfl rfl rfl rfl

theorem answering_calm (s : State) (code : Byte) (body : List Byte) : CalmMove s (answering code body s) :=
  calm_of_fields rfl rfl rfl rfl rfl rfl rfl rfl rfl rfl rfl rfl rfl rfl rfl rfl

theorem holdFrame_calm (s : State) (code : Byte) : CalmMove s (holdFrame code s) := by
  unfold holdFrame
  split
  · exact .refl s
  · exact calm_of_fields rfl rfl rfl rfl rfl rfl rfl rfl rfl rfl rfl rfl rfl rfl rfl rfl

theorem sent_calm (s : State) : CalmMove s (sent s) := by
  unfold sent
  split
  · exact .refl s
  · exact calm_of_fields rfl rfl rfl rfl rfl rfl rfl rfl rfl rfl rfl rfl rfl rfl rfl rfl
  · exact calm_of_fields rfl rfl rfl rfl rfl rfl rfl rfl rfl rfl rfl rfl rfl rfl rfl rfl

/-- Taking a frame keeps the agreement when its owner does (R162). -/
theorem takeRequest_sound {α : Type} (code : Byte) (body : Option α) (owner : α → State → Owned)
    (h : ∀ q s, Sound a s → Sound a (owner q s).1) (k : Sound a s) : Sound a (takeRequest code body owner s) := by
  have hunted : Sound a { s with receiver := .hunting } := (hunt_calm s).keeps.sound k
  unfold takeRequest
  dsimp only
  split
  · exact (holdFrame_calm _ code).keeps.sound hunted
  · split
    · exact (answering_calm _ code _).keeps.sound hunted
    · cases body with
      | none => exact (answering_calm _ code _).keeps.sound hunted
      | some q => exact (answering_calm _ code _).keeps.sound (h q _ hunted)

end

/-! ### The cut requests (R36 to R47) -/

section
variable {a : Prop} {s : State}

theorem queueBefore_perm (n x : Nat) (l : List Nat) : (queueBefore n x l).Perm (n :: l) := by
  induction l with
  | nil => exact .refl _
  | cons m l ih =>
    unfold queueBefore
    split
    · exact .refl _
    · exact (ih.cons m).trans (.swap n m l)

theorem enterQueue_perm (q : EnterBody) (l : List Nat) : (enterQueue q l).Perm (q.cut :: l) := by
  unfold enterQueue
  split
  · exact queueBefore_perm q.cut q.before l
  · exact (List.perm_append_comm (l₁ := l) (l₂ := [q.cut]))

theorem enterRequest_sound (q : EnterBody) (k : Sound a s) : Sound a (enterRequest q s).1 := by
  unfold enterRequest
  split
  · exact k
  split
  · exact k
  split
  · exact k
  split
  · exact k
  split
  · exact k
  rename_i ok free _ slot
  have range : 1 ≤ q.cut ∧ q.cut ≤ 61439 := by
    have ok := eq_true_of_ne_false ok
    simp only [enterValuesOk, Bool.and_eq_true, decide_eq_true_eq] at ok
    omega
  have bounded : (listedRecord q).Bounded := ⟨⟨range.1, by show q.cut ≤ _; omega⟩, Nat.zero_le _, Nat.zero_le _, Nat.zero_le _⟩
  have unused : s.record q.cut = none := by simpa using free
  exact addRecord_sound (r := listedRecord q) rfl bounded ⟨rfl, rfl⟩ unused slot (enterQueue_perm q s.queue)
    k.1.ledger.unlisted k

/-- The change of a PENDING record that keeps its number, its group and its bounds (R39). -/
theorem amendPending_sound {q : AmendBody} {r : Record} (hr : s.record q.cut = some r) (hp : r.state = .pending) (k : Sound a s) :
    Sound a (changeRecord q.cut (Record.amended q) s) := by
  have tame : Moves Record.Tame s (changeRecord q.cut (Record.amended q) s) := changeRecord_tame s _ _ fun v _ _ =>
    ⟨rfl, rfl, Iff.rfl, fun h => ⟨h.number, h.axles, h.diversions, h.followers⟩⟩
  refine ⟨tame.followed k.1, fun ha => ?_⟩
  have b := k.2 ha
  have hn := k.1.ledger.numbers
  have only : ∀ v ∈ s.records, v.number = q.cut → v.state = .pending := fun v hv e => by rw [eq_of_mem hn hr hv e, hp]
  have kept : ∀ v : Record, (Record.changed (Record.amended q) v).state = v.state ∧ (Record.changed (Record.amended q) v).joined = v.joined
      ∧ (Record.changed (Record.amended q) v).assigned = v.assigned := fun v => by
    rw [Record.changed_eq]; exact ⟨rfl, rfl, rfl⟩
  refine accounted_of_core b hn (tame.ledger k.1.ledger).numbers (core_of_map (changeRecord_records ..) fun v hv => ?_)
    (changeRecord_active ..) (fun x => by unfold State.track; rw [changeRecord_tracks]) (fun w hw hs => ?_) (fun c hc => ?_) (fun hh => ?_)
  · by_cases e : v.number = q.cut
    · rw [if_pos e]
      exact .inr ⟨not_grouped_of_pending (only v hv e), not_grouped_of_pending ((kept v).1.trans (only v hv e))⟩
    · exact .inl (if_neg e)
  · rw [changeRecord_records] at hw
    obtain ⟨v, hv, rfl⟩ := List.mem_map.mp hw
    split at hs
    · rename_i e
      rw [if_pos e, (kept v).2.1, (kept v).2.2]
      exact b.pendings v hv ((kept v).1 ▸ hs)
    · rename_i e
      rw [if_neg e]
      exact b.pendings v hv hs
  · rw [changeRecord_crestCut] at hc
    obtain ⟨v, hv, hs, hj⟩ := b.crest c hc
    refine ⟨v, ?_, hs, hj⟩
    rw [record_changeRecord_other s (Record.amended q) (fun _ => rfl), hv]
    rintro rfl
    exact hs (only v (record_mem s hv) (record_number s hv))
  · rw [changeRecord_inTree]
    exact b.halted ((changeRecord_runState ..).symm.trans hh)

theorem setRequested_calm (s : State) (n x : Nat) : CalmMove s (setRequested n x s) :=
  changeRecord_calm s n _ fun _ _ _ => Record.calm_of rfl (.inl rfl) rfl rfl rfl

theorem amendTrack_keeps {n : Nat} (h : s.isInTree n = true) (x : Nat) : Keeps a s (amendTrack n x s) := by
  have set := setRequested_calm s n x
  have front := set.keeps.trans (reassign_keeps (a := a) _ ((set.isInTree n).trans h) x .requested)
  exact (front.trans (redoClaims_calm _ ((front.tree n).trans h)).keeps).trans (followCut_calm _ s n).keeps

theorem amendWaiting_keeps {n : Nat} (h : s.isInTree n = true) (waiting : s.assignedTrack n = none) (x : Nat) :
    Keeps a s (amendWaiting n x s) := by
  have set := setRequested_calm s n x
  have still : (setRequested n x s).assignedTrack n = none := by
    have := set.records.record (fun _ _ e => e.number) n
    unfold State.assignedTrack at waiting ⊢
    generalize s.record n = o at this waiting
    generalize (setRequested n x s).record n = q at this
    cases this with
    | none => rfl
    | some e => simpa [e.assigned] using waiting
  have front := set.keeps.trans (releaseAssignment_keeps (a := a) _ ((set.isInTree n).trans h) (fun _ => still) x)
  exact (front.trans (redoClaims_calm _ ((front.tree n).trans h)).keeps).trans (followCut_calm _ s n).keeps

theorem acceptImage_state (before : State) (n : Nat) (u : State) : (acceptImage before n u).1 = u := rfl

theorem amendInTree_sound (q : AmendBody) {r : Record} (hr : s.record q.cut = some r) (ht : r.state.inTree = true) (k : Sound a s) :
    Sound a (amendInTree q r s).1 := by
  have h : s.isInTree q.cut = true := (isInTree_iff s).mpr ⟨r, hr, ht⟩
  unfold amendInTree
  split
  · exact k
  split
  · rename_i none
    rw [acceptImage_state]
    exact (amendWaiting_keeps h (by simp [State.assignedTrack, hr, none]) q.track).sound k
  split
  · rw [acceptImage_state]
    exact (setRequested_calm s q.cut q.track).keeps.sound k
  split
  · exact k
  split
  · exact k
  rw [acceptImage_state]
  exact (amendTrack_keeps h q.track).sound k

theorem amendRequest_sound (q : AmendBody) (k : Sound a s) : Sound a (amendRequest q s).1 := by
  unfold amendRequest
  split
  · exact k
  split
  · exact k
  split
  · exact k
  rename_i r hr
  cases hs : r.state with
  | pending => exact amendPending_sound hr hs k
  | releasing => exact amendInTree_sound q hr (by rw [hs]; rfl) k
  | rolling => exact amendInTree_sound q hr (by rw [hs]; rfl) k
  | stalled => exact amendInTree_sound q hr (by rw [hs]; rfl) k
  | joined => exact k
  | settled => exact k
  | lost => exact k

theorem withdrawRequest_sound (n : Nat) (k : Sound a s) : Sound a (withdrawRequest n s).1 := by
  unfold withdrawRequest
  split
  · exact k
  split
  · exact k
  split
  · exact k
  rename_i pending
  obtain ⟨r, hr, hp⟩ := (isIn_iff s).mp (eq_true_of_ne_false pending)
  refine takenOut_sound (c := s.crestCut) (d := s.target) hr (not_grouped_of_pending hp) (fun ha m hm => ⟨?_, hm⟩) k
  rintro rfl
  obtain ⟨v, hv, hs, -⟩ := (k.2 ha).crest m hm
  exact hs (Option.some.inj (hv.symm.trans hr) ▸ hp)

theorem clearUnseen_calm (s : State) (n : Nat) : CalmMove s (clearUnseen n s) := by
  have pairs : s.Pairs Record.Calm (clearUnseen n s) := State.pairs_map rfl fun r _ => by
    split
    · exact r.calm_unseen false
    · exact .refl r
  exact ⟨⟨fun h => h.congr rfl rfl rfl rfl rfl rfl rfl rfl rfl rfl, pairs, rfl, rfl, rfl,
    fun h => h.shrink (pairs.imp fun _ _ e => e.toTame).isInTree (fun x => List.Sublist.refl _) (fun p => List.Sublist.refl _), rfl, rfl, rfl⟩,
    fun _ => rfl⟩

theorem queryRequest_sound (n : Nat) (k : Sound a s) : Sound a (queryRequest n s).1 := by
  unfold queryRequest
  split
  · exact k
  split
  · exact k
  exact (clearUnseen_calm s n).keeps.sound k

theorem listRequest_sound (q : ListBody) (k : Sound a s) : Sound a (listRequest q s).1 := by
  unfold listRequest
  split <;> exact k

theorem collectRequest_sound (n : Nat) (k : Sound a s) : Sound a (collectRequest n s).1 := by
  unfold collectRequest
  split
  · exact k
  split
  · exact k
  split
  · exact k
  rename_i ended
  have ended : s.isIn n .settled = true ∨ s.isIn n .lost = true := by
    simp only [not_and_or, Bool.not_eq_false] at ended
    exact ended
  obtain ⟨r, hr, hs⟩ : ∃ r, s.record n = some r ∧ (r.state = .settled ∨ r.state = .lost) := by
    rcases ended with h | h <;> obtain ⟨r, hr, hs⟩ := (isIn_iff s).mp h
    · exact ⟨r, hr, .inl hs⟩
    · exact ⟨r, hr, .inr hs⟩
  have out : r.grouped = false := by rcases hs with hs | hs <;> simp [Record.grouped, hs, CutState.inTree]
  have unlisted : s.queue.filter (fun m => m != n) = s.queue := List.filter_eq_self.mpr fun m hm => bne_iff_ne.mpr fun e => by
    obtain ⟨v, hv, hp⟩ := (isIn_iff s).mp (k.1.ledger.queued m hm)
    rw [e] at hv
    rw [← Option.some.inj (hr.symm.trans hv)] at hp
    rcases hs with hs | hs <;> rw [hs] at hp <;> cases hp
  have same : collected n s = takenOut n (if s.crestCut = some n then none else s.crestCut) (if s.target = some n then none else s.target) s := by
    unfold takenOut
    rw [unlisted]
    rfl
  show Sound a (collected n s)
  rw [same]
  refine takenOut_sound hr out (fun _ m hm => ?_) k
  split at hm
  · cases hm
  · rename_i ne
    exact ⟨fun e => ne (e ▸ hm), hm⟩

theorem abandonRequest_sound (n : Nat) (k : Sound a s) : Sound a (abandonRequest n s).1 := by
  unfold abandonRequest
  split
  · exact k
  split
  · exact k
  split
  · exact k
  exact (followUp_calm _ s _ _).keeps.sound (loseCut_sound (n := n) .abandoned k).1

/-! ### The requests of the field (R79, R80, R102, R144 to R147) -/

theorem trackSetRequest_sound (q : TrackSetBody) (k : Sound a s) : Sound a (trackSetRequest q s).1 := by
  unfold trackSetRequest
  split
  · exact k
  split
  · exact k
  rename_i x _ _
  have written : CalmMove s (trackWritten q.track q.fill x s) :=
    changeTrack_calm s q.track (fun e => { e with fill := q.fill, setting := x }) fun _ => rfl
  exact written.keeps.sound k

theorem trackReadRequest_sound (x : Nat) (k : Sound a s) : Sound a (trackReadRequest x s).1 := by
  unfold trackReadRequest
  split <;> exact k

theorem sectionReadRequest_sound (x : Nat) (k : Sound a s) : Sound a (sectionReadRequest x s).1 := by
  unfold sectionReadRequest
  split <;> exact k

theorem pointReadRequest_sound (p : Nat) (k : Sound a s) : Sound a (pointReadRequest p s).1 := by
  unfold pointReadRequest
  split <;> exact k

theorem startSettle_calm (s : State) (p : Nat) (x : Position) : CalmMove s (startSettle p x s) := by
  unfold startSettle
  split
  · exact changePoint_calm s p _
  · exact changePoint_calm s p _

theorem becomeFault_calm (s : State) (p : Nat) : CalmMove s (becomeFault p s) := (changePoint_calm s p _).trans (latch_calm _ _)

theorem pointModeRequest_sound (q : ItemValue) (k : Sound a s) : Sound a (pointModeRequest q s).1 := by
  unfold pointModeRequest
  split
  · exact k
  split
  · exact k
  rename_i m _
  split
  · exact k
  have set := changePoint_calm s q.item fun e => { e with mode := m }
  have followed : CalmMove s (modeSet q.item m s) := by
    unfold modeSet
    dsimp only
    split
    · exact set.trans (followUp_calm _ s _ _)
    · exact set
  exact followed.keeps.sound k

theorem pointThrowRequest_sound (q : ItemValue) (k : Sound a s) : Sound a (pointThrowRequest q s).1 := by
  unfold pointThrowRequest
  split
  · exact k
  split
  · exact k
  rename_i x _
  split
  · exact k
  split
  · exact k
  have thrown : CalmMove s (manualThrow q.item x s) := by
    unfold manualThrow
    split
    · exact .refl s
    · exact (changePoint_calm s q.item _).trans (followUp_calm _ s _ _)
  exact thrown.keeps.sound k

theorem pointResetRequest_sound (p : Nat) (k : Sound a s) : Sound a (pointResetRequest p s).1 := by
  unfold pointResetRequest
  split
  · exact k
  split
  · exact k
  split
  · exact k
  rename_i x _
  split
  · exact k
  exact ((startSettle_calm s p x).trans (followUp_calm _ s _ _)).keeps.sound k

/-! ### Run control (R148 to R154) -/

/-- The run state and the tree are set, where no cut is in the tree at a halt. -/
theorem runState_sound (k : Sound a s) (y : RunState) (m : Tree) (h : a → y = .halted → s.inTree = 0) :
    Sound a { s with runState := y, tree := m } := by
  have l := k.1.ledger
  refine ⟨SameTables.followed (s := s) ⟨rfl, rfl, rfl, rfl, rfl, rfl, rfl, rfl, rfl, rfl⟩ k.1
    ⟨l.slots, l.numbers, l.bounded, l.queueOnce, l.queued, l.pendings, l.unlisted, l.count, l.room⟩ fun _ h => h, fun ha => ?_⟩
  have b := k.2 ha
  exact ⟨b.totals, b.leaders, b.followers, b.pendings, b.crest, h ha⟩

theorem enterStandby_sound (k : Sound a s) : Sound a (enterStandby s) := by
  have set := runState_sound k .standby (deriveTree s.layout) fun _ => nofun
  unfold enterStandby
  dsimp only
  refine (latchIf_calm _ _ _).keeps.sound ((CalmMove.foldl readPoint (fun s p => changePoint_calm s p _) _ _).keeps.sound
    ((latchIf_calm _ _ _).keeps.sound ((CalmMove.foldl readSection (fun s x => ?_) _ _).keeps.sound set)))
  exact changeSection_calm s x _ fun e => List.Sublist.refl e.occupants

theorem halt_frame (s : State) :
    (halt s).records = (loseCuts .halted s.inTreeCuts s).records ∧ (halt s).inTree = (loseCuts .halted s.inTreeCuts s).inTree := ⟨rfl, rfl⟩

/-- No cut is in the tree after every cut in it has been LOST, and the count is 0. -/
theorem loseAll_empties (k : Sound a s) :
    (∀ m, (loseCuts .halted s.inTreeCuts s).isInTree m = false) ∧ (loseCuts .halted s.inTreeCuts s).inTree = 0 := by
  obtain ⟨sound, tree⟩ := loseCuts_sound .halted s.inTreeCuts k
  have empty : ∀ m, (loseCuts .halted s.inTreeCuts s).isInTree m = false := fun m => by
    rw [tree]
    cases h : s.isInTree m with
    | false => rfl
    | true =>
      obtain ⟨r, hr, ht⟩ := (isInTree_iff s).mp h
      have : m ∈ s.inTreeCuts := List.mem_map.mpr ⟨r, List.mem_filter.mpr ⟨record_mem s hr, ht⟩, record_number s hr⟩
      simp [this]
  refine ⟨empty, sound.1.ledger.count.trans (List.length_eq_zero_iff.mpr (List.filter_eq_nil_iff.mpr fun r hr ht => ?_))⟩
  have := (isInTree_iff _).mpr ⟨r, record_of_mem sound.1.ledger.numbers hr, ht⟩
  rw [empty] at this
  cases this

/-- The move to HALTED keeps the agreement, and leaves no cut in the tree (R152). -/
theorem halt_sound (k : Sound a s) : Sound a (halt s) ∧ (∀ m, (halt s).isInTree m = false) ∧ (halt s).inTree = 0 := by
  obtain ⟨empty, count⟩ := loseAll_empties k
  have quiet : Sound a (crestQuiet (loseCuts .halted s.inTreeCuts s)) :=
    crest_sound (loseCuts_sound .halted s.inTreeCuts k).1 .idle none none none none fun _ _ => nofun
  generalize hu : crestQuiet (loseCuts .halted s.inTreeCuts s) = u at quiet
  have zero : u.inTree = 0 := by rw [← hu]; exact count
  have none : ∀ m, u.isInTree m = false := fun m => by rw [← hu]; exact empty m
  have still : halt s = { u with
      sections := Table.update SectionEntry.initial SectionEntry.quiet u.sections
      points := Table.update PointEntry.initial PointEntry.unsupervise u.points, runState := .halted } := by
    rw [← hu]; rfl
  have c := quiet.1.canonical
  have l := quiet.1.ledger
  have rising := ((Bool.and_eq_true _ _).mp c.sections).1
  have lists : ∀ x, ((halt s).section x).occupants = (u.section x).occupants := fun x => by
    rw [still]
    show (Table.read _ (Table.update _ _ u.sections) x).occupants = _
    rw [Table.read_update _ _ (by rfl) _ rising]
    rfl
  have after : Sound a (halt s) := by
    refine ⟨⟨?_, ?_, fun x m hm => ?_, fun x => ?_, fun x => ?_, ?_, ?_⟩, fun ha => ?_⟩
    · rw [still]
      exact ⟨c.tracks, c.channels, Table.update_wf _ _ _ c.sections, c.claims, c.detections, Table.update_wf _ _ _ c.points, c.slots,
        c.working, c.active, c.slotImages, c.commitImage⟩
    · rw [still]
      exact ⟨l.slots, l.numbers, l.bounded, l.queueOnce, l.queued, l.pendings, l.unlisted, l.count, l.room⟩
    · rw [lists] at hm
      rw [still]
      exact quiet.1.occupants x m hm
    · rw [lists]
      exact quiet.1.listedOnce x
    · rw [lists]
      exact quiet.1.room x
    · rw [still]
      exact quiet.1.claims
    · rw [still]
      exact quiet.1.claimedOnce
    · have b := quiet.2 ha
      rw [still]
      exact ⟨b.totals, b.leaders, b.followers, b.pendings, b.crest, fun _ => zero⟩
  exact ⟨after, fun m => by rw [still]; exact none m, by rw [still]; exact zero⟩

theorem runRequest_sound (q : ItemValue) (k : Sound a s) : Sound a (runRequest q s).1 := by
  unfold runRequest
  split
  · exact k
  rename_i x _
  split
  · exact k
  split
  · exact k
  split
  · exact k
  · split
    · exact (latch_calm s _).keeps.sound k
    · exact enterStandby_sound k
  · split
    · exact k
    · exact (halt_sound k).1
  · rename_i notHalted _ _ _ _
    exact runState_sound k _ s.tree fun _ e => absurd e notHalted

theorem noRecord {P : Record → Prop} : ∀ r ∈ ([] : List Record), P r := fun _ h => absurd h List.not_mem_nil

/-- With no cut in the tree, the table and the queue can be emptied and the totals cleared. -/
theorem emptied_sound (k : Sound a s) (none : ∀ m, s.isInTree m = false) (zero : s.inTree = 0) (x : BitVec 11) :
    Sound a { s with
      records := [], queue := [], flags := x, tracks := Table.update TrackEntry.initial TrackEntry.uncommitted s.tracks, crestCut := .none } := by
  have c := k.1.canonical
  have rising := ((Bool.and_eq_true _ _).mp c.tracks).1
  refine ⟨⟨⟨Table.update_wf _ _ _ c.tracks, c.channels, c.sections, c.claims, c.detections, c.points, c.slots, c.working, c.active,
    c.slotImages, c.commitImage⟩, ⟨Nat.zero_le _, List.nodup_nil, noRecord, List.nodup_nil, fun _ h => absurd h List.not_mem_nil, noRecord,
    k.1.ledger.unlisted, zero, k.1.ledger.room⟩, fun y m hm => ?_, k.1.listedOnce, k.1.room, fun p d hd => ?_, k.1.claimedOnce⟩,
    fun ha => ⟨fun y => ?_, noRecord, noRecord, noRecord, fun _ h => absurd h (Option.some_ne_none _).symm, fun _ => zero⟩⟩
  · have := k.1.occupants y m hm
    rw [none] at this
    cases this
  · have := k.1.claims p d hd
    rw [none] at this
    cases this
  · show (Table.read _ (Table.update _ _ s.tracks) y).committed = 0
    rw [Table.read_update _ _ (by rfl) _ rising]
    rfl

/-- A warm reset keeps the agreement (R154). -/
theorem warmReset_sound (k : Sound a s) : Sound a (warmReset s) := by
  obtain ⟨halted, none, zero⟩ := halt_sound k
  have crest : (halt s).crestCut = .none := rfl
  have empty := emptied_sound halted none zero 0
  rw [← crest] at empty
  exact empty

theorem flags_calm (s : State) (x y : BitVec 11) : CalmMove s { s with flags := x, enables := y } :=
  calm_of_fields rfl rfl rfl rfl rfl rfl rfl rfl rfl rfl rfl rfl rfl rfl rfl rfl

theorem clearFlagsRequest_sound (m : Nat) (k : Sound a s) : Sound a (clearFlagsRequest m s).1 := by
  unfold clearFlagsRequest
  split
  · exact k
  · exact (flags_calm s _ s.enables).keeps.sound k

theorem enableFlagsRequest_sound (m : Nat) (k : Sound a s) : Sound a (enableFlagsRequest m s).1 := by
  unfold enableFlagsRequest
  split
  · exact k
  · exact (flags_calm s s.flags _).keeps.sound k

/-! ### The layout store (R155 to R159) -/

theorem working_calm (m : Image) (h : Canonical s → Table.wf 0#8 m = true) : CalmMove s { s with working := m } :=
  calm_of_same (fun c => ⟨c.tracks, c.channels, c.sections, c.claims, c.detections, c.points, c.slots, h c, c.active, c.slotImages,
    c.commitImage⟩) rfl rfl rfl rfl rfl rfl rfl rfl rfl rfl

theorem layoutLoadRequest_sound (u : Unit) (k : Sound a s) : Sound a (layoutLoadRequest u s).1 := by
  unfold layoutLoadRequest
  split
  · exact k
  · rename_i m hm
    exact (working_calm m fun c => c.active m hm).keeps.sound k

theorem layoutWriteRequest_sound (q : WriteBody) (k : Sound a s) : Sound a (layoutWriteRequest q s).1 := by
  unfold layoutWriteRequest
  split
  · exact k
  split
  · exact k
  exact (working_calm _ fun c => Image.writeBytes_wf _ _ _ c.working).keeps.sound k

/-- A slot is erased or programmed, and the commit under way is set. -/
theorem store_calm (s : State) (x : Nat) (v : Option SlotContents) (w : Option Commit) (l : CommitResult) (image : Canonical s → ∀ c, v = some c → Table.wf 0#8 c.image = true)
    (hw : Canonical s → ∀ c, w = some c → Table.wf 0#8 c.contents.image = true) :
    CalmMove s (setSlot x v { s with commit := w, lastCommit := l }) := by
  refine calm_of_same (fun c => ⟨c.tracks, c.channels, c.sections, c.claims, c.detections, c.points, Table.write_wf _ _ _ _ c.slots, c.working,
    c.active, fun y i hi => ?_, hw c⟩) rfl rfl rfl rfl rfl rfl rfl rfl rfl rfl
  have hi : Table.read none (Table.write none s.slots x v) y = some i := hi
  rw [Table.read_write] at hi
  split at hi
  · exact image c i hi
  · exact c.slotImages y i hi

theorem layoutCommitRequest_sound (q : CommitBody) (k : Sound a s) : Sound a (layoutCommitRequest q s).1 := by
  unfold layoutCommitRequest
  split
  · exact k
  split
  · exact k
  refine (store_calm s q.slot none (some _) s.lastCommit (fun _ _ => nofun) fun c d hd => ?_).keeps.sound k
  rw [← Option.some.inj hd]
  exact c.working

theorem completeCommit_calm {d : Commit} (hd : s.commit = some d) (b : Bool) : CalmMove s (completeCommit d b s) := by
  refine (store_calm s d.slot (if b then some d.contents else none) none _ (fun c i hi => ?_) fun _ _ => nofun).trans (latch_calm _ .store)
  cases b
  · cases hi
  · rw [← Option.some.inj hi]
    exact c.commitImage d hd

theorem endCommit_calm (s : State) (r : CommitResult) : CalmMove s (endCommit r s) := by
  refine CalmMove.trans ?_ (latch_calm _ .store)
  exact calm_of_same (fun c => ⟨c.tracks, c.channels, c.sections, c.claims, c.detections, c.points, c.slots, c.working, c.active, c.slotImages,
    nofun⟩) rfl rfl rfl rfl rfl rfl rfl rfl rfl rfl

/-- No track has a group assigned to it while no cut is in the tree. -/
theorem groupsOn_of_empty (l : Ledger s) (h : s.inTree = 0) (x : Nat) : s.groupsOn x = 0 := by
  have none := List.filter_eq_nil_iff.mp (List.length_eq_zero_iff.mp (l.count.symm.trans h))
  rw [groupsOn_eq_sum]
  refine List.sum_eq_zero fun v hv => ?_
  obtain ⟨r, hr, rfl⟩ := List.mem_map.mp hv
  exact share_of_out (eq_false_of_ne_true (none r hr))

/-- LAYOUT SELECT keeps the agreement: it is taken in HALTED, where no cut is in the tree (R159). -/
theorem selectSlot_sound (x : Nat) {c : SlotContents} (image : Table.wf 0#8 c.image = true) (hr : s.runState = .halted) (k : Sound a s) :
    Sound a (selectSlot x c s) := by
  obtain ⟨⟨canonical, l, occupants, listedOnce, room, claims, claimedOnce⟩, accounts⟩ := k
  have rising := ((Bool.and_eq_true _ _).mp canonical.tracks).1
  have l' : Ledger (selectSlot x c s) := ⟨l.slots, l.numbers, l.bounded, l.queueOnce, l.queued, l.pendings, l.unlisted, l.count, l.room⟩
  refine ⟨⟨⟨Table.update_wf _ _ _ canonical.tracks, canonical.channels, canonical.sections, canonical.claims, canonical.detections,
    canonical.points, canonical.slots, canonical.working, fun i hi => Option.some.inj hi ▸ image, canonical.slotImages, canonical.commitImage⟩,
    l', occupants, listedOnce, room, claims, claimedOnce⟩, fun ha => ?_⟩
  have b := accounts ha
  refine ⟨fun y => ?_, b.leaders, b.followers, b.pendings, b.crest, b.halted⟩
  rw [groupsOn_of_empty l' (b.halted hr)]
  show (Table.read _ (Table.update _ _ s.tracks) y).committed = 0
  rw [Table.read_update _ _ (by rfl) _ rising]
  rfl

theorem layoutSelectRequest_sound (x : Nat) (k : Sound a s) : Sound a (layoutSelectRequest x s).1 := by
  unfold layoutSelectRequest
  split
  · exact k
  split
  · exact k
  split
  · exact k
  rename_i running _ _ c hc
  split
  · exact k
  exact selectSlot_sound x (k.1.canonical.slotImages x c hc) (by simpa using running) k

theorem layoutReadRequest_sound (q : ReadBody) (k : Sound a s) : Sound a (layoutReadRequest q s).1 := by
  unfold layoutReadRequest
  split
  · exact k
  split
  · exact k
  split <;> exact k

/-! ### The receiver (R160 to R164) -/

theorem Sound.ite {c : Prop} [Decidable c] {u v : State} (h : Sound a u) (k : Sound a v) : Sound a (if c then u else v) := by split <;> assumption

/-- A complete good frame keeps the agreement, whatever its code. -/
theorem serveFrame_sound (code : Byte) (body : List Byte) (k : Sound a s) : Sound a (serveFrame code body s) := by
  have take : ∀ {α : Type} (b : Option α) (owner : α → State → Owned), (∀ q s, Sound a s → Sound a (owner q s).1) →
      Sound a (takeRequest code b owner s) := fun b owner h => takeRequest_sound code b owner h k
  unfold serveFrame
  refine Sound.ite (take _ _ fun q _ => enterRequest_sound q) ?_
  refine Sound.ite (take _ _ fun q _ => amendRequest_sound q) ?_
  refine Sound.ite (take _ _ fun n _ => withdrawRequest_sound n) ?_
  refine Sound.ite (take _ _ fun n _ => queryRequest_sound n) ?_
  refine Sound.ite (take _ _ fun q _ => listRequest_sound q) ?_
  refine Sound.ite (take _ _ fun n _ => collectRequest_sound n) ?_
  refine Sound.ite (take _ _ fun n _ => abandonRequest_sound n) ?_
  refine Sound.ite (take _ _ fun q _ => trackSetRequest_sound q) ?_
  refine Sound.ite (take _ _ fun x _ => trackReadRequest_sound x) ?_
  refine Sound.ite (take _ _ fun x _ => sectionReadRequest_sound x) ?_
  refine Sound.ite (take _ _ fun q _ => pointModeRequest_sound q) ?_
  refine Sound.ite (take _ _ fun q _ => pointThrowRequest_sound q) ?_
  refine Sound.ite (take _ _ fun p _ => pointResetRequest_sound p) ?_
  refine Sound.ite (take _ _ fun p _ => pointReadRequest_sound p) ?_
  refine Sound.ite (take _ _ fun q _ => runRequest_sound q) ?_
  refine Sound.ite (take _ _ fun _ _ => warmReset_sound) ?_
  refine Sound.ite (take _ _ fun u _ => layoutLoadRequest_sound u) ?_
  refine Sound.ite (take _ _ fun q _ => layoutWriteRequest_sound q) ?_
  refine Sound.ite (take _ _ fun q _ => layoutCommitRequest_sound q) ?_
  refine Sound.ite (take _ _ fun x _ => layoutSelectRequest_sound x) ?_
  refine Sound.ite (take _ _ fun q _ => layoutReadRequest_sound q) ?_
  refine Sound.ite (take _ _ fun _ _ => id) ?_
  refine Sound.ite (take _ _ fun m _ => clearFlagsRequest_sound m) ?_
  refine Sound.ite (take _ _ fun m _ => enableFlagsRequest_sound m) ?_
  exact take _ _ fun _ _ => id

theorem completeFrame_sound (bytes : List Byte) (k : Sound a s) : Sound a (completeFrame bytes s) := by
  have hunted := (hunt_calm s).keeps.sound k
  unfold completeFrame
  split
  · dsimp only
    split
    · exact serveFrame_sound _ _ hunted
    · exact hunted
  · exact hunted

theorem byteArrives_sound (b : Byte) (k : Sound a s) : Sound a (byteArrives b s) := by
  have start : Sound a (if s.gapPassed then hunt s else s) := by
    split
    · exact (hunt_calm s).keeps.sound k
    · exact k
  unfold byteArrives
  generalize (if s.gapPassed then hunt s else s) = u at start
  have hunted := (hunt_calm u).keeps.sound start
  have collected : ∀ l, Sound a (collect l u) := fun l => (collect_calm u l).keeps.sound start
  unfold receiveByte
  split
  · split
    · exact collected _
    · exact start
  · exact hunted
  · split
    · exact hunted
    · exact collected _
  · dsimp only
    split
    · exact collected _
    · exact completeFrame_sound _ start

/-! ### The other events -/

theorem setInput_calm (s : State) (d : Nat) (i : Position) (on : Bool) : CalmMove s (setInput d i on s) :=
  calm_of_same (fun c => ⟨c.tracks, c.channels, c.sections, c.claims, Table.write_wf _ _ _ _ c.detections, c.points, c.slots, c.working,
    c.active, c.slotImages, c.commitImage⟩) rfl rfl rfl rfl rfl rfl rfl rfl rfl rfl

theorem detectionTaken_calm (s : State) (p : Nat) : CalmMove s (detectionTaken p s) := by
  unfold detectionTaken
  split
  · split
    · split
      · exact startSettle_calm s p _
      · split
        · exact becomeFault_calm s p
        · exact .refl s
    · exact .refl s
  · exact CalmMove.ite (.refl s) (becomeFault_calm s p)
  · exact CalmMove.ite (.refl s) (becomeFault_calm s p)
  · exact CalmMove.ite (changePoint_calm s p _) (.refl s)
  · exact .refl s

theorem detectionChanges_calm (s : State) (d : Nat) (i : Position) (on : Bool) : CalmMove s (detectionChanges d i on s) := by
  have set := setInput_calm s d i on
  unfold detectionChanges
  dsimp only
  split
  · split
    · exact (set.trans (detectionTaken_calm _ _)).trans (followUp_calm _ s _ _)
    · exact set
  · exact set

theorem limitPasses_calm (s : State) (p : Nat) : CalmMove s (limitPasses p s) := by
  unfold limitPasses
  split
  · exact (becomeFault_calm s p).trans (followUp_calm _ s _ _)
  · exact changePoint_calm s p _

theorem idlePasses_calm (s : State) (p : Nat) : CalmMove s (idlePasses p s) := (changePoint_calm s p _).trans (followUp_calm _ s _ _)

/-- A stall: the cut stays in the tree (R98). -/
theorem stallPasses_calm {n : Nat} {r : Record} (hn : (s.records.map Record.number).Nodup) (hr : s.record n = some r) (h : stallDue s r = true) :
    CalmMove s (stallPasses n r s) := by
  have inTree : r.state.inTree = true := by
    unfold stallDue at h
    split at h
    · simp only [Bool.and_eq_true, Bool.or_eq_true, beq_iff_eq] at h
      rcases h.1 with e | e <;> rw [e] <;> rfl
    · cases h
  refine (((changeRecord_calm s n _ fun q hq e => ?_).trans (addMarkIf_calm _ _ .foul n)).trans (latch_calm _ .stall))
  rw [eq_of_mem hn hr hq e]
  exact Record.calm_of rfl (.inr ⟨rfl, inTree⟩) rfl rfl rfl

theorem standPasses_calm (s : State) (n : Nat) : CalmMove s (standPasses n s) :=
  changeRecord_calm s n _ fun _ _ _ => Record.calm_of rfl (.inl rfl) rfl rfl rfl

theorem tick_calm (s : State) : CalmMove s (tick s) := by
  unfold tick
  split
  · exact calm_of_fields rfl rfl rfl rfl rfl rfl rfl rfl rfl rfl rfl rfl rfl rfl rfl rfl
  · exact pending_calm s _

/-- Power-on and the reset line leave an empty table and empty lists (R153). -/
theorem restarted_sound (k : Sound a s) : Sound a (restarted s) := by
  have c := k.1.canonical
  have image : ∀ d, loadable s = some d → Table.wf 0#8 d.image = true := fun d hd => by
    unfold loadable at hd
    dsimp only at hd
    split at hd
    · exact c.slotImages s.activeSlot d hd
    · cases hd
  unfold restarted
  generalize loadable s = l at image
  refine ⟨⟨⟨rfl, c.channels, rfl, rfl, c.detections, rfl, c.slots, ?_, fun i hi => ?_, c.slotImages, nofun⟩, ⟨Nat.zero_le _, List.nodup_nil,
    noRecord, List.nodup_nil, fun _ h => absurd h List.not_mem_nil, noRecord, ⟨Nat.le_refl _, Nat.le_of_ble_eq_true rfl⟩, rfl,
    Nat.zero_le _⟩, fun _ _ h => absurd h List.not_mem_nil, fun _ => List.nodup_nil, fun _ => Nat.zero_le _,
    fun _ _ h => absurd h List.not_mem_nil, fun _ => List.nodup_nil⟩,
    fun _ => ⟨fun _ => rfl, noRecord, noRecord, noRecord, fun _ h => absurd h (Option.some_ne_none _).symm, fun _ => rfl⟩⟩
  · cases l with
    | none => rfl
    | some d => exact image d rfl
  · obtain ⟨d, hd, rfl⟩ := Option.map_eq_some_iff.mp (show l.map SlotContents.image = some i from hi)
    exact image d hd

end

/-! ### Every command, and every step -/

section
variable {a : Prop} {s t : State}

/-- What a command leaves when it is taken whole. -/
theorem finished_sound {u : State} (h : Host.Outcome.next (finish u) = (.next t : Host.Outcome State Fault Refusal)) (k : Sound a u) :
    Sound a t := by
  injection h with h
  exact h ▸ (finish_calm u).keeps.sound k

/-- A command that takes effect under a condition, and otherwise leaves the board as it is. -/
theorem guarded_sound {c : Prop} [Decidable c] {u : State}
    (h : (if c then .next (finish u) else .next s : Host.Outcome State Fault Refusal) = .next t) (k : Sound a s) (ku : c → Sound a u) :
    Sound a t := by
  split at h
  · exact finished_sound h (ku ‹_›)
  · injection h with h
    exact h ▸ k

theorem exec_sectionOccupied_sound (n : Nat) (h : exec (.sectionOccupied n) s = .next t) (k : Sound a s) : Sound a t := by
  change execSectionOccupied n s = _ at h
  unfold execSectionOccupied at h
  split at h
  · cases h
  · split at h
    · injection h with h
      exact h ▸ k
    · exact finished_sound h (inputChanges_sound n true k)

theorem exec_detectionChange_sound (d : Nat) (i : Position) (on : Bool) (h : exec (.detectionChange d i on) s = .next t) (k : Sound a s) :
    Sound a t := by
  change execDetectionChange d i on s = _ at h
  unfold execDetectionChange at h
  split at h
  · cases h
  · split at h
    · injection h with h
      exact h ▸ k
    · exact finished_sound h ((detectionChanges_calm s d i on).keeps.sound k)

theorem exec_sectionClear_sound (n : Nat) (h : exec (.sectionClear n) s = .next t) (k : Sound a s) : Sound a t := by
  change execSectionClear n s = _ at h
  unfold execSectionClear at h
  split at h
  · cases h
  · exact guarded_sound h k fun _ => inputChanges_sound n false k

/-- The expiry of a cut's timer, for a cut with a record or without one. -/
theorem exec_cutTimer_sound (n : Nat) (f : Record → Host.Outcome State Fault Refusal) (h : (match s.record n with
      | none => Host.Outcome.next s
      | some r => f r) = Host.Outcome.next t) (k : Sound a s) (hf : ∀ r, s.record n = some r → f r = .next t → Sound a t) : Sound a t := by
  cases hr : s.record n with
  | none =>
    rw [hr] at h
    injection h with h
    exact h ▸ k
  | some r =>
    rw [hr] at h
    exact hf r hr h

/-- Every command keeps the agreement. -/
theorem exec_sound (c : Instr) (h : exec c s = .next t) (k : Sound a s) : Sound a t := by
  have hunted : Sound a (hunt s) := (hunt_calm s).keeps.sound k
  cases c with
  | enter b => exact finished_sound h (takeRequest_sound _ _ _ (fun q _ => enterRequest_sound q) k)
  | amend b => exact finished_sound h (takeRequest_sound _ _ _ (fun q _ => amendRequest_sound q) k)
  | withdraw b => exact finished_sound h (takeRequest_sound _ _ _ (fun n _ => withdrawRequest_sound n) k)
  | query b => exact finished_sound h (takeRequest_sound _ _ _ (fun n _ => queryRequest_sound n) k)
  | list b => exact finished_sound h (takeRequest_sound _ _ _ (fun q _ => listRequest_sound q) k)
  | collect b => exact finished_sound h (takeRequest_sound _ _ _ (fun n _ => collectRequest_sound n) k)
  | abandon b => exact finished_sound h (takeRequest_sound _ _ _ (fun n _ => abandonRequest_sound n) k)
  | trackSet b => exact finished_sound h (takeRequest_sound _ _ _ (fun q _ => trackSetRequest_sound q) k)
  | trackRead b => exact finished_sound h (takeRequest_sound _ _ _ (fun x _ => trackReadRequest_sound x) k)
  | sectionRead b => exact finished_sound h (takeRequest_sound _ _ _ (fun x _ => sectionReadRequest_sound x) k)
  | pointMode b => exact finished_sound h (takeRequest_sound _ _ _ (fun q _ => pointModeRequest_sound q) k)
  | pointThrow b => exact finished_sound h (takeRequest_sound _ _ _ (fun q _ => pointThrowRequest_sound q) k)
  | pointReset b => exact finished_sound h (takeRequest_sound _ _ _ (fun p _ => pointResetRequest_sound p) k)
  | pointRead b => exact finished_sound h (takeRequest_sound _ _ _ (fun p _ => pointReadRequest_sound p) k)
  | run b => exact finished_sound h (takeRequest_sound _ _ _ (fun q _ => runRequest_sound q) k)
  | warmReset b => exact finished_sound h (takeRequest_sound _ _ _ (fun _ _ => warmReset_sound) k)
  | layoutLoad b => exact finished_sound h (takeRequest_sound _ _ _ (fun u _ => layoutLoadRequest_sound u) k)
  | layoutWrite b => exact finished_sound h (takeRequest_sound _ _ _ (fun q _ => layoutWriteRequest_sound q) k)
  | layoutCommit b => exact finished_sound h (takeRequest_sound _ _ _ (fun q _ => layoutCommitRequest_sound q) k)
  | layoutSelect b => exact finished_sound h (takeRequest_sound _ _ _ (fun x _ => layoutSelectRequest_sound x) k)
  | layoutRead b => exact finished_sound h (takeRequest_sound _ _ _ (fun q _ => layoutReadRequest_sound q) k)
  | status b => exact finished_sound h (takeRequest_sound _ _ _ (fun _ _ => id) k)
  | clearFlags b => exact finished_sound h (takeRequest_sound _ _ _ (fun m _ => clearFlagsRequest_sound m) k)
  | enableFlags b => exact finished_sound h (takeRequest_sound _ _ _ (fun m _ => enableFlagsRequest_sound m) k)
  | unknownCode code body => exact finished_sound h (serveFrame_sound code body k)
  | requestHeld code body => exact finished_sound h (serveFrame_sound code body k)
  | frameBadCheck => injection h with h; exact h ▸ hunted
  | badStopBit => injection h with h; exact h ▸ hunted
  | interByteGap b => exact finished_sound h (byteArrives_sound b k)
  | startByte b => exact finished_sound h (byteArrives_sound b k)
  | badLengthByte b => exact finished_sound h (byteArrives_sound b k)
  | answerSent => injection h with h; exact h ▸ (sent_calm s).keeps.sound k
  | powerOn => exact finished_sound h (restarted_sound k)
  | resetLine => exact finished_sound h (restarted_sound k)
  | axlePulse => exact guarded_sound h k fun hs => takePulse_sound (by simpa [State.supervised] using hs) k
  | separation =>
    change execSeparation s = _ at h
    unfold execSeparation at h
    split at h
    · injection h with h
      exact h ▸ k
    · exact guarded_sound h k fun _ => separate_sound k
  | sectionOccupied n => exact exec_sectionOccupied_sound n h k
  | sectionClear n => exact exec_sectionClear_sound n h k
  | provingTimerExpiry x => exact guarded_sound h k fun _ => provingExpires_sound x k
  | stallDeadlineExpiry n =>
    exact exec_cutTimer_sound n _ h k fun r hr h => guarded_sound h k fun due => (stallPasses_calm k.1.ledger.numbers hr due).keeps.sound k
  | standTimerExpiry n =>
    exact exec_cutTimer_sound n _ h k fun r _ h => guarded_sound h k fun _ => (standPasses_calm s n).keeps.sound k
  | lastMomentExpiry n =>
    refine exec_cutTimer_sound n _ h k fun r hr h => guarded_sound h k fun due => (lastMomentExpires_keeps s hr ?_).sound k
    unfold lastMomentDue at due
    split at due
    · exact ((Bool.and_eq_true _ _).mp due).1
    all_goals cases due
  | detectionChange d i on => exact exec_detectionChange_sound d i on h k
  | throwLimitExpiry p => exact guarded_sound h k fun _ => (limitPasses_calm s p).keeps.sound k
  | settleTimerExpiry p => exact guarded_sound h k fun _ => ((changePoint_calm s p _).trans (followUp_calm _ s _ _)).keeps.sound k
  | idleTimerExpiry p => exact guarded_sound h k fun _ => (idlePasses_calm s p).keeps.sound k
  | commitComplete b =>
    change execCommitComplete b s = _ at h
    unfold execCommitComplete at h
    split at h
    · injection h with h
      exact h ▸ k
    · rename_i d hd
      exact finished_sound h ((completeCommit_calm hd b).keeps.sound k)
  | commitTimerExpiry =>
    change execCommitTimerExpiry s = _ at h
    unfold execCommitTimerExpiry at h
    split at h
    · injection h with h
      exact h ▸ k
    · exact guarded_sound h k fun _ => (endCommit_calm s _).keeps.sound k

/-- Every step keeps the agreement: a command at the front of the queue, or a tick. -/
theorem step_sound (h : step s = .next t) (k : Sound a s) : Sound a t := by
  unfold step at h
  split at h
  · injection h with h
    exact h ▸ (tick_calm s).keeps.sound k
  · exact exec_sound _ h ((pending_calm s _).keeps.sound k)

end

/-- Settles O7: the agreement without the accounts, kept by every step. -/
theorem stepsKeepFollowed : Obligations.StepsKeepFollowed := fun _ _ k h => (step_sound (a := False) h ⟨k, nofun⟩).1

/-- Settles O60: the agreement with the accounts, kept by every step. -/
theorem stepsKeepCommittedTotals : Obligations.StepsKeepCommittedTotals := fun _ _ k b h =>
  (step_sound (a := True) h ⟨k, fun _ => b⟩).2 trivial

end Sys2Proof.Machine
end

section
/-! The requests against single records: ENTER, AMEND of a PENDING record, WITHDRAW, QUERY, COLLECT, and what every refusal leaves (R36 to R46,
R162). -/

namespace Sys2Proof.Machine

/-! ### Bodies as they are parsed (R165) -/

theorem numOf2_byte2 {n : Nat} (h : n < 65536) : numOf2 (BitVec.ofNat 8 (n / 256)) (BitVec.ofNat 8 n) = n := by
  simp only [numOf2, BitVec.toNat_ofNat]
  omega

theorem toNat_byte {n : Nat} (h : n < 256) : (BitVec.ofNat 8 n).toNat = n := by
  rw [BitVec.toNat_ofNat]
  omega

theorem parseCut_byte2 {n : Nat} (h : n < 65536) : parseCut (byte2 n) = some n := congrArg some (numOf2_byte2 h)

theorem parseEnter_bytes {cut track len axles present before : Nat} (hc : cut < 65536) (ht : track < 256) (hl : len < 65536) (ha : axles < 256)
    (hp : present < 256) (hb : before < 65536) :
    parseEnter (byte2 cut ++ byte1 track ++ byte2 len ++ byte1 axles ++ byte1 present ++ byte2 before)
      = some { cut := cut, track := track, length := len, axles := axles, beforePresent := present, before := before } := by
  simp only [parseEnter, byte1, byte2, List.cons_append, List.nil_append, numOf2_byte2 hc, toNat_byte ht, numOf2_byte2 hl, toNat_byte ha,
    toNat_byte hp, numOf2_byte2 hb]

theorem parseAmend_bytes {n track len axles : Nat} (mask : Byte) (hn : n < 65536) (ht : track < 256) (hl : len < 65536) (ha : axles < 256) :
    parseAmend (byte2 n ++ [mask] ++ byte1 track ++ byte2 len ++ byte1 axles)
      = some { cut := n, mask := mask, track := track, length := len, axles := axles } := by
  simp only [parseAmend, byte1, byte2, List.cons_append, List.nil_append, numOf2_byte2 hn, toNat_byte ht, numOf2_byte2 hl, toNat_byte ha]

/-! ### A request taken at once (R162) -/

section
variable {α : Type} {s : State} {code : Byte} {owner : α → State → Owned}

theorem answering_hunt (hc : code.toNat < 0x80) (body : List Byte) : answering code body (hunt s) = answeredBy code body s := by
  unfold answering answeredBy answerCode
  rw [if_pos hc]
  rfl

theorem take_refused (h : Ready s) (hc : code.toNat < 0x80) {q : α} {c : ReplyCode} (refused : owner q (hunt s) = refuse c (hunt s)) :
    takeRequest code (some q) owner s = answeredBy code [replyByte c] s := by
  rw [takeRequest_taken s code owner q h.1 h.2, refused]
  exact answering_hunt hc _

theorem take_accepted (h : Ready s) {q : α} {body : List Byte} {u : State} (accepted : owner q (hunt s) = accept body u) :
    takeRequest code (some q) owner s = answering code (0x00#8 :: body) u := by
  rw [takeRequest_taken s code owner q h.1 h.2, accepted]
  rfl

end

/-! ### Refusals (R36, R162) -/

/-- An owner refuses, changing nothing, or accepts. -/
def Answers (s : State) (o : Owned) : Prop := (∃ c, o = refuse c s) ∨ ∃ l, o.2 = 0x00#8 :: l

section
variable {s t : State}

theorem refuse_answers (c : ReplyCode) : Answers s (refuse c s) := .inl ⟨c, rfl⟩

theorem accept_answers (body : List Byte) (u : State) : Answers s (accept body u) := .inr ⟨body, rfl⟩

theorem acceptImage_answers (before : State) (n : Nat) (u : State) : Answers s (acceptImage before n u) := accept_answers _ u

theorem Answers.ite {c : Prop} [Decidable c] {o p : Owned} (h : Answers s o) (k : Answers s p) : Answers s (if c then o else p) := by
  split <;> assumption

theorem enterRequest_answers (q : EnterBody) : Answers s (enterRequest q s) :=
  .ite (refuse_answers _) (.ite (refuse_answers _) (.ite (refuse_answers _) (.ite (refuse_answers _) (.ite (refuse_answers _)
    (accept_answers _ _)))))

theorem amendInTree_answers (q : AmendBody) (r : Record) : Answers s (amendInTree q r s) := by
  refine .ite (refuse_answers _) ?_
  split
  · exact acceptImage_answers _ _ _
  · exact .ite (acceptImage_answers _ _ _) (.ite (refuse_answers _) (.ite (refuse_answers _) (acceptImage_answers _ _ _)))

theorem amendRequest_answers (q : AmendBody) : Answers s (amendRequest q s) := by
  refine .ite (refuse_answers _) (.ite (refuse_answers _) ?_)
  split
  · exact refuse_answers _
  · split
    · exact acceptImage_answers _ _ _
    · exact amendInTree_answers q _
    · exact amendInTree_answers q _
    · exact amendInTree_answers q _
    all_goals exact refuse_answers _

theorem withdrawRequest_answers (n : Nat) : Answers s (withdrawRequest n s) :=
  .ite (refuse_answers _) (.ite (refuse_answers _) (.ite (refuse_answers _) (accept_answers _ _)))

theorem queryRequest_answers (n : Nat) : Answers s (queryRequest n s) :=
  .ite (refuse_answers _) (.ite (refuse_answers _) (accept_answers _ _))

theorem collectRequest_answers (n : Nat) : Answers s (collectRequest n s) :=
  .ite (refuse_answers _) (.ite (refuse_answers _) (.ite (refuse_answers _) (accept_answers _ _)))

theorem abandonRequest_answers (n : Nat) : Answers s (abandonRequest n s) :=
  .ite (refuse_answers _) (.ite (refuse_answers _) (.ite (refuse_answers _) (acceptImage_answers _ _ _)))

theorem trackSetRequest_answers (q : TrackSetBody) : Answers s (trackSetRequest q s) := by
  unfold trackSetRequest
  split
  · exact refuse_answers _
  · exact .ite (refuse_answers _) (accept_answers _ _)

theorem pointModeRequest_answers (q : ItemValue) : Answers s (pointModeRequest q s) := by
  refine .ite (refuse_answers _) ?_
  split
  · exact refuse_answers _
  · exact .ite (refuse_answers _) (accept_answers _ _)

theorem pointThrowRequest_answers (q : ItemValue) : Answers s (pointThrowRequest q s) := by
  refine .ite (refuse_answers _) ?_
  split
  · exact refuse_answers _
  · exact .ite (refuse_answers _) (.ite (refuse_answers _) (accept_answers _ _))

theorem pointResetRequest_answers (p : Nat) : Answers s (pointResetRequest p s) := by
  refine .ite (refuse_answers _) (.ite (refuse_answers _) ?_)
  split
  · exact refuse_answers _
  · exact .ite (refuse_answers _) (accept_answers _ _)

theorem clearFlagsRequest_answers (m : Nat) : Answers s (clearFlagsRequest m s) := .ite (refuse_answers _) (accept_answers _ _)

theorem enableFlagsRequest_answers (m : Nat) : Answers s (enableFlagsRequest m s) := .ite (refuse_answers _) (accept_answers _ _)

theorem layoutLoadRequest_answers (u : Unit) : Answers s (layoutLoadRequest u s) := by
  unfold layoutLoadRequest
  split
  · exact refuse_answers _
  · exact accept_answers _ _

theorem layoutWriteRequest_answers (q : WriteBody) : Answers s (layoutWriteRequest q s) :=
  .ite (refuse_answers _) (.ite (refuse_answers _) (accept_answers _ _))

theorem layoutCommitRequest_answers (q : CommitBody) : Answers s (layoutCommitRequest q s) :=
  .ite (refuse_answers _) (.ite (refuse_answers _) (accept_answers _ _))

theorem layoutSelectRequest_answers (x : Nat) : Answers s (layoutSelectRequest x s) := by
  refine .ite (refuse_answers _) (.ite (refuse_answers _) ?_)
  split
  · exact refuse_answers _
  · exact .ite (refuse_answers _) (accept_answers _ _)

theorem layoutReadRequest_answers (q : ReadBody) : Answers s (layoutReadRequest q s) := by
  refine .ite (refuse_answers _) (.ite (accept_answers _ _) ?_)
  split
  · exact refuse_answers _
  · exact accept_answers _ _

/-- RUN refuses, accepts, or answers CHECK_FAILED and latches the RUN flag (R149). -/
theorem runRequest_answers (q : ItemValue) :
    Answers s (runRequest q s) ∨ ∃ k, layoutCheck s.active = some k ∧ runRequest q s = (latch .run s, [0x0D#8, checkByte k]) := by
  unfold runRequest
  split
  · exact .inl (refuse_answers _)
  split
  · exact .inl (refuse_answers _)
  split
  · exact .inl (accept_answers _ _)
  split
  · exact .inl (refuse_answers _)
  · split
    · rename_i k hk
      exact .inr ⟨k, hk, rfl⟩
    · exact .inl (accept_answers _ _)
  · exact .inl (.ite (refuse_answers _) (accept_answers _ _))
  · exact .inl (accept_answers _ _)

/-- A request refused leaves the answer in hand, and nothing else changed. -/
def Refused (s t : State) (code : Byte) (a : Answer) (rest : List Byte) : Prop :=
  a.code = code + 0x80#8 ∧ t = finish { s with receiver := .hunting, inHand := some a } ∧ rest = []

/-- What an owner that refuses or accepts leaves, when the answer is no acceptance. -/
theorem owned_refusal {code : Byte} (hc : code.toNat < 0x80) {o : Owned} (owned : Answers (hunt s) o) (h : finish (answering code o.2 o.1) = t)
    {a : Answer} {b : Byte} {rest : List Byte} (ha : t.inHand = some a) (hb : a.body = b :: rest) (hne : b ≠ 0) : Refused s t code a rest := by
  rcases owned with ⟨c, rfl⟩ | ⟨l, e⟩
  · have refused : finish (answeredBy code [replyByte c] s) = t := (congrArg finish (answering_hunt hc _)).symm.trans h
    subst refused
    obtain rfl := Option.some.inj ha
    exact ⟨rfl, rfl, (List.cons.inj hb).2.symm⟩
  · rw [e] at h
    subst h
    obtain rfl := Option.some.inj ha
    exact absurd (List.cons.inj hb).1.symm hne

theorem take_refusal {α : Type} {code : Byte} (hc : code.toNat < 0x80) {body : Option α} {owner : α → State → Owned}
    (owned : ∀ q u, Answers u (owner q u)) (ready : Ready s)
    (h : Host.Outcome.next (finish (takeRequest code body owner s)) = (.next t : Host.Outcome State Fault Refusal)) {a : Answer} {b : Byte}
    {rest : List Byte} (ha : t.inHand = some a) (hb : a.body = b :: rest) (hne : b ≠ 0) : Refused s t code a rest := by
  injection h with h
  cases body with
  | none =>
    rw [takeRequest_badFormat s code owner ready.1 ready.2] at h
    exact owned_refusal hc (refuse_answers .badFormat) h ha hb hne
  | some q =>
    rw [takeRequest_taken s code owner q ready.1 ready.2] at h
    exact owned_refusal hc (owned q (hunt s)) h ha hb hne

/-- RUN refused, or its layout checks failed. -/
theorem run_refusal {body : List Byte} (ready : Ready s) (h : exec (.run body) s = .next t) {a : Answer} {b : Byte} {rest : List Byte}
    (ha : t.inHand = some a) (hb : a.body = b :: rest) (hne : b ≠ 0) :
    Refused s t 0x40#8 a rest
      ∨ a.code = 0x40#8 + 0x80#8 ∧ b = 0x0D#8 ∧ (∃ k, layoutCheck s.active = some k ∧ rest = [checkByte k])
        ∧ t = finish { s with receiver := .hunting, inHand := some a, flags := s.flags ||| 0x200 } := by
  change Host.Outcome.next (finish (takeRequest 0x40#8 (parseItemValue body) runRequest s)) = _ at h
  injection h with h
  generalize parseItemValue body = p at h
  cases p with
  | none =>
    rw [takeRequest_badFormat s _ runRequest ready.1 ready.2] at h
    exact .inl (owned_refusal (by decide) (refuse_answers .badFormat) h ha hb hne)
  | some q =>
    rw [takeRequest_taken s _ runRequest q ready.1 ready.2] at h
    rcases runRequest_answers q (s := hunt s) with owned | ⟨k, check, owned⟩
    · exact .inl (owned_refusal (by decide) owned h ha hb hne)
    · rw [owned] at h
      subst h
      obtain rfl := Option.some.inj ha
      obtain ⟨hb, hrest⟩ := List.cons.inj hb
      exact .inr ⟨rfl, hb.symm, ⟨k, check, hrest.symm⟩, rfl⟩

end

/-- Settles O14: each owner refuses or accepts, and a RUN may also fail its layout checks. -/
theorem refusalsChangeNothing : Obligations.RefusalsChangeNothing := by
  intro c code body s t a b rest frame ready h ha hb hne
  have plain : Refused s t code a rest → a.code = code + 0x80#8
      ∧ (t = finish { s with receiver := .hunting, inHand := some a } ∧ rest = []
        ∨ code = 0x40#8 ∧ b = 0x0D#8 ∧ (∃ k, layoutCheck s.active = some k ∧ rest = [checkByte k])
          ∧ t = finish { s with receiver := .hunting, inHand := some a, flags := s.flags ||| 0x200 }) :=
    fun ⟨number, same, last⟩ => ⟨number, .inl ⟨same, last⟩⟩
  cases c with
  | enter l => cases frame; exact plain (take_refusal (by decide) (fun q _ => enterRequest_answers q) ready h ha hb hne)
  | amend l => cases frame; exact plain (take_refusal (by decide) (fun q _ => amendRequest_answers q) ready h ha hb hne)
  | withdraw l => cases frame; exact plain (take_refusal (by decide) (fun n _ => withdrawRequest_answers n) ready h ha hb hne)
  | query l => cases frame; exact plain (take_refusal (by decide) (fun n _ => queryRequest_answers n) ready h ha hb hne)
  | list l => cases frame; exact plain (take_refusal (by decide) (fun _ _ => .ite (refuse_answers _) (accept_answers _ _)) ready h ha hb hne)
  | collect l => cases frame; exact plain (take_refusal (by decide) (fun n _ => collectRequest_answers n) ready h ha hb hne)
  | abandon l => cases frame; exact plain (take_refusal (by decide) (fun n _ => abandonRequest_answers n) ready h ha hb hne)
  | trackSet l => cases frame; exact plain (take_refusal (by decide) (fun q _ => trackSetRequest_answers q) ready h ha hb hne)
  | trackRead l => cases frame; exact plain (take_refusal (by decide) (fun _ _ => .ite (refuse_answers _) (accept_answers _ _)) ready h ha hb hne)
  | sectionRead l => cases frame; exact plain (take_refusal (by decide) (fun _ _ => .ite (refuse_answers _) (accept_answers _ _)) ready h ha hb hne)
  | pointMode l => cases frame; exact plain (take_refusal (by decide) (fun q _ => pointModeRequest_answers q) ready h ha hb hne)
  | pointThrow l => cases frame; exact plain (take_refusal (by decide) (fun q _ => pointThrowRequest_answers q) ready h ha hb hne)
  | pointReset l => cases frame; exact plain (take_refusal (by decide) (fun p _ => pointResetRequest_answers p) ready h ha hb hne)
  | pointRead l => cases frame; exact plain (take_refusal (by decide) (fun _ _ => .ite (refuse_answers _) (accept_answers _ _)) ready h ha hb hne)
  | run l =>
    cases frame
    rcases run_refusal ready h ha hb hne with e | ⟨number, failed⟩
    · exact plain e
    · exact ⟨number, .inr ⟨rfl, failed⟩⟩
  | warmReset l => cases frame; exact plain (take_refusal (by decide) (fun _ _ => accept_answers _ _) ready h ha hb hne)
  | layoutLoad l => cases frame; exact plain (take_refusal (by decide) (fun u _ => layoutLoadRequest_answers u) ready h ha hb hne)
  | layoutWrite l => cases frame; exact plain (take_refusal (by decide) (fun q _ => layoutWriteRequest_answers q) ready h ha hb hne)
  | layoutCommit l => cases frame; exact plain (take_refusal (by decide) (fun q _ => layoutCommitRequest_answers q) ready h ha hb hne)
  | layoutSelect l => cases frame; exact plain (take_refusal (by decide) (fun x _ => layoutSelectRequest_answers x) ready h ha hb hne)
  | layoutRead l => cases frame; exact plain (take_refusal (by decide) (fun q _ => layoutReadRequest_answers q) ready h ha hb hne)
  | status l => cases frame; exact plain (take_refusal (by decide) (fun _ _ => accept_answers _ _) ready h ha hb hne)
  | clearFlags l => cases frame; exact plain (take_refusal (by decide) (fun m _ => clearFlagsRequest_answers m) ready h ha hb hne)
  | enableFlags l => cases frame; exact plain (take_refusal (by decide) (fun m _ => enableFlagsRequest_answers m) ready h ha hb hne)
  | _ => cases frame

/-! ### WITHDRAW (R43) -/

section
variable {s : State} {n : Nat}

theorem withdrawRequest_pending (h0 : 1 ≤ n) (h : s.isIn n .pending = true) :
    withdrawRequest n s = accept (byte1 (withdrawn n s).freeSlots) (withdrawn n s) := by
  obtain ⟨r, hr, -⟩ := (isIn_iff s).mp h
  simp [withdrawRequest, Nat.pos_iff_ne_zero.mp h0, hr, h]

end

/-- Settles O26: each branch of `withdrawRequest`, through the link. -/
theorem withdrawFreesTheSlot : Obligations.WithdrawFreesTheSlot := by
  intro s n ready hn
  have served : exec (.withdraw (byte2 n)) s = .next (finish (takeRequest 0x12#8 (some n) withdrawRequest s)) := by
    rw [← parseCut_byte2 hn]; rfl
  rw [served]
  refine ⟨fun h0 => ?_, fun h0 absent => ?_, fun r h0 hr state => ?_, fun h0 pending => ?_⟩
  · rw [take_refused ready (by decide) (c := .badValue) (by simp [withdrawRequest, h0])]
    rfl
  · have missing : (hunt s).record n = none := absent
    rw [take_refused ready (by decide) (c := .notFound) (by simp [withdrawRequest, Nat.pos_iff_ne_zero.mp h0, missing])]
    rfl
  · have found : (hunt s).record n = some r := hr
    have out : (hunt s).isIn n .pending = false := by simp [State.isIn, found, state]
    rw [take_refused ready (by decide) (c := .wrongState) (by simp [withdrawRequest, Nat.pos_iff_ne_zero.mp h0, found, out])]
    rfl
  · rw [take_accepted ready (withdrawRequest_pending h0 pending)]
    rfl

/-! ### QUERY (R44) -/

section
variable {s : State} {n : Nat} {r : Record}

theorem record_clearUnseen (k : Nat) : (clearUnseen n s).record k = if k = n then (s.record k).map (fun r => { r with unseen := false }) else s.record k := by
  unfold State.record clearUnseen
  dsimp only
  rw [find_map_number (fun r => by split <;> rfl)]
  cases h : s.records.find? (fun r => r.number == k) with
  | none => simp
  | some r =>
    have hr : r.number = k := by simpa using List.find?_some h
    by_cases hk : k = n <;> simp [hr, hk]

theorem recordImageOf_some (hr : s.record n = some r) (unseen : Bool) :
    s.recordImageOf n unseen = recordImage r unseen (if r.state = .pending then queuePlace n s.queue else 0) := by
  unfold State.recordImageOf
  rw [hr]

theorem unseenOf_some (hr : s.record n = some r) : s.unseenOf n = r.unseen := by
  unfold State.unseenOf
  rw [hr]

end

/-- Settles O27: each branch of `queryRequest`, through the link. -/
theorem queryClearsUnseen : Obligations.QueryClearsUnseen := by
  have served : ∀ {n : Nat} (s : State), n < 65536 →
      exec (.query (byte2 n)) s = .next (finish (takeRequest 0x13#8 (some n) queryRequest s)) := fun s hn => by
    rw [← parseCut_byte2 hn]; rfl
  refine ⟨fun s n ready hn => ⟨fun h0 => ?_, fun h0 absent => ?_⟩, fun s n r ready h0 hn hr => ?_⟩
  · rw [served s hn, take_refused ready (by decide) (c := .badValue) (by simp [queryRequest, h0])]
    rfl
  · have missing : (hunt s).record n = none := absent
    rw [served s hn, take_refused ready (by decide) (c := .notFound) (by simp [queryRequest, Nat.pos_iff_ne_zero.mp h0, missing])]
    rfl
  · have found : (hunt s).record n = some r := hr
    have owned : queryRequest n (hunt s)
        = accept (recordImage r r.unseen (if r.state = .pending then queuePlace n s.queue else 0)) (clearUnseen n (hunt s)) := by
      simp only [queryRequest, Nat.pos_iff_ne_zero.mp h0, if_false, found, recordImageOf_some found, unseenOf_some found]
      rfl
    refine ⟨_, by rw [served s hn, take_accepted ready owned], rfl, ?_, fun k hk => ?_, rfl⟩
    · show (clearUnseen n (hunt s)).record n = _
      rw [record_clearUnseen, if_pos rfl, found]
      rfl
    · show (clearUnseen n (hunt s)).record k = _
      rw [record_clearUnseen, if_neg hk]
      rfl

/-! ### COLLECT (R46, R64) -/

/-- Settles O29: each branch of `collectRequest`, through the link. -/
theorem collectFreesTheSlot : Obligations.CollectFreesTheSlot := by
  have served : ∀ {n : Nat} (s : State), n < 65536 →
      exec (.collect (byte2 n)) s = .next (finish (takeRequest 0x15#8 (some n) collectRequest s)) := fun s hn => by
    rw [← parseCut_byte2 hn]; rfl
  refine ⟨fun s n ready hn => ⟨fun h0 => ?_, fun h0 absent => ?_, fun r h0 hr settled lost => ?_⟩, fun s n r ready h0 hn hr ended => ?_⟩
  · rw [served s hn, take_refused ready (by decide) (c := .badValue) (by simp [collectRequest, h0])]
    rfl
  · have missing : (hunt s).record n = none := absent
    rw [served s hn, take_refused ready (by decide) (c := .notFound) (by simp [collectRequest, Nat.pos_iff_ne_zero.mp h0, missing])]
    rfl
  · have found : (hunt s).record n = some r := hr
    have out : (hunt s).isIn n .settled = false ∧ (hunt s).isIn n .lost = false := by simp [State.isIn, found, settled, lost]
    rw [served s hn, take_refused ready (by decide) (c := .wrongState)
      (by simp [collectRequest, Nat.pos_iff_ne_zero.mp h0, found, out.1, out.2])]
    rfl
  · have found : (hunt s).record n = some r := hr
    have some : ¬ ((hunt s).isIn n .settled = false ∧ (hunt s).isIn n .lost = false) := by
      rcases ended with e | e <;> simp [State.isIn, found, e]
    have place : (if r.state = .pending then queuePlace n s.queue else 0) = 0 := by
      rcases ended with e | e <;> simp [e]
    have owned : collectRequest n (hunt s) = accept (recordImage r r.unseen 0) (collected n (hunt s)) := by
      rw [← place]
      simp only [collectRequest, Nat.pos_iff_ne_zero.mp h0, if_false, found, if_neg some, recordImageOf_some found, unseenOf_some found]
      rfl
    refine ⟨_, by rw [served s hn, take_accepted ready owned], rfl, ?_, fun k hk => ?_, ?_, ?_, rfl⟩
    · show (freeRecord n (hunt s)).record n = none
      rw [record_freeRecord, if_pos rfl]
    · show (freeRecord n (hunt s)).record k = _
      rw [record_freeRecord, if_neg hk]
      rfl
    · show (if s.crestCut = Option.some n then none else s.crestCut) ≠ Option.some n
      split
      · nofun
      · assumption
    · show (if s.target = Option.some n then none else s.target) ≠ Option.some n
      split
      · nofun
      · assumption

/-! ### ENTER (R37, R38) -/

section
variable {s : State} {n : Nat}

theorem enterValuesOk_iff (q : EnterBody) :
    enterValuesOk q s = true ↔ 1 ≤ q.cut ∧ q.cut ≤ 61439 ∧ (q.track = 0 ∨ trackUsed s.layout q.track = true) ∧ (50 ≤ q.length ∧ q.length ≤ 4000)
      ∧ (2 ≤ q.axles ∧ q.axles ≤ 120) ∧ q.beforePresent ≤ 1 ∧ ¬ (q.beforePresent = 1 ∧ q.before = 0) := by
  simp only [enterValuesOk, trackValueOk, lengthValueOk, axlesValueOk, Bool.and_eq_true, Bool.or_eq_true, decide_eq_true_eq, beq_iff_eq,
    Bool.not_eq_true', and_assoc, ← Bool.not_eq_true]

/-- A track in use, or none, is given by a byte. -/
theorem track_lt {x : Nat} (h : x = 0 ∨ trackUsed s.layout x = true) : x < 256 := by
  rcases h with rfl | h
  · decide
  · simp only [trackUsed, Bool.and_eq_true, decide_eq_true_eq] at h
    omega

theorem queuePlace_append {l : List Nat} (h : n ∉ l) (m : List Nat) : queuePlace n (l ++ n :: m) = l.length + 1 := by
  induction l with
  | nil => simp [queuePlace]
  | cons x l ih =>
    simp only [List.mem_cons, not_or] at h
    rw [List.cons_append, queuePlace, if_neg (Ne.symm h.1), ih h.2]
    rfl

theorem queueBefore_append {x : Nat} {l : List Nat} (h : x ∉ l) (m : List Nat) : queueBefore n x (l ++ x :: m) = l ++ n :: x :: m := by
  induction l with
  | nil => simp [queueBefore]
  | cons y l ih =>
    simp only [List.mem_cons, not_or] at h
    rw [List.cons_append, queueBefore, if_neg (Ne.symm h.1), ih h.2]
    rfl

theorem enterRequest_accepted {q : EnterBody} (hs : s.runState ≠ .halted) (ok : enterValuesOk q s = true) (free : s.record q.cut = none)
    (before : q.beforePresent = 1 → s.isIn q.before .pending = true) (slot : s.records.length < 48) :
    enterRequest q s
      = accept (byte1 (queuePlace q.cut (enterQueue q s.queue)) ++ byte1 (47 - s.records.length)) (enterAccepted q s) := by
  have room : s.freeSlots ≠ 0 := by
    have : Config.cutSlots = 48 := rfl
    unfold State.freeSlots
    omega
  have there : ¬ (q.beforePresent = 1 ∧ s.isIn q.before .pending = false) := fun h => by
    rw [before h.1] at h
    cases h.2
  have left : (enterAccepted q s).freeSlots = 47 - s.records.length := by
    show Config.cutSlots - (s.records ++ [_]).length = _
    have : Config.cutSlots = 48 := rfl
    rw [List.length_append, List.length_singleton]
    omega
  simp only [enterRequest, if_neg hs, ok, free, if_neg there, if_neg room, left]
  rfl

end

/-- Settles O22: the accepted branch of `enterRequest`, with the place the queue gives the cut. -/
theorem enterListsTheCut : Obligations.EnterListsTheCut := by
  have served : ∀ {cut track len axles present before : Nat} (s : State), Ready s → s.runState ≠ .halted → 1 ≤ cut → cut ≤ 61439 →
      (track = 0 ∨ trackUsed s.layout track = true) → 50 ≤ len → len ≤ 4000 → 2 ≤ axles → axles ≤ 120 → before < 65536 →
      present ≤ 1 → ¬ (present = 1 ∧ before = 0) → (present = 1 → s.isIn before .pending = true) → s.record cut = none →
      s.records.length < 48 →
      exec (.enter (byte2 cut ++ byte1 track ++ byte2 len ++ byte1 axles ++ byte1 present ++ byte2 before)) s
        = .next (finish (answering 0x10#8
            (0x00#8 :: (byte1 (queuePlace cut (enterQueue ⟨cut, track, len, axles, present, before⟩ s.queue)) ++ byte1 (47 - s.records.length)))
            (enterAccepted ⟨cut, track, len, axles, present, before⟩ (hunt s)))) := by
    intro cut track len axles present before s ready hs c1 c2 ht l1 l2 a1 a2 hb p1 p2 pending free slot
    have parsed := parseEnter_bytes (cut := cut) (track := track) (len := len) (axles := axles) (present := present) (before := before)
      (by omega) (track_lt ht) (by omega) (by omega) (by omega) hb
    have owned := enterRequest_accepted (s := hunt s) (q := ⟨cut, track, len, axles, present, before⟩) hs
      ((enterValuesOk_iff _).mpr ⟨c1, c2, ht, ⟨l1, l2⟩, ⟨a1, a2⟩, p1, p2⟩) free pending slot
    show Host.Outcome.next (finish (takeRequest 0x10#8 (parseEnter _) enterRequest s)) = _
    rw [parsed, take_accepted ready owned]
    rfl
  refine ⟨fun s cut track len axles before ready hs c1 c2 ht l1 l2 a1 a2 hb free notQueued slot => ?_,
    fun s cut track len axles before front back ready hs c1 c2 ht l1 l2 a1 a2 b1 b2 free notQueued slot hq first pending => ?_⟩
  · have place : queuePlace cut (enterQueue ⟨cut, track, len, axles, 0, before⟩ s.queue) = s.queue.length + 1 :=
      queuePlace_append notQueued []
    refine ⟨listedRecord ⟨cut, track, len, axles, 0, before⟩, ?_, ⟨rfl, rfl, rfl, rfl⟩, ⟨rfl, rfl, rfl, rfl, rfl⟩, ⟨rfl, rfl, rfl, rfl, rfl, rfl⟩,
      ⟨rfl, rfl, rfl, rfl, rfl, rfl⟩, rfl, rfl⟩
    rw [served s ready hs c1 c2 ht l1 l2 a1 a2 hb (by omega) (by omega) (by omega) free slot, place]
    rfl
  · have queue : enterQueue ⟨cut, track, len, axles, 1, before⟩ s.queue = front ++ cut :: before :: back := by
      rw [hq]
      exact queueBefore_append first back
    have place : queuePlace cut (enterQueue ⟨cut, track, len, axles, 1, before⟩ s.queue) = front.length + 1 := by
      rw [queue]
      exact queuePlace_append (fun h => notQueued (hq ▸ List.mem_append_left _ h)) _
    have lookup : ∀ k, (enterAccepted ⟨cut, track, len, axles, 1, before⟩ (hunt s)).record k
        = (s.record k).or (if cut = k then some (listedRecord ⟨cut, track, len, axles, 1, before⟩) else none) := fun k =>
      record_addRecord _ _ k
    refine ⟨_, served s ready hs c1 c2 ht l1 l2 a1 a2 b2 (by omega) (by omega) (fun _ => pending) free slot, queue, ?_, ?_, fun k hk => ?_, ?_⟩
    · rw [place]
      rfl
    · refine (isIn_iff _).mpr ⟨listedRecord ⟨cut, track, len, axles, 1, before⟩, (lookup cut).trans ?_, rfl⟩
      rw [free, if_pos rfl]
      rfl
    · refine (lookup k).trans ?_
      rw [if_neg (Ne.symm hk), Option.or_none]
    · rfl

/-- Settles O23: the refusals of `enterRequest`, in their order. -/
theorem enterRefusals : Obligations.EnterRefusals := by
  intro s cut track len axles present before ready hc ht hl ha hp hb bad answer
  have refused : ∀ {c : ReplyCode}, enterRequest ⟨cut, track, len, axles, present, before⟩ (hunt s) = refuse c (hunt s) → answer (replyByte c) :=
    fun e => by
      show Host.Outcome.next (finish (takeRequest 0x10#8 (parseEnter _) enterRequest s)) = _
      rw [parseEnter_bytes hc ht hl ha hp hb, take_refused ready (by decide) e]
  have ok : ¬ bad ↔ enterValuesOk ⟨cut, track, len, axles, present, before⟩ (hunt s) = true := by
    rw [enterValuesOk_iff]
    show ¬ bad ↔ _ ∧ _ ∧ (_ ∨ trackUsed s.layout track = true) ∧ _
    simp only [bad]
    cases trackUsed s.layout track with
    | false => simp only [and_true, Bool.false_eq_true, or_false]; omega
    | true => simp only [Bool.true_eq_false, and_false, false_or, or_true, true_and]; omega
  have bad' : bad → enterValuesOk ⟨cut, track, len, axles, present, before⟩ (hunt s) = false := fun h =>
    eq_false_of_ne_true fun e => ok.mpr e h
  refine ⟨fun hs => ?_, fun hs h => ?_, fun hs h found => ?_, fun hs h free one out => ?_, fun hs h free there full => ?_⟩
  · exact refused (c := .runState) (if_pos hs)
  · exact refused (c := .badValue) ((if_neg hs).trans (if_pos (bad' h)))
  · refine refused (c := .duplicate) ((if_neg hs).trans ((if_neg ?_).trans (if_pos found)))
    rw [ok.mp h]; nofun
  · refine refused (c := .notFound) ((if_neg hs).trans ((if_neg ?_).trans ((if_neg ?_).trans (if_pos ⟨one, out⟩))))
    · rw [ok.mp h]; nofun
    · rw [show (hunt s).record cut = none from free]; nofun
  · refine refused (c := .tableFull) ((if_neg hs).trans ((if_neg ?_).trans ((if_neg ?_).trans ((if_neg ?_).trans (if_pos ?_)))))
    · rw [ok.mp h]; nofun
    · rw [show (hunt s).record cut = none from free]; nofun
    · rintro ⟨one, out⟩
      rw [show (hunt s).isIn before .pending = true from there one] at out
      cases out
    · exact Nat.sub_eq_zero_of_le full

end Sys2Proof.Machine
end

section
/-! AMEND of a PENDING record and the refusals of AMEND, LIST, and ABANDON (R39 to R47). -/

namespace Sys2Proof.Machine

/-! ### AMEND (R39 to R42) -/

section
variable {s : State} {n : Nat} {r : Record}

theorem amendValuesOk_iff (q : AmendBody) :
    amendValuesOk q s = true ↔ q.cut ≠ 0 ∧ q.mask ≠ 0 ∧ q.mask.toNat < 8
      ∧ (q.namesTrack = true → q.track = 0 ∨ trackUsed s.layout q.track = true)
      ∧ (q.namesLength = true → 50 ≤ q.length ∧ q.length ≤ 4000) ∧ (q.namesAxles = true → 2 ≤ q.axles ∧ q.axles ≤ 120) := by
  simp only [amendValuesOk, trackValueOk, lengthValueOk, axlesValueOk, Bool.and_eq_true, Bool.or_eq_true, decide_eq_true_eq, beq_iff_eq,
    bne_iff_ne, Bool.not_eq_true', and_assoc, ← Bool.not_eq_true, Decidable.imp_iff_not_or]

/-- The flags after a change of one record: CUT_CHANGED latches exactly where a shown field is altered (R33). -/
theorem changeRecord_flags_of (hn : (s.records.map Record.number).Nodup) (hr : s.record n = some r) (f : Record → Record) :
    (changeRecord n f s).flags = if (f r).shown = r.shown then s.flags else s.flags ||| 0x001 := by
  have seen : (s.records.any fun q => q.number == n && decide ((f q).shown ≠ q.shown)) = decide ((f r).shown ≠ r.shown) := by
    rw [Bool.eq_iff_iff, List.any_eq_true, decide_eq_true_iff]
    constructor
    · rintro ⟨q, hq, h⟩
      rw [Bool.and_eq_true, beq_iff_eq, decide_eq_true_iff] at h
      exact eq_of_mem hn hr hq h.1 ▸ h.2
    · intro h
      exact ⟨r, record_mem s hr, by simp [record_number s hr, h]⟩
  unfold changeRecord
  rw [seen]
  by_cases h : (f r).shown = r.shown
  · rw [if_pos h, decide_eq_false (not_not.mpr h)]
    rfl
  · rw [if_neg h, decide_eq_true h]
    rfl

theorem amendRequest_absent {q : AmendBody} (hs : s.runState ≠ .halted) (ok : amendValuesOk q s = true) (absent : s.record q.cut = none) :
    amendRequest q s = refuse .notFound s := by
  unfold amendRequest
  rw [if_neg hs, if_neg (by rw [ok]; nofun), absent]

theorem amendRequest_inTree {q : AmendBody} (hs : s.runState ≠ .halted) (ok : amendValuesOk q s = true) (hr : s.record q.cut = some r)
    (hi : r.state.inTree = true) : amendRequest q s = amendInTree q r s := by
  unfold amendRequest
  rw [if_neg hs, if_neg (by rw [ok]; nofun), hr]
  cases e : r.state <;> rw [e] at hi <;> cases hi <;> simp only [e]

theorem amendRequest_ended {q : AmendBody} (hs : s.runState ≠ .halted) (ok : amendValuesOk q s = true) (hr : s.record q.cut = some r)
    (out : r.state = .joined ∨ r.state = .settled ∨ r.state = .lost) : amendRequest q s = refuse .wrongState s := by
  unfold amendRequest
  rw [if_neg hs, if_neg (by rw [ok]; nofun), hr]
  rcases out with e | e | e <;> simp only [e]

/-- The track alone is named, and another than the cut has (R40). -/
theorem amendInTree_moving {q : AmendBody} {a : Assignment} (alone : q.mask = 1) (ht : q.track ≠ 0) (ha : r.assigned = some a)
    (ne : a.track ≠ q.track) :
    amendInTree q r s = if s.tree.trackBelow q.track (r.head.getD 1) = false then refuse .tooLate s
      else if s.canTake q.track (s.groupLength q.cut) = false then refuse .cannotTake s
      else acceptImage s q.cut (amendTrack q.cut q.track s) := by
  have only : ¬ (q.namesLength = true ∨ q.namesAxles = true ∨ q.track = 0) := by
    unfold AmendBody.namesLength AmendBody.namesAxles
    rw [alone]
    simpa using ht
  unfold amendInTree
  rw [if_neg only, ha]
  exact if_neg ne

theorem amended_changed (q : AmendBody) (r : Record) :
    Record.changed (Record.amended q) r = { Record.amended q r with unseen := if (Record.amended q r).shown = r.shown then r.unseen else true }
      ∧ (Record.changed (Record.amended q) r).shown = (Record.amended q r).shown := by
  rw [Record.changed_eq]
  exact ⟨rfl, rfl⟩

/-- The board after an answer to a request that changed records alone. -/
theorem answered_only {w : State} (only : RecordsOnly (hunt s) w) (code : Byte) (body : List Byte) :
    finish (answering code body w) = { s with
      receiver := .hunting, inHand := (finish (answering code body w)).inHand, records := (finish (answering code body w)).records
      flags := (finish (answering code body w)).flags, humpPermit := (finish (answering code body w)).humpPermit
      attentionLine := (finish (answering code body w)).attentionLine } := by
  obtain ⟨records, flags, rfl⟩ : ∃ records flags, w = { hunt s with records := records, flags := flags } := ⟨_, _, only⟩
  rfl

/-- What an AMEND of a PENDING record answers, and the board it leaves (R39). -/
theorem amendRequest_pending {q : AmendBody} (hs : s.runState ≠ .halted) (ok : amendValuesOk q s = true) (hr : s.record q.cut = some r)
    (pending : r.state = .pending) :
    amendRequest q s = accept (recordImage (Record.changed (Record.amended q) r) r.unseen (queuePlace q.cut s.queue))
      (changeRecord q.cut (Record.amended q) s) := by
  have after : (changeRecord q.cut (Record.amended q) s).record q.cut = some (Record.changed (Record.amended q) r) := by
    rw [record_changeRecord_same _ q.cut (Record.amended q) (fun _ => rfl), hr]
    rfl
  have still : (Record.changed (Record.amended q) r).state = .pending := by rw [(amended_changed q r).1]; exact pending
  unfold amendRequest
  rw [if_neg hs, if_neg (by rw [ok]; nofun), hr]
  simp only [pending, acceptImage, recordImageOf_some after, unseenOf_some hr, still, if_true, changeRecord_queue]

end

/-- Settles O24: the refusals of `amendRequest` in their order, and the change of a PENDING record. -/
theorem amendPending : Obligations.AmendPending := by
  have served : ∀ {n track len axles : Nat} (mask : Byte) (s : State), n < 65536 → track < 256 → len < 65536 → axles < 256 →
      exec (.amend (byte2 n ++ [mask] ++ byte1 track ++ byte2 len ++ byte1 axles)) s
        = .next (finish (takeRequest 0x11#8 (some ⟨n, mask, track, len, axles⟩) amendRequest s)) := fun mask s hn ht hl ha => by
    rw [← parseAmend_bytes mask hn ht hl ha]; rfl
  constructor
  · intro s n track len axles mask ready hn ht hl ha bad answer
    have refused : ∀ {c : ReplyCode}, amendRequest ⟨n, mask, track, len, axles⟩ (hunt s) = refuse c (hunt s) → answer (replyByte c) :=
      fun e => by
        show exec _ s = _
        rw [served mask s hn ht hl ha, take_refused ready (by decide) e]
    have ok : ¬ bad → amendValuesOk ⟨n, mask, track, len, axles⟩ (hunt s) = true := fun h => by
      simp only [bad, not_or, not_and, not_lt, not_le, Bool.not_eq_false] at h
      obtain ⟨h0, hm, hm8, htr, hle, hax⟩ := h
      exact (amendValuesOk_iff _).mpr ⟨h0, hm, hm8, fun e => (Decidable.em (track = 0)).imp_right fun e' => htr e e', hle, hax⟩
    have bad' : bad → amendValuesOk ⟨n, mask, track, len, axles⟩ (hunt s) = false := fun h => by
      refine eq_false_of_ne_true fun e => ?_
      obtain ⟨h0, hm, hm8, htr, hle, hax⟩ := (amendValuesOk_iff _).mp e
      rcases h with h | h | h | ⟨h, h', h''⟩ | ⟨h, h'⟩ | ⟨h, h'⟩
      · exact h0 h
      · exact hm h
      · exact absurd hm8 (Nat.not_lt.mpr h)
      · have := (htr h).resolve_left h'
        rw [show trackUsed (hunt s).layout track = false from h''] at this
        cases this
      · have : 50 ≤ len ∧ len ≤ 4000 := hle h
        omega
      · have : 2 ≤ axles ∧ axles ≤ 120 := hax h
        omega
    refine ⟨fun hs => refused (c := .runState) (if_pos hs), fun hs h => refused (c := .badValue) ((if_neg hs).trans (if_pos (bad' h))),
      fun hs h absent => refused (amendRequest_absent (s := hunt s) hs (ok h) absent), fun r hs h hr => ⟨fun out => ?_, fun hi named => ?_, fun a hi one ht' ha' ne => ?_⟩⟩
    · exact refused (amendRequest_ended (s := hunt s) hs (ok h) hr out)
    · exact refused (c := .wrongState) ((amendRequest_inTree (s := hunt s) hs (ok h) hr hi).trans (if_pos named))
    · have moving := (amendRequest_inTree (s := hunt s) hs (ok h) hr hi).trans (amendInTree_moving one ht' ha' ne)
      refine ⟨fun above => refused (c := .tooLate) (moving.trans (if_pos above)), fun below full => ?_⟩
      refine refused (c := .cannotTake) (moving.trans ((if_neg ?_).trans (if_pos full)))
      rw [show (hunt s).tree.trackBelow track (r.head.getD 1) = true from below]
      nofun
  · intro s n track len axles mask r ready hs h1 hn nodup hr pending m0 m8 ht hl ha okTrack okLength okAxles
    have ok : amendValuesOk ⟨n, mask, track, len, axles⟩ (hunt s) = true :=
      (amendValuesOk_iff _).mpr ⟨Nat.one_le_iff_ne_zero.mp h1, m0, m8, okTrack, okLength, okAxles⟩
    have owned := amendRequest_pending (s := hunt s) hs ok hr pending
    obtain ⟨changed, shown⟩ := amended_changed ⟨n, mask, track, len, axles⟩ r
    have flags := changeRecord_flags_of (s := hunt s) nodup hr (Record.amended ⟨n, mask, track, len, axles⟩)
    have only := changeRecord_only (hunt s) n (Record.amended ⟨n, mask, track, len, axles⟩)
    refine ⟨_, Record.changed (Record.amended ⟨n, mask, track, len, axles⟩) r, by rw [served mask s hn ht hl ha, take_accepted ready owned],
      ?_, ?_⟩
    · show (changeRecord n (Record.amended ⟨n, mask, track, len, axles⟩) (hunt s)).record n = _
      rw [record_changeRecord_same _ n (Record.amended ⟨n, mask, track, len, axles⟩) (fun _ => rfl)]
      exact congrArg (Option.map _) hr
    refine ⟨?_, ?_, ?_, ?_, fun same => ⟨?_, ?_⟩, fun differ => ⟨?_, ?_⟩, fun k hk => ?_, rfl, ?_⟩
    · rw [changed]; rfl
    · rw [changed]; rfl
    · rw [changed]; rfl
    · rw [changed]; rfl
    · rw [shown] at same
      rw [changed, if_pos same]
    · rw [shown] at same
      exact flags.trans (if_pos same)
    · rw [shown] at differ
      rw [changed, if_neg differ]
    · rw [shown] at differ
      exact flags.trans (if_neg differ)
    · exact record_changeRecord_other _ (Record.amended ⟨n, mask, track, len, axles⟩) (fun _ => rfl) hk
    · exact answered_only only _ _

end Sys2Proof.Machine
end

section
/-! LIST: the order by release sequence, and the records that pass (R26, R45). -/

namespace Sys2Proof.Machine

variable {s : State} {n m k : Nat}

/-! ### The order by release sequence (R26) -/

theorem State.ReleasedBefore.trans (h : s.ReleasedBefore n m) (k' : s.ReleasedBefore m k) : s.ReleasedBefore n k := by
  unfold State.ReleasedBefore at *
  omega

theorem State.releasedBefore_of_not (ne : n ≠ m) (h : ¬ s.ReleasedBefore n m) : s.ReleasedBefore m n := by
  unfold State.ReleasedBefore at *
  omega

/-- A cut not in a sorted list, put at its place, leaves the list sorted. -/
theorem insertCut_pairwise {l : List Nat} (sorted : l.Pairwise s.ReleasedBefore) (new : n ∉ l) : (insertCut s n l).Pairwise s.ReleasedBefore := by
  induction l with
  | nil => exact List.pairwise_singleton _ _
  | cons m l ih =>
    obtain ⟨first, rest⟩ := List.pairwise_cons.mp sorted
    obtain ⟨ne, new⟩ := not_or.mp (List.mem_cons.not.mp new)
    unfold insertCut
    split
    · rename_i h
      have before := (s.earlier_iff n m).mp h
      refine List.pairwise_cons.mpr ⟨fun k hk => ?_, sorted⟩
      rcases List.mem_cons.mp hk with rfl | hk
      · exact before
      · exact before.trans (first k hk)
    · rename_i h
      have after : s.ReleasedBefore m n := State.releasedBefore_of_not ne fun e => h ((s.earlier_iff n m).mpr e)
      refine List.pairwise_cons.mpr ⟨fun k hk => ?_, ih rest new⟩
      rcases List.mem_cons.mp ((insertCut_perm s n l).mem_iff.mp hk) with rfl | hk
      · exact after
      · exact first k hk

theorem sortCuts_pairwise {l : List Nat} (once : l.Nodup) : (sortCuts s l).Pairwise s.ReleasedBefore := by
  suffices all : ∀ l acc : List Nat, (acc ++ l).Nodup → acc.Pairwise s.ReleasedBefore →
      (l.foldl (fun acc n => insertCut s n acc) acc).Pairwise s.ReleasedBefore from all l [] once .nil
  intro l
  induction l with
  | nil => exact fun _ _ h => h
  | cons n l ih =>
    intro acc once sorted
    have once' : (n :: acc ++ l).Nodup := (List.perm_middle.nodup_iff).mp once
    have new : n ∉ acc := fun h => (List.nodup_cons.mp once').1 (List.mem_append_left l h)
    exact ih (insertCut s n acc) ((((insertCut_perm s n acc).append_right l).nodup_iff).mpr once') (insertCut_pairwise sorted new)

/-- Only the ages of the cuts are read by the order. -/
theorem insertCut_congr {t : State} (h : ∀ k, t.age k = s.age k) (n : Nat) (l : List Nat) : insertCut t n l = insertCut s n l := by
  induction l with
  | nil => rfl
  | cons m l ih =>
    have same : t.earlier n m = s.earlier n m := by simp only [State.earlier, h]
    unfold insertCut
    rw [same, ih]

theorem sortCuts_congr {t : State} (h : ∀ k, t.age k = s.age k) (l : List Nat) : sortCuts t l = sortCuts s l := by
  unfold sortCuts
  rw [show (fun acc n => insertCut t n acc) = fun acc n => insertCut s n acc from funext fun acc => funext fun n => insertCut_congr h n acc]

/-! ### The records that pass (R45) -/

theorem listPasses_iff {states : Byte} {only : Nat} (one : only ≤ 1) (r : Record) :
    listPasses ⟨states, only⟩ r = true
      ↔ (states = 0 ∨ states.getLsbD (stateCode r.state - 1) = true) ∧ (only = 1 → r.unseen = true) := by
  simp only [listPasses, stateInSet, Bool.and_eq_true, Bool.or_eq_true, beq_iff_eq]
  refine and_congr_right fun _ => ?_
  rcases Nat.le_one_iff_eq_zero_or_eq_one.mp one with rfl | rfl <;> simp

/-- The PENDING cuts that LIST names, in the order of the queue. -/
def State.listedWaiting (s : State) (q : ListBody) : List Nat :=
  s.queue.filter fun n => (((s.records.filter (listPasses q)).filter (fun r => r.state == .pending)).map Record.number).contains n

/-- The other cuts that LIST names, the earliest first. -/
def State.listedGone (s : State) (q : ListBody) : List Nat :=
  sortCuts s (((s.records.filter (listPasses q)).filter (fun r => r.state != .pending)).map Record.number)

theorem listNumbers_eq (q : ListBody) : listNumbers q s = s.listedWaiting q ++ s.listedGone q := rfl

theorem mem_listedWaiting (h : Ledger s) {q : ListBody} :
    n ∈ s.listedWaiting q ↔ ∃ r ∈ s.records, r.number = n ∧ listPasses q r = true ∧ r.state = .pending := by
  simp only [State.listedWaiting, List.mem_filter, List.contains_eq_mem, List.mem_map, decide_eq_true_eq, beq_iff_eq]
  constructor
  · rintro ⟨-, r, ⟨⟨hr, passes⟩, pending⟩, number⟩
    exact ⟨r, hr, number, passes, pending⟩
  · rintro ⟨r, hr, number, passes, pending⟩
    exact ⟨number ▸ h.pendings r hr pending, r, ⟨⟨hr, passes⟩, pending⟩, number⟩

theorem mem_listedGone {q : ListBody} :
    n ∈ s.listedGone q ↔ ∃ r ∈ s.records, r.number = n ∧ listPasses q r = true ∧ r.state ≠ .pending := by
  simp only [State.listedGone, (sortCuts_perm s _).mem_iff, List.mem_filter, List.mem_map, bne_iff_ne]
  constructor
  · rintro ⟨r, ⟨⟨hr, passes⟩, gone⟩, number⟩
    exact ⟨r, hr, number, passes, gone⟩
  · rintro ⟨r, hr, number, passes, gone⟩
    exact ⟨r, ⟨⟨hr, passes⟩, gone⟩, number⟩

theorem mem_listed (h : Ledger s) {q : ListBody} :
    n ∈ s.listedWaiting q ++ s.listedGone q ↔ ∃ r ∈ s.records, r.number = n ∧ listPasses q r = true := by
  rw [List.mem_append, mem_listedWaiting h, mem_listedGone]
  constructor
  · rintro (⟨r, hr, number, passes, -⟩ | ⟨r, hr, number, passes, -⟩) <;> exact ⟨r, hr, number, passes⟩
  · rintro ⟨r, hr, number, passes⟩
    rcases eq_or_ne r.state .pending with e | e
    · exact .inl ⟨r, hr, number, passes, e⟩
    · exact .inr ⟨r, hr, number, passes, e⟩

theorem listedGone_pairwise (h : Ledger s) (q : ListBody) : (s.listedGone q).Pairwise s.ReleasedBefore :=
  sortCuts_pairwise (h.numbers.sublist ((List.filter_sublist.trans List.filter_sublist).map Record.number))

end Sys2Proof.Machine

namespace Sys2Proof.Machine

/-- Settles O28: the numbers answered are those that pass, by `mem_listed`, and the sort is by release sequence. -/
theorem listAnswersThePassing : Obligations.ListAnswersThePassing := by
  constructor
  · intro s states only ready bad
    show Host.Outcome.next (finish (takeRequest 0x14#8 (some ⟨states, only.toNat⟩) listRequest s)) = _
    rw [take_refused ready (by decide) (c := .badValue) (if_pos bad)]
    rfl
  · intro s states only ready ledger small one
    have served : exec (.list (states :: byte1 only)) s = .next (finish (takeRequest 0x14#8 (some ⟨states, only⟩) listRequest s)) := by
      have body : parseList (states :: byte1 only) = some ⟨states, only⟩ := by
        rw [show parseList (states :: byte1 only) = some ⟨states, (BitVec.ofNat 8 only).toNat⟩ from rfl,
          BitVec.toNat_ofNat, Nat.mod_eq_of_lt (by omega)]
      rw [← body]
      rfl
    have good : ¬ (states.toNat ≥ 0x80 ∨ only > 1) := by omega
    refine ⟨s.listedWaiting ⟨states, only⟩, s.listedGone ⟨states, only⟩, ?_, fun n => ?_, List.filter_sublist, fun n hn => ?_, fun n hn => ?_, ?_⟩
    · rw [served, take_accepted ready (if_neg good)]
      have numbers : listNumbers ⟨states, only⟩ (hunt s) = s.listedWaiting ⟨states, only⟩ ++ s.listedGone ⟨states, only⟩ := by
        rw [listNumbers_eq, State.listedGone, sortCuts_congr (s := s) (t := hunt s) fun _ => rfl]
        rfl
      rw [answering_hunt (by decide), numbers, List.length_append, List.cons_append]
    · rw [mem_listed ledger]
      simp only [listPasses_iff one]
    · exact ledger.queued n (List.filter_sublist.subset hn)
    · obtain ⟨r, hr, number, -, gone⟩ := mem_listedGone.mp hn
      have record : s.record n = some r := number ▸ record_of_mem ledger.numbers hr
      refine eq_false_of_ne_true fun h => ?_
      obtain ⟨w, hw, pending⟩ := (isIn_iff s).mp h
      exact gone (Option.some.inj (record.symm.trans hw) ▸ pending)
    · exact (listedGone_pairwise ledger _).imp fun h => h.imp_right fun e => ⟨e.1.symm, e.2⟩

end Sys2Proof.Machine
end

section
/-! What the end of a change leaves of the records and the rest of the board, what a departure leaves, and ABANDON (R30, R47, R78, R96, R122). -/

namespace Sys2Proof.Machine

/-! ### Flags stay (R170) -/

/-- Every flag latched before is latched after. -/
def FlagsStay (s t : State) : Prop := ∀ c, latched c s = true → latched c t = true

theorem FlagsStay.refl (s : State) : FlagsStay s s := fun _ h => h

theorem FlagsStay.trans {s t u : State} (h : FlagsStay s t) (k : FlagsStay t u) : FlagsStay s u := fun c e => k c (h c e)

theorem Replans.flagsStay {n : Nat} {s t : State} (h : Replans n s t) : FlagsStay s t := fun _ e => h.latched e

theorem flagsStay_of_eq {s t : State} (h : t.flags = s.flags) : FlagsStay s t := fun c e => by
  unfold latched at *
  rwa [h]

section
variable {s : State} {n : Nat} {r : Record}

/-- A change that the record image shows sets the unseen mark and latches CUT_CHANGED (R33). -/
theorem Record.changed_of_ne {f : Record → Record} (h : (f r).shown ≠ r.shown) : Record.changed f r = { f r with unseen := true } := by
  rw [Record.changed_eq, if_neg h]

theorem latched_changeRecord (hr : s.record n = some r) {f : Record → Record} (h : (f r).shown ≠ r.shown) :
    latched .cutChanged (changeRecord n f s) = true := by
  unfold changeRecord
  rw [latched_latchIf, Bool.or_eq_true, Bool.and_eq_true]
  refine .inr ⟨List.any_eq_true.mpr ⟨r, record_mem s hr, ?_⟩, rfl⟩
  simp [record_number s hr, h]

theorem withState_shown {w : Record} (h : w.state ≠ r.state) : w.shown ≠ r.shown := fun e => by
  have same := congrArg Record.state e
  exact h same

/-! ### What follows a change (R120, R122) -/

theorem chooseWatch_still (k : Nat) (hr : s.record n = some r) (still : ¬ (r.state = .releasing ∨ r.state = .rolling)) :
    (chooseWatch k s).record n = some r := by
  unfold chooseWatch
  cases hk : s.record k with
  | none => exact hr
  | some q =>
    dsimp only
    split
    · rename_i moving
      have ne : n ≠ k := fun e => by
        subst e
        exact still (Option.some.inj (hr.symm.trans hk) ▸ moving)
      rw [record_congr (expireAtOnce_records _ _), record_changeRecord_other s _ (fun _ => by cases s.watchPoint q <;> rfl) ne, hr]
    · exact hr

theorem chooseWatches_still (l : List Nat) (hr : s.record n = some r) (still : ¬ (r.state = .releasing ∨ r.state = .rolling)) :
    (l.foldl (fun s k => chooseWatch k s) s).record n = some r := by
  induction l generalizing s with
  | nil => exact hr
  | cons k l ih => exact ih (chooseWatch_still k hr still)

variable (old : State) (ps cs : List Nat)

/-- What follows a change leaves a record that is not on its way as it is. -/
theorem followUp_still (hr : s.record n = some r) (still : ¬ (r.state = .releasing ∨ r.state = .rolling)) :
    (followUp old ps cs s).record n = some r :=
  chooseWatches_still _ ((record_congr (takeDecisions_records s old ps).1 n).trans hr) still

/-- What follows a change touches the watch fields of a record at most. -/
theorem followUp_agrees (hr : s.record n = some r) : ∃ w, (followUp old ps cs s).record n = some w ∧ w.AgreesButWatch r := by
  obtain ⟨w, hw, agrees, -⟩ := chooseWatches_record (takeDecisions old ps s) _ ((record_congr (takeDecisions_records s old ps).1 n).trans hr)
  exact ⟨w, hw, agrees⟩

theorem followUp_numbers : (followUp old ps cs s).records.map Record.number = s.records.map Record.number :=
  State.Pairs.numbers (fun _ _ h => h.number) (followUp_calm s old ps cs).records

theorem followUp_flagsStay : FlagsStay s (followUp old ps cs s) := (followUp_replans s 0 old ps cs).flagsStay

theorem followUp_sections : (followUp old ps cs s).sections = s.sections := by
  obtain ⟨l, h⟩ := followUp_watch s old ps cs
  rw [h]

theorem followUp_inTree : (followUp old ps cs s).inTree = s.inTree := (followUp_calm s old ps cs).inTree

theorem followUp_claimOf (p m : Nat) : (followUp old ps cs s).claimOf p m = s.claimOf p m := by
  unfold State.claimOf State.claimsAt
  rw [(followUp_claims s old ps cs).1]

theorem followUp_track (x : Nat) : (followUp old ps cs s).track x = s.track x := by
  unfold State.track
  rw [(followUp_claims s old ps cs).2]

theorem followUp_section (x : Nat) : (followUp old ps cs s).section x = s.section x := by
  unfold State.section
  rw [followUp_sections]

end

/-! ### Departures (R28, R30, R96, R117) -/

section
variable {s t : State} {n : Nat} {f g : Record → Record}

/-- The cut `n` has gone from the tree with its JOINED followers: its record is changed by `f`, theirs by `g`. -/
structure Departed (f g : Record → Record) (n : Nat) (s t : State) : Prop where
  record : ∀ k, t.record k = (s.record k).map (Record.depart n (s.joinedFollowers n) f g)
  claimsAt : ∀ q, t.claimsAt q = (s.claimsAt q).filter (fun c => c.cut != n)
  occupants : ∀ x, (t.section x).occupants = (s.section x).occupants.filter (fun m => m != n)
  inTree : t.inTree = s.inTree - 1
  flags : FlagsStay s t

theorem Departed.claimOf (h : Departed f g n s t) (q : Nat) : t.claimOf q n = none := by
  unfold State.claimOf
  rw [h.claimsAt, List.find?_eq_none]
  intro c hc
  simpa using (List.mem_filter.mp hc).2

theorem Departed.not_mem (h : Departed f g n s t) (x : Nat) : n ∉ (t.section x).occupants := by
  rw [h.occupants]
  exact fun e => by simpa using (List.mem_filter.mp e).2

theorem Departed.of_cut (h : Departed f g n s t) {r : Record} (hr : s.record n = some r) : t.record n = some (Record.changed f r) := by
  rw [h.record, hr, Option.map_some, Record.depart, if_pos (record_number s hr)]

/-- Each JOINED follower goes with the cut (R30). -/
theorem Departed.of_follower (h : Departed f g n s t) (ht : s.isInTree n = true) {m : Nat} (hm : m ∈ s.joinedFollowers n) :
    ∃ q, s.record m = some q ∧ t.record m = some (Record.changed g q) := by
  obtain ⟨q, hq, -⟩ := (isIn_iff s).mp (mem_joinedFollowers.mp hm).1
  have number := record_number s hq
  refine ⟨q, hq, ?_⟩
  rw [h.record, hq, Option.map_some, Record.depart, if_neg, if_pos (number ▸ hm)]
  rw [number]
  rintro rfl
  exact not_mem_joinedFollowers ht hm

theorem leftLists_flagsStay (l : List Nat) : FlagsStay s (leaveSections l n (withdrawAll n s)) := by
  refine flagsStay_of_eq ?_
  rw [leftLists_frame]

theorem sendAway_flagsStay : FlagsStay (changeRecord n f s) (sendAway f g n s) :=
  (((flagsStay_of_eq rfl).trans (changeRecords_replans (leaveTree (changeRecord n f s)) n _ g).flagsStay)).trans (leftLists_flagsStay _)

theorem sendAway_departed (hf : Record.Ends f) (hg : Record.Ends g) (h : s.isInTree n = true) : Departed f g n s (sendAway f g n s) where
  record := sendAway_record hf hg h
  claimsAt := sendAway_claimsAt s n
  occupants := sendAway_occupants s n
  inTree := by rw [sendAway_frame]
  flags := (changeRecord_replans s n n f).flagsStay.trans sendAway_flagsStay

/-- Lengths taken off a track leave the records, the claims, the lists and the count. -/
theorem Departed.congr {u : State} (h : Departed f g n s t) (records : u.records = t.records) (claims : u.claims = t.claims)
    (sections : u.sections = t.sections) (inTree : u.inTree = t.inTree) (flags : FlagsStay t u) : Departed f g n s u where
  record k := (record_congr records k).trans (h.record k)
  claimsAt q := by rw [← h.claimsAt, State.claimsAt, State.claimsAt, claims]
  occupants x := by rw [← h.occupants, State.section, State.section, sections]
  inTree := inTree.trans h.inTree
  flags := h.flags.trans flags

theorem track_releaseFrom (x : Option Nat) (len y : Nat) :
    (releaseFrom x len s).track y
      = { s.track y with committed := (s.track y).committed - if x = some y then len else 0 } := by
  cases x with
  | none => simp [releaseFrom]
  | some x =>
    rw [releaseFrom, releaseLength, track_changeTrack]
    by_cases h : y = x
    · subst h; simp
    · simp [h, Ne.symm h]

/-- What a cut LOST leaves (R28, R30, R78, R96). -/
theorem loseCut_departed (why : LostReason) (h : s.isInTree n = true) :
    Departed (Record.lose why) (Record.lose .leaderLost) n s (loseCut why n s) := by
  have away : Departed (Record.lose why) (Record.lose .leaderLost) n s
      (sendAway (Record.lose why) (Record.lose .leaderLost) n (latch .lost s)) :=
    { sendAway_departed (lose_ends why) (lose_ends .leaderLost) (s := latch .lost s) h with
      flags := (latch_replans s n .lost).flagsStay.trans (sendAway_departed (lose_ends why) (lose_ends _) (s := latch .lost s) h).flags }
  rw [loseCut_eq s why h]
  generalize sendAway (Record.lose why) (Record.lose .leaderLost) n (latch .lost s) = u at *
  refine away.congr (releaseFrom_records u _ _) (releaseFrom_claims u _ _) ?_ ?_ (releaseFrom_replans u n _ _).flagsStay
  all_goals
    cases s.assignedTrack n with
    | none => rfl
    | some x => simp [releaseFrom, releaseLength]

theorem loseCut_track (why : LostReason) (h : s.isInTree n = true) (y : Nat) :
    (loseCut why n s).track y
      = { s.track y with committed := (s.track y).committed - if s.assignedTrack n = some y then s.groupLength n else 0 } := by
  have same : (sendAway (Record.lose why) (Record.lose .leaderLost) n (latch .lost s)).track y = s.track y := by
    unfold State.track
    rw [sendAway_tracks]
    rfl
  rw [loseCut_eq s why h, track_releaseFrom, same]

theorem loseCut_latched (why : LostReason) (h : s.isInTree n = true) :
    latched .lost (loseCut why n s) = true ∧ latched .cutChanged (loseCut why n s) = true := by
  obtain ⟨r, hr, ht⟩ := (isInTree_iff s).mp h
  have shown : (Record.lose why r).shown ≠ r.shown := withState_shown fun e => by
    rw [← e] at ht
    cases ht
  have stay : FlagsStay (changeRecord n (Record.lose why) (latch .lost s)) (loseCut why n s) := by
    rw [loseCut_eq s why h]
    exact sendAway_flagsStay.trans (releaseFrom_replans _ n _ _).flagsStay
  exact ⟨stay _ ((changeRecord_replans _ n n _).latched (by rw [latched_latch]; simp)),
    stay _ (latched_changeRecord (s := latch .lost s) hr shown)⟩

/-- The record of a cut that was in the tree and is LOST. -/
theorem lose_changed (why : LostReason) {r : Record} (h : r.state ≠ .lost) :
    Record.changed (Record.lose why) r = { Record.lose why r with unseen := true } :=
  Record.changed_of_ne (withState_shown fun e => h e.symm)

end

/-! ### ABANDON (R47) -/

section
variable {s : State}

/-- The board after an answer to a request that may have moved cuts. -/
theorem answered_hump {w : State} (only : HumpFrame (hunt s) w) (code : Byte) (body : List Byte) :
    finish (answering code body w) = { s with
      pending := (finish (answering code body w)).pending, receiver := .hunting, inHand := (finish (answering code body w)).inHand
      records := (finish (answering code body w)).records, inTree := (finish (answering code body w)).inTree
      tracks := (finish (answering code body w)).tracks, sections := (finish (answering code body w)).sections
      claims := (finish (answering code body w)).claims, points := (finish (answering code body w)).points
      flags := (finish (answering code body w)).flags, humpPermit := (finish (answering code body w)).humpPermit
      attentionLine := (finish (answering code body w)).attentionLine } := by
  obtain ⟨pending, records, inTree, tracks, sections, claims, points, flags, rfl⟩ :
      ∃ pending records inTree tracks sections claims points flags, w = { hunt s with
        pending := pending, records := records, inTree := inTree, tracks := tracks, sections := sections, claims := claims
        points := points, flags := flags } := by
    obtain ⟨l, e⟩ := only
    exact ⟨_, _, _, _, _, _, _, _, e⟩
  rfl

/-- An answer that carries a record image (R167). -/
theorem acceptImage_eq {before w : State} {n : Nat} {r u : Record} (hr : before.record n = some r) (hu : w.record n = some u)
    (on : u.state ≠ .pending) : acceptImage before n w = accept (recordImage u r.unseen 0) w := by
  rw [acceptImage, recordImageOf_some hu, unseenOf_some hr, if_neg on]

end

/-- Settles O30: the cut departs (`loseCut_departed`), and what follows touches watch fields only. -/
theorem abandonLosesTheGroup : Obligations.AbandonLosesTheGroup := by
  have served : ∀ {n : Nat} (s : State), n < 65536 →
      exec (.abandon (byte2 n)) s = .next (finish (takeRequest 0x16#8 (some n) abandonRequest s)) := fun s hn => by
    rw [← parseCut_byte2 hn]; rfl
  refine ⟨fun s n ready hn => ⟨fun h0 => ?_, fun h0 absent => ?_, fun r h0 hr out => ?_⟩, fun s n r ready h0 hn hr ht => ?_⟩
  · rw [served s hn, take_refused ready (by decide) (c := .badValue) (if_pos h0)]
    rfl
  · have missing : ((hunt s).record n).isNone = true := by rw [show (hunt s).record n = none from absent]; rfl
    rw [served s hn, take_refused ready (by decide) (c := .notFound) ((if_neg (Nat.pos_iff_ne_zero.mp h0)).trans (if_pos missing))]
    rfl
  · have found : ¬ ((hunt s).record n).isNone = true := by rw [show (hunt s).record n = some r from hr]; nofun
    have away : (hunt s).isInTree n = false := by
      refine eq_false_of_ne_true fun h => ?_
      obtain ⟨w, hw, hi⟩ := (isInTree_iff _).mp h
      rw [Option.some.inj (hw.symm.trans hr), out] at hi
      cases hi
    rw [served s hn, take_refused ready (by decide) (c := .wrongState)
      ((if_neg (Nat.pos_iff_ne_zero.mp h0)).trans ((if_neg found).trans (if_pos away)))]
    rfl
  · have found : ¬ ((hunt s).record n).isNone = true := by rw [show (hunt s).record n = some r from hr]; nofun
    have inside : (hunt s).isInTree n = true := (isInTree_iff _).mpr ⟨r, hr, ht⟩
    have gone := loseCut_departed .abandoned inside
    have notLost : r.state ≠ .lost := fun e => by rw [e] at ht; cases ht
    obtain ⟨lost, changed⟩ := loseCut_latched .abandoned inside
    have tracks := loseCut_track .abandoned inside
    have frame : HumpFrame (hunt s) (abandoned n (hunt s)) := (loseCut_hump _ _ n).trans (followUp_hump _ _ _ _)
    have record : (abandoned n (hunt s)).record n = some { Record.lose .abandoned r with unseen := true } :=
      followUp_still _ _ _ ((gone.of_cut hr).trans (congrArg some (lose_changed .abandoned notLost))) (by rintro (e | e) <;> cases e)
    have owned : abandonRequest n (hunt s)
        = accept (recordImage { Record.lose .abandoned r with unseen := true } r.unseen 0) (abandoned n (hunt s)) := by
      unfold abandonRequest
      rw [if_neg (Nat.pos_iff_ne_zero.mp h0), if_neg found, if_neg (by rw [inside]; nofun), acceptImage_eq (before := hunt s) hr record (by nofun)]
    have stay : FlagsStay (loseCut .abandoned n (hunt s)) (abandoned n (hunt s)) := followUp_flagsStay _ _ _
    refine ⟨finish (answering 0x16#8 _ (abandoned n (hunt s))), { Record.lose .abandoned r with unseen := true }, by rw [served s hn, take_accepted ready owned], record,
      ⟨rfl, rfl, rfl, rfl, rfl, rfl, rfl, rfl⟩, ⟨rfl, rfl, rfl, rfl, rfl, rfl⟩, fun m hm => ?_, fun p => ?_, fun x => ?_, ?_, fun x => ?_,
      fun x => ?_, stay _ lost, stay _ changed, rfl, answered_hump frame _ _⟩
    · obtain ⟨q, hq, hf⟩ := gone.of_follower inside hm
      obtain ⟨-, state, -⟩ := (lose_ends .leaderLost).changed q
      refine ⟨_, followUp_still _ _ _ hf (by rw [state]; rintro (e | e) <;> cases e), state, ?_⟩
      rw [Record.changed_eq]
      rfl
    · exact (followUp_claimOf _ _ _ p n).trans (gone.claimOf p)
    · show n ∉ ((abandoned n (hunt s)).section x).occupants
      rw [abandoned, followUp_section]
      exact gone.not_mem x
    · exact (followUp_inTree _ _ _).trans gone.inTree
    · show ((abandoned n (hunt s)).track x).committed = _
      rw [abandoned, followUp_track, tracks]
      rfl
    · show ((abandoned n (hunt s)).track x).fill = _ ∧ ((abandoned n (hunt s)).track x).setting = _
      rw [abandoned, followUp_track, tracks]
      exact ⟨rfl, rfl⟩

end Sys2Proof.Machine
end

section
/-! A group is moved to another track, and its claims with it (R29, R70, R76, R114 to R118): what each record, track and claim queue becomes. -/

namespace Sys2Proof.Machine

/-! ### Ages (R26) -/

section
variable {s t u : State}

/-- The same ages: the sequence counter and each cut's release sequence stand. -/
structure SameAges (s t : State) : Prop where
  counter : t.seqCounter = s.seqCounter
  released : ∀ k, (t.record k).map Record.releaseSeq = (s.record k).map Record.releaseSeq

theorem SameAges.refl (s : State) : SameAges s s := ⟨rfl, fun _ => rfl⟩

theorem SameAges.trans (h : SameAges s t) (k : SameAges t u) : SameAges s u :=
  ⟨k.counter.trans h.counter, fun n => (k.released n).trans (h.released n)⟩

theorem SameAges.of_records (records : t.records = s.records) (counter : t.seqCounter = s.seqCounter) : SameAges s t :=
  ⟨counter, fun k => by rw [record_congr records]⟩

theorem SameAges.foldl {β : Type} (f : State → β → State) (h : ∀ s b, SameAges s (f s b)) (l : List β) (s : State) : SameAges s (l.foldl f s) := by
  induction l generalizing s with
  | nil => exact .refl s
  | cons b l ih => exact (h s b).trans (ih _)

theorem SameAges.ite {c : Prop} [Decidable c] (h : SameAges s t) (k : SameAges s u) : SameAges s (if c then t else u) := by split <;> assumption

theorem SameAges.age (h : SameAges s t) (k : Nat) : t.age k = s.age k := by
  have released := h.released k
  unfold State.age
  rw [h.counter]
  generalize t.record k = w, s.record k = r at released
  cases r with
  | none =>
    rw [Option.map_eq_none_iff.mp released]
  | some r =>
    obtain ⟨v, rfl, hv⟩ := Option.map_eq_some_iff.mp released
    dsimp only
    rw [hv]

theorem SameAges.before (h : SameAges s t) (n m : Nat) : t.ReleasedBefore n m ↔ s.ReleasedBefore n m := by
  unfold State.ReleasedBefore
  rw [h.age, h.age]

theorem SameAges.placed {α : Type} {cut : α → Nat} {a : α} {old new : List α} (h : SameAges s t) (k : s.Placed cut a old new) :
    t.Placed cut a old new := by
  obtain ⟨front, back, ho, hn, after, before⟩ := k
  exact ⟨front, back, ho, hn, fun b hb e => after b hb ((h.before _ _).mp e), fun b hb => (h.before _ _).mpr (before b hb)⟩

theorem changeRecord_ages (s : State) (n : Nat) (f : Record → Record) (number : ∀ r, (f r).number = r.number)
    (released : ∀ r, (f r).releaseSeq = r.releaseSeq) : SameAges s (changeRecord n f s) := by
  refine ⟨changeRecord_seqCounter .., fun k => ?_⟩
  rw [record_changeRecord s n f number]
  split
  · cases s.record k with
    | none => rfl
    | some r =>
      rw [Option.map_some, Option.map_some, Record.changed_eq]
      exact congrArg some (released r)
  · rfl

theorem addMarkIf_ages (s : State) (b : Bool) (m : Mark) (n : Nat) : SameAges s (addMarkIf b m n s) := by
  cases b
  · exact .refl s
  · exact changeRecord_ages s n (withMark m) (fun _ => rfl) fun _ => rfl

theorem withdrawAt_ages (s : State) (l : List Nat) (n : Nat) : SameAges s (withdrawAt l n s) :=
  .foldl (fun s p => setClaims p ((s.claimsAt p).filter (fun c => c.cut != n)) s) (fun _ _ => .of_records rfl rfl) l s

theorem leaveSections_ages (s : State) (l : List Nat) (n : Nat) : SameAges s (leaveSections l n s) :=
  .foldl (fun s x => changeSection x (SectionEntry.without n) s) (fun _ _ => .of_records rfl rfl) l s

theorem claimOnRoute_ages (s : State) (n : Nat) (r : Record) (pb : Nat × Position) : SameAges s (claimOnRoute n r s pb) := by
  unfold claimOnRoute
  split
  · exact .of_records rfl rfl
  · split
    · exact .of_records rfl rfl
    · exact .refl s

theorem redoClaims_ages (s : State) (n : Nat) : SameAges s (redoClaims n s) := by
  unfold redoClaims
  split
  · exact .refl s
  · split
    · exact .refl s
    · exact ((withdrawAt_ages s _ n).trans (changeRecord_ages _ n (fun r => { r with unplannedBelow := none }) (fun _ => rfl) fun _ => rfl)).trans
        (.foldl _ (fun s pb => claimOnRoute_ages s n _ pb) _ _)

theorem changeTrack_ages (s : State) (x : Nat) (f : TrackEntry → TrackEntry) : SameAges s (changeTrack x f s) :=
  .of_records (changeTrack_records ..) (changeTrack_seqCounter ..)

theorem releaseFrom_ages (s : State) (x : Option Nat) (len : Nat) : SameAges s (releaseFrom x len s) := by
  cases x with
  | none => exact .refl s
  | some x => exact changeTrack_ages s x fun e => { e with committed := e.committed - len }

theorem setAssignment_ages (s : State) (n : Nat) (a : Assignment) : SameAges s (setAssignment n a s) :=
  .foldl (fun s k => changeRecord k (Record.assign a) s) (fun s k => changeRecord_ages s k _ (fun _ => rfl) fun _ => rfl) _ s

theorem reassign_ages (s : State) (n x : Nat) (why : AssignReason) : SameAges s (reassign n x why s) := by
  unfold reassign
  split
  · exact setAssignment_ages s n _
  · exact (((setAssignment_ages s n _).trans (releaseFrom_ages _ _ _)).trans (changeTrack_ages _ _ _)).trans (addMarkIf_ages _ _ _ n)

theorem replan_ages (s : State) (n p : Nat) (b : Position) : SameAges s (replan n p b s) := by
  unfold replan
  split
  · exact redoClaims_ages s n
  · exact (reassign_ages s n _ _).trans (redoClaims_ages _ n)

theorem throwDecision_ages (s : State) (p : Nat) : SameAges s (throwDecision p s) := by
  unfold throwDecision
  split
  · exact .of_records rfl rfl
  · exact .refl s

theorem chooseWatch_ages (s : State) (k : Nat) : SameAges s (chooseWatch k s) := by
  unfold chooseWatch
  split
  · exact .refl s
  · split
    · refine (changeRecord_ages s k _ (fun _ => ?_) fun _ => ?_).trans (.of_records (expireAtOnce_records _ _) ?_)
      · cases s.watchPoint _ <;> rfl
      · cases s.watchPoint _ <;> rfl
      · rcases expireAtOnce_eq (changeRecord k (Record.watching s (s.watchPoint ‹_›)) s) k with h | h <;> rw [h]
    · exact .refl s

theorem followUp_ages (s old : State) (ps cs : List Nat) : SameAges s (followUp old ps cs s) :=
  (SameAges.foldl _ throwDecision_ages _ _).trans (.foldl _ chooseWatch_ages _ _)

theorem insertClaim_congr (h : SameAges s t) (c : Claim) (l : List Claim) : insertClaim t c l = insertClaim s c l := by
  induction l with
  | nil => rfl
  | cons d l ih =>
    have same : t.earlier c.cut d.cut = s.earlier c.cut d.cut := by simp only [State.earlier, h.age]
    unfold insertClaim
    rw [same, ih]

end

/-! ### The claims along a route (R114, R116, R118) -/

section
variable {s : State} {n p : Nat} {b : Position} {r : Record}

theorem claimsAt_claimOnRoute {pb : Nat × Position} (h : p ≠ pb.1) : (claimOnRoute n r s pb).claimsAt p = s.claimsAt p := by
  unfold claimOnRoute rewriteClaim
  split
  · rw [claimsAt_setClaims, if_neg h]
  · split
    · rw [claimsAt_setClaims, if_neg h]
    · rfl

theorem claimsAt_offRoute {route : List (Nat × Position)} (h : p ∉ route.map Prod.fst) :
    (route.foldl (claimOnRoute n r) s).claimsAt p = s.claimsAt p := by
  induction route generalizing s with
  | nil => rfl
  | cons pb route ih =>
    obtain ⟨ne, h⟩ := not_or.mp (List.mem_cons.not.mp h)
    rw [List.foldl_cons, ih h, claimsAt_claimOnRoute ne]

theorem atOrBelowHead_claimOnRoute (q : Record) (pb : Nat × Position) (k : Nat) :
    (claimOnRoute n q s pb).atOrBelowHead r k = s.atOrBelowHead r k := by
  obtain ⟨layout, tree⟩ := (claimOnRoute_replans s n q pb).reads
  unfold State.atOrBelowHead
  rw [layout, tree]

/-- At a point of its route where a cut holds no claim, one is inserted, unless the point lies above its head (R116). -/
theorem claimsAt_alongRoute {route : List (Nat × Position)} (once : (route.map Prod.fst).Nodup) (on : (p, b) ∈ route)
    (new : s.claimOf p n = none) (below : s.atOrBelowHead r p = true) :
    (route.foldl (claimOnRoute n r) s).claimsAt p = insertClaim s { cut := n, position := b, spent := false } (s.claimsAt p) := by
  induction route generalizing s with
  | nil => cases on
  | cons pb route ih =>
    obtain ⟨first, once⟩ := List.nodup_cons.mp once
    rw [List.foldl_cons]
    rcases List.mem_cons.mp on with rfl | on
    · have claimed : claimOnRoute n r s (p, b) = setClaims p (insertClaim s { cut := n, position := b, spent := false } (s.claimsAt p)) s := by
        unfold claimOnRoute
        rw [if_neg (by rw [new]; nofun), if_pos below]
      rw [claimsAt_offRoute first, claimed, claimsAt_setClaims, if_pos rfl]
    · have ne : p ≠ pb.1 := fun e => first (e ▸ List.mem_map_of_mem (f := Prod.fst) on)
      have same := claimsAt_claimOnRoute (s := s) (n := n) (r := r) ne
      rw [ih once on (by unfold State.claimOf; rw [same]; exact new) ((atOrBelowHead_claimOnRoute r pb p).trans below), same,
        insertClaim_congr (claimOnRoute_ages s n r pb)]

theorem find_insertClaim_new {c : Claim} {l : List Claim} {n : Nat} (number : c.cut = n) (new : l.find? (fun d => d.cut == n) = none) :
    (insertClaim s c l).find? (fun d => d.cut == n) = some c := by
  induction l with
  | nil => simp [insertClaim, number]
  | cons d l ih =>
    obtain ⟨ne, rest⟩ : ¬ (d.cut == n) = true ∧ l.find? (fun d => d.cut == n) = none := by
      rw [List.find?_eq_none] at new ⊢
      exact ⟨new d (List.mem_cons_self ..), fun e he => new e (List.mem_cons_of_mem _ he)⟩
    unfold insertClaim
    split
    · exact List.find?_cons_of_pos (by simp [number])
    · exact (List.find?_cons_of_neg (p := fun e : Claim => e.cut == n) ne).trans (ih rest)

/-- The claims of a point of the route before the route is gone along: what the withdrawals leave (R117). -/
theorem claimsAt_onRoute {route : List (Nat × Position)} (on : p ∈ route.map Prod.fst) (f : Record → Record) :
    (changeRecord n f (withdrawAt (s.claimsOff n route) n s)).claimsAt p = s.claimsAt p := by
  have held : p ∉ s.claimsOff n route := fun h => by
    have off := (List.mem_filter.mp h).2
    rw [Bool.not_eq_true', List.contains_eq_mem, decide_eq_false_iff_not] at off
    exact off on
  unfold State.claimsAt
  rw [changeRecord_claims]
  exact (claimsAt_withdrawAt s _ n p).trans (if_neg held)

/-- A new claim of a cut whose claims are redone comes in its queue at its place by release sequence (R114, R116). -/
theorem redoClaims_new {a : Assignment} (hr : s.record n = some r) (ha : r.assigned = some a)
    (once : ((s.tree.route a.track).map Prod.fst).Nodup) (on : (p, b) ∈ s.tree.route a.track) (new : s.claimOf p n = none)
    (below : s.atOrBelowHead r p = true) :
    (redoClaims n s).claimOf p n = some { cut := n, position := b, spent := false }
      ∧ s.Placed Claim.cut { cut := n, position := b, spent := false } (s.claimsAt p) ((redoClaims n s).claimsAt p) := by
  rw [redoClaims_eq s hr ha]
  have before := claimsAt_onRoute (s := s) (n := n) (List.mem_map_of_mem (f := Prod.fst) on) fun r => { r with unplannedBelow := none }
  have ages : SameAges s (changeRecord n (fun r => { r with unplannedBelow := none }) (withdrawAt (s.claimsOff n (s.tree.route a.track)) n s)) :=
    (withdrawAt_ages s _ n).trans (changeRecord_ages _ n _ (fun _ => rfl) fun _ => rfl)
  have reads : (changeRecord n (fun r => { r with unplannedBelow := none })
      (withdrawAt (s.claimsOff n (s.tree.route a.track)) n s)).atOrBelowHead r p = s.atOrBelowHead r p := by
    obtain ⟨layout, tree⟩ := ((withdrawAt_replans s n (s.claimsOff n (s.tree.route a.track))).trans
      (changeRecord_replans _ n n fun r => { r with unplannedBelow := none })).reads
    unfold State.atOrBelowHead
    rw [layout, tree]
  generalize changeRecord n (fun r => { r with unplannedBelow := none }) (withdrawAt (s.claimsOff n (s.tree.route a.track)) n s) = u at *
  have queue := claimsAt_alongRoute (r := r) once on (s := u) (n := n) (by unfold State.claimOf; rw [before]; exact new) (reads.trans below)
  rw [before, insertClaim_congr ages] at queue
  refine ⟨?_, ?_⟩
  · unfold State.claimOf
    rw [queue]
    exact find_insertClaim_new rfl new
  · rw [queue]
    exact insertClaim_placed s _ _

/-- The claims of a cut after they are redone for its route, as `State.ClaimsOn` has them: read from a board `u` whose claims, tree and ages are
those of `s`, and kept to a board `t`. -/
theorem redoClaims_claimsOn {u t : State} {w : Record} {a : Assignment} (hw : u.record n = some w) (ha : w.assigned = some a)
    (number : r.number = n) (head : w.head = r.head) (claims : u.claims = s.claims) (tree : u.tree = s.tree) (layout : u.layout = s.layout)
    (after : t.claims = (redoClaims n u).claims) (ages : SameAges u t) : s.ClaimsOn t r a.track := by
  subst number
  have held : ∀ q, u.claimsAt q = s.claimsAt q := fun q => by unfold State.claimsAt; rw [claims]
  have left : ∀ q, t.claimsAt q = (redoClaims r.number u).claimsAt q := fun q => by unfold State.claimsAt; rw [after]
  have below : ∀ q, u.atOrBelowHead w q = s.atOrBelowHead r q := fun q => by unfold State.atOrBelowHead; rw [head, tree, layout]
  obtain ⟨off, on⟩ := claimOf_redoClaims u hw ha
  rw [tree] at off on
  refine ⟨fun p hp => ?_, fun once p b hp => ⟨fun c hc => ?_, fun new at_ => ?_⟩⟩
  · unfold State.claimOf
    rw [left]
    exact off p hp
  · unfold State.claimOf
    rw [left]
    exact on p b c once hp (by unfold State.claimOf; rw [held]; exact hc)
  · have placed := (redoClaims_new hw ha (tree ▸ once) (tree ▸ hp) (by unfold State.claimOf; rw [held]; exact new) ((below p).trans at_)).2
    rw [held] at placed
    rw [left]
    exact ages.placed placed

end

/-! ### A group moves to a track (R29, R69, R76) -/

section
variable (s : State) {n : Nat} {r : Record}

theorem setAssignment_record (a : Assignment) (k : Nat) :
    (setAssignment n a s).record k
      = (s.record k).map fun q => if q.number ∈ n :: s.joinedFollowers n then Record.changed (Record.assign a) q else q := by
  unfold State.record
  rw [setAssignment_records, find_map_number fun q => ?_]
  split
  · exact (Record.calm_changed _ q).number
  · rfl

/-- A cut that has no track is assigned one as it would be reassigned. -/
theorem assignTrack_eq {x : Nat} (waiting : s.assignedTrack n = none) (why : AssignReason) : assignTrack n x why s = reassign n x why s := by
  unfold assignTrack reassign
  rw [if_neg (by rw [waiting]; nofun), waiting]
  rfl

theorem reassign_same {x : Nat} (same : s.assignedTrack n = some x) (why : AssignReason) :
    reassign n x why s = setAssignment n { track := x, reason := why } s := if_pos same

variable {x : Nat} (ne : s.assignedTrack n ≠ some x) (why : AssignReason)
include ne

/-- The cut moved has the track and the reason, with OVERFILL where the track could not take its group (R72, R76). -/
theorem reassign_cut (hr : s.record n = some r) :
    ∃ v, (reassign n x why s).record n = some v ∧ v = { r with
      assigned := some { track := x, reason := why }
      marks := if s.canTake x (s.groupLength n) = true then r.marks else r.marks ||| 0x100, unseen := v.unseen } := by
  have set : (commitLength x (s.groupLength n) (releaseFrom (s.assignedTrack n) (s.groupLength n)
      (setAssignment n { track := x, reason := why } s))).record n = some (Record.changed (Record.assign { track := x, reason := why }) r) := by
    refine (record_congr ((changeTrack_records ..).trans (releaseFrom_records _ _ _)) n).trans ?_
    rw [setAssignment_record, hr, Option.map_some, if_pos (by rw [record_number s hr]; exact List.mem_cons_self ..)]
  unfold reassign
  rw [if_neg ne]
  cases takes : s.canTake x (s.groupLength n) with
  | true =>
    refine ⟨_, set, ?_⟩
    rw [Record.changed_eq]
    rfl
  | false =>
    refine ⟨Record.changed (withMark .overfill) (Record.changed (Record.assign { track := x, reason := why }) r), ?_, ?_⟩
    · exact (record_changeRecord_same _ n (withMark .overfill) fun _ => rfl).trans (by rw [set]; rfl)
    · rw [Record.changed_eq, Record.changed_eq]
      rfl

/-- The JOINED followers go with it, and no other record changes (R29). -/
theorem reassign_other {k : Nat} (hk : k ≠ n) :
    (reassign n x why s).record k = (s.record k).map fun q =>
      if q.number ∈ n :: s.joinedFollowers n then Record.changed (Record.assign { track := x, reason := why }) q else q := by
  have set : (commitLength x (s.groupLength n) (releaseFrom (s.assignedTrack n) (s.groupLength n)
      (setAssignment n { track := x, reason := why } s))).record k = (setAssignment n { track := x, reason := why } s).record k :=
    record_congr ((changeTrack_records ..).trans (releaseFrom_records _ _ _)) k
  unfold reassign
  rw [if_neg ne, ← setAssignment_record]
  cases s.canTake x (s.groupLength n) with
  | true => exact set
  | false => exact (record_changeRecord_other _ (withMark .overfill) (fun _ => rfl) hk).trans set

omit ne in
theorem addMarkIf_tracks (b : Bool) (m : Mark) (k : Nat) : (addMarkIf b m k s).tracks = s.tracks := by
  cases b
  · rfl
  · exact changeRecord_tracks ..

/-- The group's length leaves its old track and joins the new one (R69, R76, R78). -/
theorem reassign_track (y : Nat) :
    (reassign n x why s).track y = { s.track y with
      committed := (s.track y).committed - (if s.assignedTrack n = some y then s.groupLength n else 0)
        + if x = y then s.groupLength n else 0 } := by
  have commit : ∀ u : State, (addMarkIf (!s.canTake x (s.groupLength n)) .overfill n (commitLength x (s.groupLength n) u)).track y
      = (commitLength x (s.groupLength n) u).track y := fun u => by
    unfold State.track
    cases s.canTake x (s.groupLength n) with
    | true => rfl
    | false => exact congrArg (Table.read _ · y) (changeRecord_tracks ..)
  have released := track_releaseFrom (s := setAssignment n { track := x, reason := why } s) (s.assignedTrack n) (s.groupLength n)
  have set : ∀ z, (setAssignment n { track := x, reason := why } s).track z = s.track z := fun z => by
    unfold State.track
    rw [setAssignment_tracks]
  unfold reassign
  rw [if_neg ne, commit, commitLength, track_changeTrack, released, released, set, set]
  by_cases h : y = x
  · subst h
    simp
  · simp [h, Ne.symm h]

end

end Sys2Proof.Machine
end

section
/-! AMEND of a record in the tree: its group moves to another track, or gets its first (R40, R41, R74, R76, R118, R122). -/

namespace Sys2Proof.Machine

/-! ### A group sent to a track, and what follows (R76, R118, R122) -/

/-- The group of a cut with record `r` has been sent to a track: the assignment and the lengths, the claims in line with the new route, and the watch
point chosen afresh. -/
structure GroupSent (n x : Nat) (why : AssignReason) (r : Record) (s t : State) : Prop where
  cut : ∃ v, t.record n = some v
    ∧ v = { r with
        assigned := some { track := x, reason := why }
        marks := if s.canTake x (s.groupLength n) = true then r.marks else r.marks ||| 0x100, unplannedBelow := none, unseen := v.unseen
        watch := v.watch, lastMoment := v.lastMoment, timer := v.timer }
    ∧ (r.state = .releasing ∨ r.state = .rolling → t.WatchChosen v)
  followers : ∀ m ∈ s.joinedFollowers n, ∃ f, t.record m = some f ∧ f.assigned = some { track := x, reason := why } ∧ f.state = .joined
  track : ∀ y, t.track y = { s.track y with
    committed := (s.track y).committed - (if s.assignedTrack n = some y then s.groupLength n else 0) + if x = y then s.groupLength n else 0 }
  claims : s.ClaimsOn t r x
  claimed : ((s.tree.route x).map Prod.fst).Nodup → ∀ p b, (p, b) ∈ s.tree.route x → s.claimOf p n = none → s.atOrBelowHead r p = true →
    t.claimOf p n = some { cut := n, position := b, spent := false }
  replans : Replans n s t

section
variable {s : State} {n x : Nat} {r : Record}

theorem redoClaims_record_other {k : Nat} (hk : k ≠ n) : (redoClaims n s).record k = s.record k := by
  unfold redoClaims
  split
  · rfl
  · split
    · rfl
    · rw [record_congr (foldl_keeps_records _ _ (fun s pb => claimOnRoute_records s _ pb) _).1,
        record_changeRecord_other _ _ (by exact fun _ => rfl) hk, record_congr (withdrawAt_records s _ n).1]

theorem groupSent (old : State) (why : AssignReason) (hr : s.record n = some r) (ht : r.state.inTree = true) (ne : s.assignedTrack n ≠ some x) :
    GroupSent n x why r s (followCut old n (redoClaims n (reassign n x why s))) := by
  obtain ⟨w, hw, cut⟩ := reassign_cut s ne why hr
  have assigned : w.assigned = some { track := x, reason := why } := by rw [cut]
  have redone := record_redoClaims (reassign n x why s) hw assigned
  obtain ⟨v, hv, agrees, chosen⟩ := followUp_record (redoClaims n (reassign n x why s)) old ((redoClaims n (reassign n x why s)).headClaimPoints n)
    (List.mem_singleton.mpr rfl) redone
  have moved := reassign_replans s n x why
  obtain ⟨layout, tree⟩ := moved.reads
  have claims := reassign_claims (n := n) s x why
  have ages : SameAges s (reassign n x why s) := reassign_ages s n x why
  have later : SameAges (reassign n x why s) (followCut old n (redoClaims n (reassign n x why s))) :=
    (redoClaims_ages _ n).trans (followUp_ages _ old _ _)
  have after : (followCut old n (redoClaims n (reassign n x why s))).claims = (redoClaims n (reassign n x why s)).claims :=
    (followUp_claims _ old _ _).1
  constructor
  case cut =>
    refine ⟨v, hv, ?_, fun h => chosen ?_⟩
    · unfold Record.AgreesButWatch at agrees
      rw [agrees, cut]
    · show w.state = .releasing ∨ w.state = .rolling
      rwa [cut]
  case followers =>
    intro m hm
    obtain ⟨q, hq, joined⟩ := (isIn_iff s).mp (mem_joinedFollowers.mp hm).1
    have other : m ≠ n := by
      rintro rfl
      exact not_mem_joinedFollowers ((isInTree_iff s).mpr ⟨r, hr, ht⟩) hm
    have member : q.number ∈ n :: s.joinedFollowers n := by
      rw [record_number s hq]
      exact List.mem_cons_of_mem _ hm
    have set : (redoClaims n (reassign n x why s)).record m = some (Record.changed (Record.assign { track := x, reason := why }) q) := by
      rw [redoClaims_record_other other, reassign_other s ne why other, hq, Option.map_some, if_pos member]
    have state : (Record.changed (Record.assign { track := x, reason := why }) q).state = .joined := by rw [Record.changed_eq]; exact joined
    refine ⟨_, followUp_still old _ _ set (by rw [state]; rintro (e | e) <;> cases e), ?_, state⟩
    rw [Record.changed_eq]
    rfl
  case track =>
    intro y
    rw [← reassign_track s ne why y]
    unfold State.track
    rw [followCut, (followUp_claims _ old _ _).2, redoClaims_tracks]
  case claims =>
    have head : w.head = r.head := by rw [cut]
    exact redoClaims_claimsOn (a := { track := x, reason := why }) hw assigned (record_number s hr) head claims tree layout after later
  case claimed =>
    intro once p b on new below
    have held : ∀ q, (reassign n x why s).claimOf q n = s.claimOf q n := fun q => by unfold State.claimOf State.claimsAt; rw [claims]
    have at_ : (reassign n x why s).atOrBelowHead w p = s.atOrBelowHead r p := by
      unfold State.atOrBelowHead
      rw [layout, tree, cut]
    have := (redoClaims_new hw assigned (tree ▸ once) (tree ▸ on) ((held p).trans new) (at_.trans below)).1
    unfold State.claimOf State.claimsAt at this ⊢
    rwa [after]
  case replans => exact (moved.trans (redoClaims_replans _ n)).trans (followUp_replans _ n old _ _)

/-- The claims in line with a route, read from a board with the same claims and tree. -/
theorem State.ClaimsOn.congr {s' t : State} {r' : Record} (h : s'.ClaimsOn t r' x) (number : r'.number = r.number) (head : r'.head = r.head)
    (claims : s'.claims = s.claims) (tree : s'.tree = s.tree) (layout : s'.layout = s.layout) : s.ClaimsOn t r x := by
  have below : ∀ p, s.atOrBelowHead r p = s'.atOrBelowHead r' p := fun p => by unfold State.atOrBelowHead; rw [head, tree, layout]
  unfold State.ClaimsOn State.claimOf State.claimsAt at *
  rw [tree, number, claims] at h
  simp only [below]
  exact h

end

/-! ### The track asked for (R40, R41) -/

/-- The record with a track asked for. -/
def Record.ask (x : Nat) (r : Record) : Record := { r with requested := some x }

section
variable {s t : State} {n x : Nat} {r : Record}

theorem setRequested_record (hr : s.record n = some r) : (setRequested n x s).record n = some (Record.changed (Record.ask x) r) := by
  refine (record_changeRecord_same s n (Record.ask x) fun _ => rfl).trans ?_
  rw [hr]
  rfl

theorem setRequested_other {k : Nat} (hk : k ≠ n) : (setRequested n x s).record k = s.record k :=
  record_changeRecord_other s (Record.ask x) (fun _ => rfl) hk

theorem setRequested_only (s : State) (n x : Nat) : RecordsOnly s (setRequested n x s) := changeRecord_only s n _

theorem Calm.assignedTrack (h : CalmMove s t) (n : Nat) : t.assignedTrack n = s.assignedTrack n := by
  have same := h.records.record (fun _ _ e => e.number) n
  unfold State.assignedTrack
  generalize s.record n = o at same ⊢
  generalize t.record n = q at same ⊢
  cases same with
  | none => rfl
  | some e => simp [e.assigned]

theorem CalmMove.joinedFollowers (h : CalmMove s t) (n : Nat) : t.joinedFollowers n = s.joinedFollowers n :=
  (h.records.imp fun _ _ k => k.sameGroup).joinedFollowers n

/-- Records and flags are not read by the condition of a track. -/
theorem RecordsOnly.canTake (h : RecordsOnly s t) (y len : Nat) : t.canTake y len = s.canTake y len := by
  unfold RecordsOnly at h
  rw [h]
  rfl

theorem alternateChain_congr (tracks : ∀ y len, t.canTake y len = s.canTake y len) (layout : t.layout = s.layout) (len hops y : Nat) (seen : List Nat) :
    alternateChain t len hops y seen = alternateChain s len hops y seen := by
  induction hops generalizing y seen with
  | zero => rfl
  | succ hops ih =>
    unfold alternateChain
    simp only [tracks, layout, ih]

theorem RecordsOnly.layout (h : RecordsOnly s t) : t.layout = s.layout := by
  unfold RecordsOnly at h
  rw [h]
  rfl

theorem RecordsOnly.releaseChoice (h : RecordsOnly s t) (y len : Nat) : releaseChoice t y len = releaseChoice s y len := by
  unfold Machine.releaseChoice
  rw [h.layout, h.canTake, alternateChain_congr h.canTake h.layout]

/-- A group sent to a track after a track has been asked for, read from before (R40, R41). -/
theorem GroupSent.asked {why : AssignReason} {y : Nat} (hr : s.record n = some r)
    (h : GroupSent n y why (Record.changed (Record.ask x) r) (setRequested n x s) t) : GroupSent n y why (Record.ask x r) s t := by
  have calm := setRequested_calm s n x
  have only := setRequested_only s n x
  have followers := calm.joinedFollowers n
  have len := calm.steady.groupLength n
  have track := Calm.assignedTrack calm n
  have takes := only.canTake
  have claims : (setRequested n x s).claims = s.claims := changeRecord_claims ..
  have tree : (setRequested n x s).tree = s.tree := changeRecord_tree ..
  have held : ∀ q m, (setRequested n x s).claimOf q m = s.claimOf q m := fun q m => by unfold State.claimOf State.claimsAt; rw [claims]
  have read : ∀ z, (setRequested n x s).track z = s.track z := fun z => congrArg (Table.read TrackEntry.initial · z) (changeRecord_tracks ..)
  obtain ⟨⟨v, hv, cut, chosen⟩, follow, tracks, on, claimed, replans⟩ := h
  have asked := Record.changed_eq (Record.ask x) r
  rw [takes, len, asked] at cut
  rw [asked] at chosen on claimed
  simp only [followers] at follow
  simp only [read, track, len] at tracks
  have below : ∀ q, s.atOrBelowHead (Record.ask x r) q = (setRequested n x s).atOrBelowHead
      { Record.ask x r with unseen := if (Record.ask x r).shown = r.shown then (Record.ask x r).unseen else true } q := fun q => by
    unfold State.atOrBelowHead
    rw [tree, only.layout]
  refine ⟨⟨v, hv, cut, chosen⟩, follow, tracks, on.congr rfl rfl claims tree only.layout, fun once p b hp new hb => ?_,
    (changeRecord_replans s n n _).trans replans⟩
  exact claimed (tree.symm ▸ once) p b (tree.symm ▸ hp) ((held p n).trans new) ((below p).symm.trans hb)

/-- A group sent to a track is not PENDING. -/
theorem amendTrack_sent (hr : s.record n = some r) (ht : r.state.inTree = true) (ne : s.assignedTrack n ≠ some x) :
    GroupSent n x .requested (Record.ask x r) s (amendTrack n x s) := by
  have calm := setRequested_calm s n x
  refine (groupSent s .requested (setRequested_record hr) ?_ ?_).asked hr
  · rw [Record.changed_eq]
    exact ht
  · rw [Calm.assignedTrack calm]
    exact ne

theorem amendWaiting_sent (hr : s.record n = some r) (ht : r.state.inTree = true) (waiting : r.assigned = none) :
    GroupSent n (releaseChoice s x (s.groupLength n)).track (releaseChoice s x (s.groupLength n)).reason (Record.ask x r) s
      (amendWaiting n x s) := by
  have calm := setRequested_calm s n x
  have none_ : (setRequested n x s).assignedTrack n = none := by
    rw [Calm.assignedTrack calm]
    simp [State.assignedTrack, hr, waiting]
  unfold amendWaiting releaseAssignment
  rw [(setRequested_only s n x).releaseChoice, calm.steady.groupLength, assignTrack_eq _ none_]
  refine (groupSent s _ (setRequested_record hr) ?_ ?_).asked hr
  · rw [Record.changed_eq]
    exact ht
  · rw [none_]
    exact nofun

/-! ### The request (R40, R41) -/

theorem GroupSent.image {why : AssignReason} {y : Nat} (hr : s.record n = some r) (ht : r.state.inTree = true)
    (h : GroupSent n y why (Record.ask x r) s t) :
    ∃ v, t.record n = some v ∧ acceptImage s n t = accept (recordImage v r.unseen 0) t
      ∧ (v.requested = some x ∧ v.assigned = some { track := y, reason := why } ∧ v.state = r.state)
      ∧ v.marks = (if s.canTake y (s.groupLength n) = true then r.marks else r.marks ||| 0x100)
      ∧ (r.state = .releasing ∨ r.state = .rolling → t.WatchChosen v) := by
  obtain ⟨v, hv, cut, chosen⟩ := h.cut
  have state : v.state = r.state := by rw [cut]; rfl
  refine ⟨v, hv, acceptImage_eq hr hv fun e => ?_, ?_, ?_, chosen⟩
  · rw [← state, e] at ht
    cases ht
  · rw [cut]
    exact ⟨rfl, rfl, rfl⟩
  · rw [cut]
    rfl

/-- The board after an answer to a request that sent a group to a track. -/
theorem answered_replans {w : State} (only : Replans n (hunt s) w) (code : Byte) (body : List Byte) :
    finish (answering code body w) = { s with
      pending := (finish (answering code body w)).pending, receiver := .hunting, inHand := (finish (answering code body w)).inHand
      records := (finish (answering code body w)).records, tracks := (finish (answering code body w)).tracks
      claims := (finish (answering code body w)).claims, points := (finish (answering code body w)).points
      flags := (finish (answering code body w)).flags, humpPermit := (finish (answering code body w)).humpPermit
      attentionLine := (finish (answering code body w)).attentionLine } := by
  obtain ⟨pending, records, tracks, claims, points, flags, rfl⟩ :
      ∃ pending records tracks claims points flags, w = { hunt s with
        pending := pending, records := records, tracks := tracks, claims := claims, points := points, flags := flags } :=
    ⟨_, _, _, _, _, _, only.frame⟩
  rfl

end

/-- The values of an AMEND that names a track in use alone. -/
theorem amendValuesOk_track {s : State} {n track len axles : Nat} (h1 : 1 ≤ n) (used : trackUsed s.layout track = true) :
    amendValuesOk ⟨n, 1#8, track, len, axles⟩ s = true :=
  (amendValuesOk_iff _).mpr ⟨Nat.one_le_iff_ne_zero.mp h1, (by decide : (1#8 : Byte) ≠ 0), (by decide : (1#8 : Byte).toNat < 8), fun _ => .inr used,
    fun e => absurd e (by decide : ¬ (1#8 : Byte).getLsbD 1 = true), fun e => absurd e (by decide : ¬ (1#8 : Byte).getLsbD 2 = true)⟩

theorem track_ne_zero {m : Image} {x : Nat} (used : trackUsed m x = true) : x ≠ 0 := by
  rintro rfl
  simp [trackUsed] at used

/-- An AMEND that names the track alone, of a record in the tree, goes to the record's owner (R40, R41). -/
theorem amendInTree_track {s : State} {n track len axles : Nat} {r : Record} (used : trackUsed s.layout track = true) :
    amendInTree ⟨n, 1#8, track, len, axles⟩ r s = match r.assigned with
      | none => acceptImage s n (amendWaiting n track s)
      | some a =>
        if a.track = track then acceptImage s n (setRequested n track s)
        else if s.tree.trackBelow track (r.head.getD 1) = false then refuse .tooLate s
        else if s.canTake track (s.groupLength n) = false then refuse .cannotTake s
        else acceptImage s n (amendTrack n track s) := by
  have only : ¬ ((⟨n, 1#8, track, len, axles⟩ : AmendBody).namesLength = true ∨ (⟨n, 1#8, track, len, axles⟩ : AmendBody).namesAxles = true
      ∨ track = 0) := by
    simp only [AmendBody.namesLength, AmendBody.namesAxles, track_ne_zero used, or_false]
    decide
  exact if_neg only

/-- Settles O25: the group is sent to the track (`GroupSent`), or the track asked for alone changes. -/
theorem amendMovesTheGroup : Obligations.AmendMovesTheGroup := by
  have served : ∀ {n track len axles : Nat} {r : Record} (s : State), Ready s → s.runState ≠ .halted → 1 ≤ n → n < 65536 → s.record n = some r →
      r.state.inTree = true → trackUsed s.layout track = true → len < 65536 → axles < 256 → ∀ {l : List Byte} {u : State},
      amendInTree ⟨n, 1#8, track, len, axles⟩ r (hunt s) = accept l u →
      exec (.amend (byte2 n ++ [1#8] ++ byte1 track ++ byte2 len ++ byte1 axles)) s = .next (finish (answering 0x11#8 (0x00#8 :: l) u)) := by
    intro n track len axles r s ready hs h1 hn hr ht used hl ha l u owned
    have body : exec (.amend (byte2 n ++ [1#8] ++ byte1 track ++ byte2 len ++ byte1 axles)) s
        = .next (finish (takeRequest 0x11#8 (some ⟨n, 1#8, track, len, axles⟩) amendRequest s)) := by
      rw [← parseAmend_bytes 1#8 hn (track_lt (.inr used)) hl ha]; rfl
    rw [body, take_accepted ready ((amendRequest_inTree (s := hunt s) hs (amendValuesOk_track h1 used) hr ht).trans owned)]
  refine ⟨fun s n track len axles r a ready hs h1 hn hr ht ha ne used hl hx below takes => ?_,
    fun s n track len axles r a ready hs h1 hn once hr ht ha same used hl hx => ?_,
    fun s n track len axles r ready hs h1 hn hr ht waiting used hl hx => ?_⟩
  · have moves : (hunt s).assignedTrack n ≠ some track := by
      show (s.record n).bind _ ≠ _
      rw [hr]
      show r.assigned.map Assignment.track ≠ some track
      rw [ha]
      exact fun e => ne (Option.some.inj e)
    have old : s.assignedTrack n = some a.track := by simp [State.assignedTrack, hr, ha]
    have sent := amendTrack_sent (s := hunt s) hr ht moves
    obtain ⟨v, hv, image, fields, marks, chosen⟩ := sent.image (s := hunt s) hr ht
    have owned : amendInTree ⟨n, 1#8, track, len, axles⟩ r (hunt s)
        = accept (recordImage v r.unseen 0) (amendTrack n track (hunt s)) := by
      rw [amendInTree_track (s := hunt s) used, ha]
      dsimp only
      rw [if_neg ne, if_neg (by rw [show (hunt s).tree.trackBelow track (r.head.getD 1) = true from below]; nofun),
        if_neg (by rw [show (hunt s).canTake track ((hunt s).groupLength n) = true from takes]; nofun)]
      exact image
    have track_ := sent.track
    generalize amendTrack n track (hunt s) = w at *
    refine ⟨_, v, served s ready hs h1 hn hr ht used hl hx owned, hv, ⟨fields.1, fields.2.1, fields.2.2, ?_⟩, fun m hm => ?_, ?_, ?_, fun y => ?_,
      fun y hy hy' => ?_, sent.claims, chosen, rfl, answered_replans sent.replans _ _⟩
    · rw [marks, if_pos (show (hunt s).canTake track ((hunt s).groupLength n) = true from takes)]
    · obtain ⟨f, hf, assigned, joined⟩ := sent.followers m hm
      exact ⟨f, hf, assigned.trans fields.2.1.symm, joined⟩
    · exact (congrArg TrackEntry.committed (track_ track)).trans (by simp [moves]; rfl)
    · exact (congrArg TrackEntry.committed (track_ a.track)).trans
        (by simp [show (hunt s).assignedTrack n = some a.track from old, Ne.symm ne]; rfl)
    · have fill := congrArg TrackEntry.fill (track_ y)
      have setting := congrArg TrackEntry.setting (track_ y)
      exact ⟨fill, setting⟩
    · exact (track_ y).trans (by simp [show (hunt s).assignedTrack n = some a.track from old, Ne.symm hy, Ne.symm hy']; rfl)
  · have only := setRequested_only (hunt s) n track
    have flags := changeRecord_flags_of (s := hunt s) once hr (Record.ask track)
    have record := setRequested_record (s := hunt s) (x := track) hr
    have asked := Record.changed_eq (Record.ask track) r
    have shown : (Record.ask track r).shown = r.shown ↔ r.requested = some track :=
      ⟨fun e => (congrArg Record.requested e).symm, fun e => by unfold Record.ask; rw [← e]⟩
    have on : (Record.changed (Record.ask track) r).state ≠ .pending := by
      rw [asked]
      intro e
      change r.state = .pending at e
      rw [e] at ht
      cases ht
    have owned : amendInTree ⟨n, 1#8, track, len, axles⟩ r (hunt s)
        = accept (recordImage (Record.changed (Record.ask track) r) r.unseen 0) (setRequested n track (hunt s)) := by
      rw [amendInTree_track (s := hunt s) used, ha]
      dsimp only
      rw [if_pos same]
      exact acceptImage_eq (before := hunt s) hr record on
    refine ⟨_, _, served s ready hs h1 hn hr ht used hl hx owned, record, ?_, fun e => ⟨?_, ?_⟩, fun e => ⟨?_, ?_⟩, fun k hk => ?_, rfl,
      answered_only only _ _⟩
    · rw [asked]
      rfl
    · rw [asked, if_pos (shown.mpr e)]
      rfl
    · exact flags.trans (if_pos (shown.mpr e))
    · rw [asked, if_neg (mt shown.mp e)]
    · exact flags.trans (if_neg (mt shown.mp e))
    · exact setRequested_other hk
  · intro a once
    have sent := amendWaiting_sent (s := hunt s) (x := track) hr ht waiting
    have choice : releaseChoice (hunt s) track ((hunt s).groupLength n) = a := rfl
    rw [choice] at sent
    obtain ⟨v, hv, image, fields, marks, chosen⟩ := sent.image (s := hunt s) hr ht
    have none_ : (hunt s).assignedTrack n = none := by
      show (s.record n).bind _ = _
      rw [hr]
      show r.assigned.map Assignment.track = none
      rw [waiting]
      rfl
    have owned : amendInTree ⟨n, 1#8, track, len, axles⟩ r (hunt s)
        = accept (recordImage v r.unseen 0) (amendWaiting n track (hunt s)) := by
      rw [amendInTree_track (s := hunt s) used, waiting]
      exact image
    have track_ := sent.track
    simp only [none_] at track_
    generalize amendWaiting n track (hunt s) = w at *
    refine ⟨_, v, served s ready hs h1 hn hr ht used hl hx owned, hv, fields, marks, fun m hm => sent.followers m hm, ?_, fun y hy => ?_,
      fun p b on new below => ⟨sent.claimed once p b on new below, ?_⟩, chosen, fun p hp => ?_, rfl, answered_replans sent.replans _ _⟩
    · have read := track_ a.track
      rw [if_pos rfl] at read
      exact read
    · exact (track_ y).trans (by simp [Ne.symm hy]; rfl)
    · have number := record_number s hr
      subst number
      exact (sent.claims.2 once p b on).2 new below
    · have number := record_number s hr
      subst number
      exact sent.claims.1 p hp

end Sys2Proof.Machine
end

section
/-! The one cut of a clearing section is settled on the track its way out names, or lost where the way out is unknown (R78, R91, R92). -/

namespace Sys2Proof.Machine

/-! ### A section with one cut clears (R90, R91) -/

/-- The board when a section has come clear, before its occupants are dealt with. -/
def cleared (c u : Nat) (s : State) : State := changeSection u (fun e => { e with unexplained := false }) (setChannel c false s)

section
variable {s : State} {c u n : Nat} {r : Record}

theorem supervised_of_ne (hs : s.runState ≠ .halted) : s.supervised = true := by simp [State.supervised, hs]

/-- A section of one cut, whose head is there, clears: the cut is dealt with, and the follow-up is taken. -/
theorem exec_clear_one (h1 : 1 ≤ c) (h2 : c ≤ 128) (hs : s.runState ≠ .halted) (on : s.channel c = true)
    (sec : sectionOfChannel s.layout c = some u) (alone : (s.section u).occupants = [n]) (hr : s.record n = some r) (head : r.head = some u) :
    exec (.sectionClear c) s = .next (finish (followCuts s ([n].filter fun m => !(dealWithHeld u [n] (cleared c u s)).headIn u m)
      (dealWithHeld u [n] (cleared c u s)))) := by
  have inside : ((setChannel c false s).section u).occupants = [n] := alone
  have here : (setChannel c false s).headIn u n = true := by
    show ((s.record n).bind Record.head == some u) = true
    rw [hr]
    exact beq_iff_eq.mpr head
  have left : sectionLeft s u (setChannel c false s) = followCuts s ([n].filter fun m => !(dealWithHeld u [n] (cleared c u s)).headIn u m)
      (dealWithHeld u [n] (cleared c u s)) := by
    unfold sectionLeft
    rw [inside]
    simp only [List.filter_cons, List.filter_nil, here, Bool.not_true, if_true, List.isEmpty_cons, List.foldl_nil, Bool.false_eq_true, if_false]
    rfl
  rw [exec_sectionClear s (channelNumber_iff.mpr ⟨h1, h2⟩), on, if_pos rfl]
  unfold inputChanges
  simp only [sec, supervised_of_ne hs, if_true, Bool.false_eq_true, if_false, left]

theorem cleared_section (y : Nat) :
    (cleared c u s).section y = if y = u then { s.section u with unexplained := false } else s.section y := by
  rw [cleared, section_changeSection]
  rfl

theorem cleared_occupants (y : Nat) : ((cleared c u s).section y).occupants = (s.section y).occupants := by
  rw [cleared_section]
  split
  · rename_i e
    rw [e]
  · rfl

end

/-! ### SETTLED (R77, R92) -/

/-- A record with a misroute noted at a point (R87, R91, R92). -/
def Record.strayed (p : Nat) (why : DivertReason) (r : Record) : Record :=
  Record.changed (withDiversion p why) (Record.changed (withMark .misroute) r)

section
variable {s : State} {n p : Nat} {r : Record}

theorem addMisroute_record (why : DivertReason) (hr : s.record n = some r) : (addMisroute p why n s).record n = some (Record.strayed p why r) := by
  refine (record_changeRecord_same _ n (withDiversion p why) (withDiversion_number (p := p) why)).trans ?_
  rw [show (addMark .misroute n s).record n = (s.record n).map (Record.changed (withMark .misroute)) from
    record_changeRecord_same s n (withMark .misroute) fun _ => rfl, hr]
  rfl

theorem strayed_agrees (p : Nat) (why : DivertReason) (r : Record) :
    Record.strayed p why r = { r with
      marks := r.marks ||| 0x080, diversions := (Record.strayed p why r).diversions, more := (Record.strayed p why r).more
      unseen := (Record.strayed p why r).unseen } := by
  unfold Record.strayed
  rw [Record.changed_eq, withDiversion_agrees why (Record.changed (withMark .misroute) r), Record.changed_eq]
  rfl

theorem strayed_noted (p : Nat) (why : DivertReason) (r : Record) : (Record.strayed p why r).Noted r { point := p, reason := why } := by
  have noted := withDiversion_noted (p := p) why (Record.changed (withMark .misroute) r)
  have same : (Record.changed (withMark .misroute) r).diversions = r.diversions ∧ (Record.changed (withMark .misroute) r).more = r.more := by
    rw [Record.changed_eq]
    exact ⟨rfl, rfl⟩
  unfold Record.strayed
  rw [Record.changed_eq]
  unfold Record.Noted at noted ⊢
  rw [same.1, same.2] at noted
  exact noted

/-- The lengths of a settled group (R77). -/
theorem track_settleLength (y : Option Nat) (x len z : Nat) :
    (settleLength y x len s).track z = { s.track z with
      committed := (s.track z).committed - if y = some z then len else 0
      fill := if z = x then min ((s.track z).fill + len) 65535 else (s.track z).fill } := by
  unfold settleLength
  split
  · rename_i e
    subst e
    rw [track_changeTrack]
    by_cases h : z = x
    · subst h; simp
    · simp [h, Ne.symm h]
  · rename_i e
    rw [track_changeTrack, track_releaseFrom, track_releaseFrom]
    by_cases h : z = x
    · subst h; simp
    · simp [h]

theorem settleLength_same (y : Option Nat) (x len : Nat) (s : State) :
    (settleLength y x len s).records = s.records ∧ (settleLength y x len s).claims = s.claims ∧ (settleLength y x len s).sections = s.sections
      ∧ (settleLength y x len s).inTree = s.inTree := by
  unfold settleLength
  split
  · exact ⟨changeTrack_records .., changeTrack_claims .., changeTrack_sections .., changeTrack_inTree ..⟩
  · refine ⟨(changeTrack_records ..).trans (releaseFrom_records ..), (changeTrack_claims ..).trans (releaseFrom_claims ..),
      (changeTrack_sections ..).trans ?_, (changeTrack_inTree ..).trans ?_⟩
    all_goals
      cases y with
      | none => rfl
      | some z => simp [releaseFrom, releaseLength]

theorem settleLength_flagsStay (y : Option Nat) (x len : Nat) (s : State) : FlagsStay s (settleLength y x len s) := by
  unfold settleLength
  split
  · exact (changeTrack_replans s 0 _ _).flagsStay
  · exact ((releaseFrom_replans s 0 _ _).trans (changeTrack_replans _ 0 _ _)).flagsStay

/-- What a cut SETTLED leaves (R30, R92, R96). -/
theorem settleCut_departed (x : Nat) (h : s.isInTree n = true) :
    Departed (Record.settle x) (Record.settle x) n (markedMisroute p x n s) (settleCut p x n s) := by
  have inside : (markedMisroute p x n s).isInTree n = true := ((markedMisroute_calm s p x n).isInTree n).trans h
  rw [settleCut_eq s p x h]
  obtain ⟨records, claims, sections, inTree⟩ := settleLength_same (s.assignedTrack n) x (s.groupLength n)
    (sendAway (Record.settle x) (Record.settle x) n (markedMisroute p x n s))
  exact (sendAway_departed (settle_ends x) (settle_ends x) inside).congr records claims sections inTree (settleLength_flagsStay _ _ _ _)

theorem markedMisroute_same (x : Nat) (same : s.assignedTrack n = some x) : markedMisroute p x n s = s := by
  unfold markedMisroute
  rw [same]
  simp

theorem markedMisroute_other {x y : Nat} (old : s.assignedTrack n = some y) (ne : y ≠ x) :
    markedMisroute p x n s = addMisroute p .misroute n s := by
  unfold markedMisroute
  rw [old]
  simp [ne]

theorem addMisroute_only (why : DivertReason) (s : State) : RecordsOnly s (addMisroute p why n s) :=
  (changeRecord_only s n _).trans (changeRecord_only _ n _)

theorem markedMisroute_only (x : Nat) (s : State) : RecordsOnly s (markedMisroute p x n s) := by
  unfold markedMisroute
  split
  · exact addMisroute_only .misroute s
  · exact rfl

theorem RecordsOnly.track {t : State} (h : RecordsOnly s t) (y : Nat) : t.track y = s.track y := by
  unfold RecordsOnly at h
  rw [h]
  rfl

theorem RecordsOnly.inTree {t : State} (h : RecordsOnly s t) : t.inTree = s.inTree := by
  unfold RecordsOnly at h
  rw [h]

theorem settleCut_track (x : Nat) (h : s.isInTree n = true) (z : Nat) :
    (settleCut p x n s).track z = { s.track z with
      committed := (s.track z).committed - if s.assignedTrack n = some z then s.groupLength n else 0
      fill := if z = x then min ((s.track z).fill + s.groupLength n) 65535 else (s.track z).fill } := by
  have same : (sendAway (Record.settle x) (Record.settle x) n (markedMisroute p x n s)).track z = s.track z := by
    unfold State.track
    rw [sendAway_tracks]
    exact (markedMisroute_only x s).track z
  rw [settleCut_eq s p x h, track_settleLength, same]

/-- A record SETTLED that was not. -/
theorem settle_changed (x : Nat) (h : r.state ≠ .settled) :
    Record.changed (Record.settle x) r = { Record.settle x r with unseen := true } :=
  Record.changed_of_ne (withState_shown fun e => h e.symm)

end

/-! ### The way out (R91) -/

section
variable {s : State} {c u p n : Nat}

theorem dealWithHeld_track {l : List Nat} {x : Nat} {b : Position} (at_ : pointOfSection s.layout u = some p) (lies : s.detection p = some b)
    (target : branchTarget s.layout p b = .track x) : dealWithHeld u l s = l.foldl (fun s n => settleCut ((pointOfSection s.layout u).getD 0) x n s) s := by
  have way : s.wayOut u = some (.track x) := by
    unfold State.wayOut
    rw [at_]
    show (s.detection p).map _ = _
    rw [lies, Option.map_some, target]
  unfold dealWithHeld
  rw [way]

theorem wayOut_undetected (at_ : pointOfSection s.layout u = some p) (lies : s.detection p = none) : s.wayOut u = none := by
  unfold State.wayOut
  rw [at_]
  show (s.detection p).map _ = _
  rw [lies]
  rfl

theorem trackBranch_of {m : Image} {b : Position} {x : Nat} (h : branchTarget m p b = .track x) : trackBranch m p = true := by
  unfold trackBranch
  cases b <;> rw [h]
  cases branchTarget m p .normal <;> rfl

theorem dealWithHeld_undetected {l : List Nat} (at_ : pointOfSection s.layout u = some p) (lies : s.detection p = none) :
    dealWithHeld u l s = if trackBranch s.layout p then loseCuts .noDetection l s else holdUnproven u s := by
  unfold dealWithHeld
  rw [wayOut_undetected at_ lies, at_]

end

/-! ### What a departure leaves after the follow-up -/

section
variable {s t : State} {n : Nat} {r : Record} {f g : Record → Record}

/-- What follows a departure leaves the records of the cut and its followers, its lists, its claims and the count as they are. -/
theorem Departed.followed (h : Departed f g n s t) (hf : Record.Ends f) (hg : Record.Ends g) (hr : s.record n = some r) (ht : r.state.inTree = true)
    (old : State) (ps cs : List Nat) :
    (followUp old ps cs t).record n = some (Record.changed f r)
      ∧ (∀ m ∈ s.joinedFollowers n, ∃ q, (followUp old ps cs t).record m = some (Record.changed g q))
      ∧ (∀ y, n ∉ ((followUp old ps cs t).section y).occupants) ∧ (∀ q, (followUp old ps cs t).claimOf q n = none)
      ∧ (followUp old ps cs t).inTree = s.inTree - 1 := by
  have still : ∀ {k : Record → Record}, Record.Ends k → ∀ q : Record,
      ¬ ((Record.changed k q).state = .releasing ∨ (Record.changed k q).state = .rolling) := fun hk q => by
    rw [(hk.changed q).2.1]
    rcases hk.out q with e | e <;> rw [e] <;> rintro (e | e) <;> cases e
  refine ⟨followUp_still _ _ _ (h.of_cut hr) (still hf r), fun m hm => ?_, fun y => ?_, fun q => ?_, ?_⟩
  · obtain ⟨q, -, hq⟩ := h.of_follower ((isInTree_iff s).mpr ⟨r, hr, ht⟩) hm
    exact ⟨q, followUp_still _ _ _ hq (still hg q)⟩
  · rw [followUp_section]
    exact h.not_mem y
  · rw [followUp_claimOf]
    exact h.claimOf q
  · rw [followUp_inTree]
    exact h.inTree

theorem lose_state (why : LostReason) (q : Record) :
    (Record.changed (Record.lose why) q).state = .lost ∧ (Record.changed (Record.lose why) q).lostReason = some why := by
  rw [Record.changed_eq]
  exact ⟨rfl, rfl⟩

theorem settle_state (x : Nat) (q : Record) :
    (Record.changed (Record.settle x) q).state = .settled ∧ (Record.changed (Record.settle x) q).outcome = some x := by
  rw [Record.changed_eq]
  exact ⟨rfl, rfl⟩

end

/-- Settles O53: the cut departs, SETTLED (`settleCut_departed`) or LOST (`loseCut_departed`), and what follows leaves its record. -/
theorem cutSettlesOnItsTrack : Obligations.CutSettlesOnItsTrack := by
  constructor
  · intro s c u p x n b r a h1 h2 hs on sec alone hr ht head at_ lies target ha
    have inside : (cleared c u s).isInTree n = true := (isInTree_iff (cleared c u s)).mpr ⟨r, hr, ht⟩
    have dealt : dealWithHeld u [n] (cleared c u s) = settleCut p x n (cleared c u s) := by
      rw [dealWithHeld_track (s := cleared c u s) at_ lies target]
      show settleCut ((pointOfSection s.layout u).getD 0) x n (cleared c u s) = _
      rw [at_]
      rfl
    have track_ : (cleared c u s).assignedTrack n = some a.track := by
      show (s.record n).bind _ = _
      rw [hr]
      exact congrArg (Option.map Assignment.track) ha
    have tracks : ∀ z, (settleCut p x n (cleared c u s)).track z = { s.track z with
        committed := (s.track z).committed - if a.track = z then s.groupLength n else 0
        fill := if z = x then min ((s.track z).fill + s.groupLength n) 65535 else (s.track z).fill } := fun z => by
      rw [settleCut_track x inside z, track_]
      simp only [Option.some.injEq]
      rfl
    have marked := markedMisroute_calm (cleared c u s) p x n
    have count : (markedMisroute p x n (cleared c u s)).inTree = s.inTree := (markedMisroute_only x _).inTree
    have followers : (markedMisroute p x n (cleared c u s)).joinedFollowers n = s.joinedFollowers n := marked.joinedFollowers n
    have gone := settleCut_departed (p := p) x inside
    have noted : ∃ q, (markedMisroute p x n (cleared c u s)).record n = some q ∧ q.state = r.state ∧ q.speed = r.speed
        ∧ (a.track = x → q.marks = r.marks ∧ q.diversions = r.diversions)
        ∧ (a.track ≠ x → q.marks = r.marks ||| 0x080 ∧ q.Noted r { point := p, reason := .misroute }) := by
      by_cases same : a.track = x
      · rw [markedMisroute_same x (by rw [track_, same])]
        exact ⟨r, hr, rfl, rfl, fun _ => ⟨rfl, rfl⟩, fun e => absurd same e⟩
      · rw [markedMisroute_other track_ same]
        have strayed := strayed_agrees p .misroute r
        exact ⟨_, addMisroute_record .misroute hr, by rw [strayed], by rw [strayed], fun e => absurd e same,
          fun _ => ⟨by rw [strayed], strayed_noted p .misroute r⟩⟩
    obtain ⟨q, hq, state, speed, straight, stray⟩ := noted
    have unsettled : q.state ≠ .settled := fun e => by
      rw [← state, e] at ht
      cases ht
    rw [exec_clear_one h1 h2 hs on sec alone hr head, dealt]
    generalize settleCut p x n (cleared c u s) = w at *
    generalize markedMisroute p x n (cleared c u s) = v at *
    generalize ([n].filter fun m => !w.headIn u m) = cuts
    obtain ⟨record, others, lists, claims, left⟩ := gone.followed (settle_ends x) (settle_ends x) hq (state.symm ▸ ht) s
      (cuts.flatMap w.headClaimPoints) cuts
    have read : ∀ y, (followCuts s cuts w).track y = _ := fun y => (followUp_track s (cuts.flatMap w.headClaimPoints) cuts y).trans (tracks y)
    unfold followCuts at *
    generalize followUp s (cuts.flatMap w.headClaimPoints) cuts w = t at *
    rw [followers] at others
    rw [settle_changed x unsettled] at record
    refine ⟨finish t, _, rfl, record, ⟨rfl, rfl, rfl, rfl, rfl, speed⟩, fun e => ⟨(straight e).1, (straight e).2, ?_⟩,
      fun e => ⟨(stray e).1, (stray e).2, ?_, ?_⟩, ?_, fun m hm => ?_, lists, claims, left.trans (by rw [count])⟩
    · exact (congrArg TrackEntry.committed (read x)).trans (by rw [if_pos e])
    · exact (congrArg TrackEntry.committed (read x)).trans (by rw [if_neg e]; rfl)
    · exact (congrArg TrackEntry.committed (read a.track)).trans (by rw [if_pos rfl])
    · exact (congrArg TrackEntry.fill (read x)).trans (if_pos rfl)
    · obtain ⟨f, hf⟩ := others m hm
      exact ⟨_, hf, settle_state x f⟩
  · rintro s c u p n r h1 h2 hs on sec alone hr ht head at_ lies ⟨b, x, target⟩
    have inside : (cleared c u s).isInTree n = true := (isInTree_iff (cleared c u s)).mpr ⟨r, hr, ht⟩
    have dealt : dealWithHeld u [n] (cleared c u s) = loseCut .noDetection n (cleared c u s) :=
      (dealWithHeld_undetected (s := cleared c u s) at_ lies).trans (if_pos (trackBranch_of target))
    have notLost : r.state ≠ .lost := fun e => by rw [e] at ht; cases ht
    have gone := loseCut_departed .noDetection inside
    have tracks := loseCut_track .noDetection inside
    have lost := (loseCut_latched .noDetection inside).1
    rw [exec_clear_one h1 h2 hs on sec alone hr head, dealt]
    generalize loseCut .noDetection n (cleared c u s) = w at *
    generalize ([n].filter fun m => !w.headIn u m) = cuts
    have stay : FlagsStay w (followCuts s cuts w) := followUp_flagsStay _ _ _
    obtain ⟨record, others, lists, claims, left⟩ := gone.followed (lose_ends _) (lose_ends _) hr ht s
      (cuts.flatMap w.headClaimPoints) cuts
    have read : ∀ y, (followCuts s cuts w).track y = _ := fun y => (followUp_track s (cuts.flatMap w.headClaimPoints) cuts y).trans (tracks y)
    unfold followCuts at *
    generalize followUp s (cuts.flatMap w.headClaimPoints) cuts w = t at *
    rw [lose_changed .noDetection notLost] at record
    refine ⟨finish t, _, rfl, record, ⟨rfl, rfl, rfl, rfl, rfl⟩, fun m hm => ?_, fun y => ?_, lists, claims, left,
      stay _ lost⟩
    · obtain ⟨f, hf⟩ := others m hm
      exact ⟨_, hf, lose_state .leaderLost f⟩
    · have fill := congrArg TrackEntry.fill (read y)
      have committed := congrArg TrackEntry.committed (read y)
      exact ⟨fill, committed⟩

end Sys2Proof.Machine
end

section
/-! A cut goes out of a switch section: the misroute noted, the replan, and what its record shows of them (R32, R87, R91, R127, R129). -/

namespace Sys2Proof.Machine

/-! ### Marks (R31) -/

theorem markBit_and (k m : Mark) : (markBit k &&& markBit m != 0) = decide (m = k) := by
  cases k <;> cases m <;> rfl

/-- The marks of a record to which one has been added. -/
theorem hasMark_added {r w : Record} (k : Mark) (h : w.marks = r.marks ||| markBit k) (m : Mark) : hasMark w m = (hasMark r m || decide (m = k)) := by
  have split : (r.marks ||| markBit k) &&& markBit m = (r.marks &&& markBit m) ||| (markBit k &&& markBit m) := by
    rw [BitVec.and_comm, BitVec.and_or_distrib_left, BitVec.and_comm, BitVec.and_comm (markBit m)]
  rw [hasMark, hasMark, ← markBit_and, h, split, Bool.eq_iff_iff, Bool.or_eq_true, bne_iff_ne, bne_iff_ne, bne_iff_ne]
  exact (not_congr BitVec.or_eq_zero_iff).trans not_and_or

theorem hasMark_same {r w : Record} (h : w.marks = r.marks) (m : Mark) : hasMark w m = hasMark r m := by rw [hasMark, hasMark, h]

/-! ### Replans (R127) -/

section
variable {s : State} {n p x : Nat} {b : Position} {r : Record}

theorem reassign_record (x : Nat) (why : AssignReason) (hr : s.record n = some r) :
    ∃ v, (reassign n x why s).record n = some v
      ∧ v = { r with assigned := some { track := x, reason := why }, marks := v.marks, unseen := v.unseen }
      ∧ ∀ m, m ≠ .overfill → hasMark v m = hasMark r m := by
  by_cases same : s.assignedTrack n = some x
  · rw [reassign_same s same]
    refine ⟨Record.changed (Record.assign { track := x, reason := why }) r, ?_, ?_, fun m _ => ?_⟩
    · rw [setAssignment_record, hr, Option.map_some, if_pos (by rw [record_number s hr]; exact List.mem_cons_self ..)]
    · rw [Record.changed_eq]
      rfl
    · refine hasMark_same ?_ m
      rw [Record.changed_eq]
      rfl
  · obtain ⟨v, hv, cut⟩ := reassign_cut s same why hr
    refine ⟨v, hv, by rw [cut], fun m hm => ?_⟩
    cases takes : s.canTake x (s.groupLength n) with
    | true =>
      refine hasMark_same ?_ m
      rw [cut, if_pos takes]
    | false =>
      rw [hasMark_added .overfill (r := r) (by rw [cut, takes]; rfl) m, decide_eq_false hm, Bool.or_false]

theorem reassign_kept (x : Nat) (why : AssignReason) (y : Nat) :
    ((reassign n x why s).track y).fill = (s.track y).fill ∧ ((reassign n x why s).track y).setting = (s.track y).setting := by
  by_cases same : s.assignedTrack n = some x
  · rw [reassign_same s same, State.track, setAssignment_tracks]
    exact ⟨rfl, rfl⟩
  · rw [reassign_track s same]
    exact ⟨rfl, rfl⟩

theorem replan_kept (y : Nat) : ((replan n p b s).track y).fill = (s.track y).fill ∧ ((replan n p b s).track y).setting = (s.track y).setting := by
  unfold replan
  split
  · rw [State.track, redoClaims_tracks]
    exact ⟨rfl, rfl⟩
  · rename_i x _
    rw [State.track, redoClaims_tracks]
    exact reassign_kept x .diverted y

/-- The track a cut is replanned to from a branch into a section (R127). -/
theorem replanTrack_sec (hr : s.record n = some r) (sec : branchTarget s.layout p b = .sec x) :
    s.replanTrack n p b = if ∃ a, r.assigned = some a ∧ s.tree.trackBelow a.track x = true then none else some (fallbackField s.layout p b) := by
  cases ha : r.assigned with
  | none => simp [State.replanTrack, sec, State.assignedTrack, hr, ha, fallbackTrack]
  | some a =>
    cases hb : s.tree.trackBelow a.track x with
    | true => rw [if_pos ⟨a, rfl, hb⟩, replanTrack_kept s hr ha sec hb]
    | false =>
      rw [if_neg (fun ⟨c, hc, hb'⟩ => by rw [← Option.some.inj hc, hb] at hb'; cases hb'), replanTrack_fallback s hr ha sec hb]

/-- A cut replanned from a branch into a section keeps a track that lies below, and otherwise has the fallback of the branch (R127). -/
theorem replan_record (hr : s.record n = some r) (sec : branchTarget s.layout p b = .sec x) :
    ∃ w, (replan n p b s).record n = some w
      ∧ w = { r with assigned := w.assigned, marks := w.marks, unseen := w.unseen, unplannedBelow := none }
      ∧ (∀ m, m ≠ .overfill → hasMark w m = hasMark r m)
      ∧ (∀ a, r.assigned = some a → s.tree.trackBelow a.track x = true → w.assigned = some a)
      ∧ ((∀ a, r.assigned = some a → s.tree.trackBelow a.track x = false) →
          w.assigned = some { track := fallbackField s.layout p b, reason := .diverted }) := by
  have which := replanTrack_sec (n := n) hr sec
  unfold replan
  rw [which]
  by_cases kept : ∃ a, r.assigned = some a ∧ s.tree.trackBelow a.track x = true
  · obtain ⟨a, ha, hb⟩ := kept
    rw [if_pos ⟨a, ha, hb⟩]
    refine ⟨_, record_redoClaims s hr ha, rfl, fun m _ => rfl, fun c hc _ => hc, fun off => ?_⟩
    rw [off a ha] at hb
    cases hb
  · rw [if_neg kept]
    obtain ⟨v, hv, cut, marks⟩ := reassign_record (n := n) (fallbackField s.layout p b) .diverted hr
    have assigned : v.assigned = some { track := fallbackField s.layout p b, reason := .diverted } := by rw [cut]
    refine ⟨_, record_redoClaims _ hv assigned, ?_, marks, fun a ha hb => absurd ⟨a, ha, hb⟩ kept, fun _ => assigned⟩
    rw [cut]

end

/-! ### The way out of a switch section (R87, R91) -/

/-- A cut has gone out of a switch section by a branch: a misroute is noted where it is wrong, and it is replanned where it is wrong or was not
planned beyond the point. -/
def wentOut (n p : Nat) (b : Position) (why : DivertReason) (wrong unplanned : Bool) (s : State) : State :=
  let s1 := if wrong then addMisroute p why n s else s
  if wrong || unplanned then replan n p b s1 else s1

/-- What the record of a cut shows after it has gone out by a branch into the section `x`. -/
structure Record.WentOut (s : State) (p x : Nat) (b : Position) (why : DivertReason) (wrong unplanned : Prop) (r w : Record) : Prop where
  agrees : w = { r with
    assigned := w.assigned, marks := w.marks, diversions := w.diversions, more := w.more, unseen := w.unseen, unplannedBelow := w.unplannedBelow }
  marks : ∀ m, m ≠ .overfill → m ≠ .misroute → hasMark w m = hasMark r m
  strayed : wrong → hasMark w .misroute = true ∧ w.Noted r { point := p, reason := why }
  straight : ¬ wrong → hasMark w .misroute = hasMark r .misroute ∧ w.diversions = r.diversions ∧ w.more = r.more
  planned : ¬ wrong → ¬ unplanned → w.assigned = r.assigned
  replanned : wrong ∨ unplanned → w.unplannedBelow = none
    ∧ (∀ a, r.assigned = some a → s.tree.trackBelow a.track x = true → w.assigned = some a)
    ∧ ((∀ a, r.assigned = some a → s.tree.trackBelow a.track x = false) →
        w.assigned = some { track := fallbackField s.layout p b, reason := .diverted })

section
variable {s : State} {n p x : Nat} {b : Position} {why : DivertReason} {wrong unplanned : Bool} {r : Record}

theorem wentOut_straight : wentOut n p b why false false s = s := rfl

theorem Record.Noted.congr {w v r : Record} {d : Diversion} (h : v.Noted r d) (diversions : w.diversions = v.diversions) (more : w.more = v.more) :
    w.Noted r d := by
  unfold Record.Noted at *
  rw [diversions, more]
  exact h

theorem wentOut_record (hr : s.record n = some r) (sec : branchTarget s.layout p b = .sec x) :
    ∃ w, (wentOut n p b why wrong unplanned s).record n = some w ∧ Record.WentOut s p x b why (wrong = true) (unplanned = true) r w := by
  cases wrong with
  | true =>
    have only := addMisroute_only (n := n) (p := p) why s
    have layout : (addMisroute p why n s).layout = s.layout := only.layout
    have tree : (addMisroute p why n s).tree = s.tree := by unfold RecordsOnly at only; rw [only]
    obtain ⟨w, hw, agrees, marks, kept, fallback⟩ := replan_record (addMisroute_record why hr) (layout.symm ▸ sec)
    have strayed := strayed_agrees p why r
    have same : (Record.strayed p why r).assigned = r.assigned := by rw [strayed]
    have added : ∀ m, hasMark (Record.strayed p why r) m = (hasMark r m || decide (m = .misroute)) :=
      hasMark_added .misroute (by rw [strayed]; rfl)
    rw [tree, same] at kept fallback
    rw [layout] at fallback
    refine ⟨w, hw, by rw [agrees, strayed], fun m h1 h2 => ?_, fun _ => ⟨?_, ?_⟩, fun h => absurd rfl h, fun h => absurd rfl h,
      fun _ => ⟨by rw [agrees], kept, fallback⟩⟩
    · rw [marks m h1, added, decide_eq_false h2, Bool.or_false]
    · rw [marks _ (by decide), added]
      simp
    · exact (strayed_noted p why r).congr (by rw [agrees]) (by rw [agrees])
  | false =>
    cases unplanned with
    | true =>
      obtain ⟨w, hw, agrees, marks, kept, fallback⟩ := replan_record hr sec
      exact ⟨w, hw, by rw [agrees], fun m h1 _ => marks m h1, nofun, fun _ => ⟨marks _ (by decide), by rw [agrees], by rw [agrees]⟩,
        fun _ h => absurd rfl h, fun _ => ⟨by rw [agrees], kept, fallback⟩⟩
    | false => exact ⟨r, hr, rfl, fun _ _ _ => rfl, nofun, fun _ => ⟨rfl, rfl, rfl⟩, fun _ _ => rfl,
        by rintro (h | h) <;> cases h⟩

theorem addMisroute_ages (s : State) : SameAges s (addMisroute p why n s) :=
  (changeRecord_ages s n (withMark .misroute) (fun _ => rfl) fun _ => rfl).trans
    (changeRecord_ages _ n (withDiversion p why) (withDiversion_number why) fun r => by rw [withDiversion_agrees why r])

theorem wentOut_ages : SameAges s (wentOut n p b why wrong unplanned s) := by
  have first : SameAges s (if wrong = true then addMisroute p why n s else s) := .ite (addMisroute_ages s) (.refl s)
  exact .ite (first.trans (replan_ages _ n p b)) first

theorem wentOut_replans : Replans n s (wentOut n p b why wrong unplanned s) := by
  have noted : Replans n s (addMisroute p why n s) := (changeRecord_replans s n n _).trans (changeRecord_replans _ n n _)
  unfold wentOut
  cases wrong with
  | true => exact noted.trans (replan_replans _ n p b)
  | false =>
    cases unplanned with
    | true => exact replan_replans s n p b
    | false => exact .refl s

theorem wentOut_kept (y : Nat) : ((wentOut n p b why wrong unplanned s).track y).fill = (s.track y).fill
    ∧ ((wentOut n p b why wrong unplanned s).track y).setting = (s.track y).setting := by
  unfold wentOut
  cases wrong with
  | true =>
    have noted : (addMisroute p why n s).track y = s.track y := (addMisroute_only why s).track y
    have kept := replan_kept (n := n) (p := p) (b := b) (s := addMisroute p why n s) y
    rw [noted] at kept
    exact kept
  | false =>
    cases unplanned with
    | true => exact replan_kept y
    | false => exact ⟨rfl, rfl⟩

end

end Sys2Proof.Machine
end

section
/-! The one cut of a clearing section is held UNPROVEN, or closed up into the section its way out names (R82, R91, R93, R97, R99). -/

namespace Sys2Proof.Machine

/-! ### Nothing follows (R120, R122) -/

section
variable {s t : State}

/-- A change that calls for no throw decision and no choice of watch point is followed by nothing. -/
theorem followUp_quiet {old : State} (points : ∀ p, decisionDue old s p = false) (cuts : ∀ n, watchDue old s n = false) :
    followUp old [] [] s = s := by
  have decisions : takeDecisions old [] s = s := by
    unfold takeDecisions
    rw [List.filter_eq_nil_iff.mpr fun p _ => by simp [points p]]
    rfl
  unfold followUp takeWatches
  rw [decisions, List.filter_eq_nil_iff.mpr fun n _ => by simp [cuts n]]
  rfl

/-- Sections and inputs apart, a change calls for a throw decision only at a switch section that has come CLEAR. -/
theorem decisionDue_unlocked {p : Nat} (claims : t.claims = s.claims) (points : t.points = s.points) :
    decisionDue s t p = (s.locked p && !t.locked p) := by
  have head : t.headClaim p = s.headClaim p := by unfold State.headClaim State.claimsAt; rw [claims]
  have point : t.point p = s.point p := by unfold State.point; rw [points]
  unfold decisionDue
  rw [head, point]
  cases s.locked p && !t.locked p <;> simp

/-- A change that leaves claims, points and detections calls for no choice of watch point. -/
theorem watchDue_none {n : Nat} (claims : t.claims = s.claims) (points : t.points = s.points) (detected : ∀ p, t.detected p = s.detected p) :
    watchDue s t n = false := by
  have ahead : ∀ p, t.aheadOf p n = s.aheadOf p n := fun p => by unfold State.aheadOf State.claimsAhead State.claimsAt; rw [claims]
  have point : ∀ p, t.point p = s.point p := fun p => by unfold State.point; rw [points]
  have settled : ∀ p, settledAnew s t p = false := fun p => by
    unfold settledAnew
    rw [point]
    simp
  unfold watchDue
  simp only [ahead, point, detected, settled, bne_self_eq_false, Bool.or_false, List.any_eq_false, Bool.or_eq_false_iff]
  refine ⟨fun _ _ => nofun, ?_⟩
  split <;> rfl

end

/-! ### Held UNPROVEN (R93) -/

section
variable {s : State} {c u : Nat}

theorem used_of_channel (sec : sectionOfChannel s.layout c = some u) : sectionUsed s.layout u = true ∧ sectionChannel s.layout u = c := by
  have found := List.find?_some sec
  simpa using found

theorem held_section (y : Nat) :
    (holdUnproven u (cleared c u s)).section y
      = if y = u then { s.section u with unexplained := false, unproven := true, proving := some (later s.clock (provingInterval s.layout)) }
        else s.section y := by
  rw [holdUnproven, section_changeSection, cleared_section, cleared_section, if_pos rfl]
  split <;> rfl

theorem channel_cleared (d : Nat) : (cleared c u s).channel d = if d = c then false else s.channel d := channel_setChannel s c false d

theorem cleared_input {d : Nat} (ne : sectionChannel s.layout d ≠ c) : (cleared c u s).sectionInput d = s.sectionInput d := by
  unfold State.sectionInput
  rw [channel_cleared, if_neg (by exact ne)]
  rfl

/-- A clear section stays clear. -/
theorem cleared_input_off {d : Nat} (off : s.sectionInput d = false) : (cleared c u s).sectionInput d = false := by
  by_cases e : sectionChannel s.layout d = c
  · unfold State.sectionInput
    rw [channel_cleared, if_pos (by exact e), Bool.and_false]
  · rw [cleared_input e]
    exact off

/-- The shown states while the section that has come clear is held: it is UNPROVEN, and the others stand. -/
theorem held_shown (sec : sectionOfChannel s.layout c = some u)
    (own : ∀ v, sectionUsed s.layout v = true → sectionChannel s.layout v = c → v = u) (v : Nat) :
    (holdUnproven u (cleared c u s)).shownState v = if v = u then .unproven else s.shownState v := by
  obtain ⟨used, channel⟩ := used_of_channel sec
  have input : ∀ v, (holdUnproven u (cleared c u s)).sectionInput v = (cleared c u s).sectionInput v := fun _ => rfl
  unfold State.shownState
  rw [held_section, input]
  by_cases e : v = u
  · subst e
    have off : (cleared c v s).sectionInput v = false := by
      unfold State.sectionInput
      rw [channel_cleared, if_pos (by exact channel), Bool.and_false]
    rw [if_pos rfl, if_pos rfl, off]
    exact (if_pos (show sectionUsed (holdUnproven v (cleared c v s)).layout v = true from used)).trans (if_pos rfl).symm
  · rw [if_neg e, if_neg e]
    show (if sectionUsed s.layout v = true then _ else _) = _
    by_cases hv : sectionUsed s.layout v = true
    · rw [if_pos hv, if_pos hv, cleared_input fun e' => e (own v hv e')]
    · rw [if_neg hv, if_neg hv]

theorem held_quiet (sec : sectionOfChannel s.layout c = some u)
    (own : ∀ v, sectionUsed s.layout v = true → sectionChannel s.layout v = c → v = u) :
    followUp s [] [] (holdUnproven u (cleared c u s)) = holdUnproven u (cleared c u s) := by
  refine followUp_quiet (fun p => ?_) fun n => watchDue_none rfl rfl fun _ => rfl
  rw [decisionDue_unlocked (s := s) (t := holdUnproven u (cleared c u s)) rfl rfl]
  unfold State.locked
  rw [held_shown sec own]
  show (pointUsed s.layout p && _ && !(pointUsed s.layout p && _)) = false
  cases pointUsed s.layout p with
  | false => rfl
  | true =>
    split
    · exact (congrArg _ (show (!(true && SectionShown.unproven != SectionShown.clear)) = false from rfl)).trans (Bool.and_false _)
    · exact Bool.and_not_self _

end

/-! ### Closed up (R91, R97, R99) -/

section
variable {s : State} {n d u : Nat} {r : Record}

/-- The claim of a cut at a point requires another position than the branch it took. -/
def State.claimAgainst (s : State) (p n : Nat) (b : Position) : Bool :=
  match s.claimOf p n with
  | some c => c.position != b
  | none => false

theorem claimAgainst_iff {p : Nat} {b : Position} : s.claimAgainst p n b = true ↔ ∃ k, s.claimOf p n = some k ∧ k.position ≠ b := by
  unfold State.claimAgainst
  cases s.claimOf p n with
  | none => simp
  | some k => simp

/-- The cut was not planned beyond a point. -/
def State.unplannedAt (s : State) (p n : Nat) : Bool := ((s.record n).bind Record.unplannedBelow) == some p

theorem closeUp_full (full : 4 ≤ (s.section d).occupants.length) : closeUp u d s n = loseCut .overcrowded n s := if_pos full

theorem closeUp_at {p : Nat} {b : Position} (room : (s.section d).occupants.length < 4) (at_ : pointOfSection s.layout u = some p)
    (lies : s.detection p = some b) :
    closeUp u d s n = wentOut n p b .misroute (s.claimAgainst p n b) (s.unplannedAt p n) (broughtUp d n s) := by
  unfold closeUp
  rw [if_neg (show ¬ Config.maxOccupants ≤ _ from Nat.not_le.mpr room), at_]
  simp only [Option.bind_some, lies]
  rfl

theorem closeUp_plain (room : (s.section d).occupants.length < 4) (at_ : pointOfSection s.layout u = none) :
    closeUp u d s n = broughtUp d n s := by
  unfold closeUp
  rw [if_neg (show ¬ Config.maxOccupants ≤ _ from Nat.not_le.mpr room), at_]
  rfl

theorem enterSection_occupants (x y : Nat) :
    ((enterSection x n s).section y).occupants
      = if y = x then (if n ∈ (s.section x).occupants then (s.section x).occupants else insertCut s n (s.section x).occupants)
        else (s.section y).occupants := by
  rw [enterSection, section_changeSection]
  split
  · by_cases h : n ∈ (s.section x).occupants
    · rw [if_pos h, if_pos (by simpa using h)]
    · rw [if_neg h, if_neg (by simpa using h)]
  · rfl

/-- The lists after a cut has come into one section and left others. -/
theorem moved_occupants {back : List Nat} {x : Nat} (away : x ∉ back) (y : Nat) :
    ((leaveSections back n (enterSection x n s)).section y).occupants
      = if y = x then (if n ∈ (s.section x).occupants then (s.section x).occupants else insertCut s n (s.section x).occupants)
        else if y ∈ back then (s.section y).occupants.filter (fun m => m != n) else (s.section y).occupants := by
  rw [occupants_leaveSections, enterSection_occupants]
  by_cases e : y = x
  · rw [if_neg (e ▸ away), if_pos e, if_pos e]
  · rw [if_neg e, if_neg e]

theorem changeRecord_section (k : Nat) (f : Record → Record) (y : Nat) : (changeRecord k f s).section y = s.section y := by
  unfold State.section
  rw [changeRecord_sections]

theorem withdrawAt_section (l : List Nat) (k y : Nat) : (withdrawAt l k s).section y = s.section y := by
  unfold State.section
  rw [withdrawAt_frame]

theorem moved_frame (back : List Nat) (x : Nat) (s : State) :
    leaveSections back n (enterSection x n s) = { s with sections := (leaveSections back n (enterSection x n s)).sections } := by
  rw [leaveSections_frame]
  rfl

/-- The rest of a cut's span. -/
theorem mem_back {x y : Nat} : y ∈ (s.spanOf n).filter (fun y => y != x) ↔ y ∈ s.spanOf n ∧ y ≠ x := by
  rw [List.mem_filter, bne_iff_ne]

theorem broughtUp_occupants (y : Nat) :
    ((broughtUp d n s).section y).occupants
      = if y = d then (if n ∈ (s.section d).occupants then (s.section d).occupants else insertCut s n (s.section d).occupants)
        else (s.section y).occupants.filter (fun m => m != n) := by
  unfold broughtUp
  dsimp only
  rw [withdrawAt_section, addMark, changeRecord_section, changeRecord_section, moved_occupants fun h => (mem_back.mp h).2 rfl]
  split
  · rfl
  · rename_i ne
    split
    · rfl
    · rename_i off
      refine (List.filter_eq_self.mpr fun m hm => ?_).symm
      exact bne_iff_ne.mpr fun e => off (mem_back.mpr ⟨mem_spanOf s (e ▸ hm), ne⟩)

/-- A record credited with a head section without a measured speed, and marked CLOSED_UP (R91). -/
theorem broughtUp_record (hr : s.record n = some r) :
    ∃ v, (broughtUp d n s).record n = some v
      ∧ v = { Record.credit s d d r.speed false r with marks := r.marks ||| 0x040, unseen := v.unseen } := by
  have credited : (changeRecord n (fun r => Record.credit s d d r.speed false r)
      (leaveSections ((s.spanOf n).filter (fun y => y != d)) n (enterSection d n s))).record n
        = some (Record.changed (fun r => Record.credit s d d r.speed false r) r) := by
    rw [record_changeRecord_same _ n (fun r => Record.credit s d d r.speed false r) fun _ => rfl, record_congr (s := s) (by rw [moved_frame]), hr]
    rfl
  refine ⟨Record.changed (withMark .closedUp) (Record.changed (fun r => Record.credit s d d r.speed false r) r), ?_, ?_⟩
  · unfold broughtUp
    dsimp only
    rw [record_congr (withdrawAt_records _ _ n).1]
    refine (record_changeRecord_same _ n (withMark .closedUp) fun _ => rfl).trans ?_
    rw [credited]
    rfl
  · rw [Record.changed_eq, Record.changed_eq]
    rfl

theorem broughtUp_frame (s : State) : broughtUp d n s = { s with
    records := (broughtUp d n s).records, sections := (broughtUp d n s).sections, claims := (broughtUp d n s).claims
    flags := (broughtUp d n s).flags } := by
  have first := changeRecord_only (leaveSections ((s.spanOf n).filter (fun y => y != d)) n (enterSection d n s)) n
    fun r => Record.credit s d d r.speed false r
  have second := changeRecord_only (changeRecord n (fun r => Record.credit s d d r.speed false r)
    (leaveSections ((s.spanOf n).filter (fun y => y != d)) n (enterSection d n s))) n (withMark .closedUp)
  unfold RecordsOnly at first second
  unfold broughtUp addMark
  dsimp only
  rw [withdrawAt_frame, second, first, moved_frame]

theorem broughtUp_ages : SameAges s (broughtUp d n s) := by
  have lists : SameAges s (leaveSections ((s.spanOf n).filter (fun y => y != d)) n (enterSection d n s)) :=
    (SameAges.of_records (s := s) (t := enterSection d n s) rfl rfl).trans (leaveSections_ages _ _ n)
  exact ((lists.trans (changeRecord_ages _ n (fun r => Record.credit s d d r.speed false r) (fun _ => rfl) fun _ => rfl)).trans
    (changeRecord_ages _ n (withMark .closedUp) (fun _ => rfl) fun _ => rfl)).trans (withdrawAt_ages _ _ n)

theorem broughtUp_claimOf {p x : Nat} (left : x ∈ s.spanOf n) (ne : x ≠ d) (at_ : pointOfSection s.layout x = some p) :
    (broughtUp d n s).claimOf p n = none := by
  have back : p ∈ s.pointsIn ((s.spanOf n).filter (fun y => y != d)) := List.mem_filterMap.mpr ⟨x, mem_back.mpr ⟨left, ne⟩, at_⟩
  exact (claimOf_withdrawAt _ _ n p n).trans (if_pos ⟨back, rfl⟩)

end

/-- The cut of a clearing section whose way out is clear or unknown is held (R93). -/
theorem dealWithHeld_held {s : State} {c u d n : Nat}
    (way : s.wayOut u = some (.sec d) ∧ s.sectionInput d = false
      ∨ ∃ p e, pointOfSection s.layout u = some p ∧ s.detection p = none ∧ branchTarget s.layout p .normal = .sec d
          ∧ branchTarget s.layout p .reverse = .sec e) :
    dealWithHeld u [n] (cleared c u s) = holdUnproven u (cleared c u s) := by
  rcases way with ⟨way, off⟩ | ⟨p, e, at_, lies, normal, reverse⟩
  · have same : (cleared c u s).wayOut u = some (.sec d) := way
    unfold dealWithHeld
    rw [same]
    exact if_neg (by rw [cleared_input_off off]; nofun)
  · refine (dealWithHeld_undetected (s := cleared c u s) at_ lies).trans (if_neg ?_)
    show ¬ trackBranch s.layout p = true
    unfold trackBranch
    rw [normal, reverse]
    nofun

/-- The cut of a clearing section whose way out is occupied is closed up (R91). -/
theorem dealWithHeld_up {s : State} {c u e n : Nat} (way : s.wayOut u = some (.sec e)) (on : s.sectionInput e = true)
    (other : sectionChannel s.layout e ≠ c) : dealWithHeld u [n] (cleared c u s) = closeUp u e (cleared c u s) n := by
  have same : (cleared c u s).wayOut u = some (.sec e) := way
  unfold dealWithHeld
  rw [same]
  exact if_pos ((cleared_input other).trans on)

/-- A cut closed up where there is room: brought up, and the way it went compared with the point there (R91). -/
theorem closeUp_went {s : State} {u e n : Nat} (room : (s.section e).occupants.length < 4) (way : s.wayOut u = some (.sec e)) :
    (pointOfSection s.layout u = none ∧ closeUp u e s n = broughtUp e n s)
      ∨ ∃ p b, pointOfSection s.layout u = some p ∧ s.detection p = some b ∧ branchTarget s.layout p b = .sec e
        ∧ closeUp u e s n = wentOut n p b .misroute (s.claimAgainst p n b) (s.unplannedAt p n) (broughtUp e n s) := by
  cases at_ : pointOfSection s.layout u with
  | none => exact .inl ⟨rfl, closeUp_plain room at_⟩
  | some p =>
    unfold State.wayOut at way
    rw [at_] at way
    obtain ⟨b, lies, target⟩ := Option.map_eq_some_iff.mp way
    exact .inr ⟨p, b, rfl, lies, target, closeUp_at room at_ lies⟩

end Sys2Proof.Machine
end

section
/-! The one cut of a clearing section is closed up into the section below, or lost there for want of room (R91, R97, R99, R127, R129). -/

namespace Sys2Proof.Machine

section
variable {s t : State} {n e u : Nat} {r : Record}

theorem Record.WentOut.iff {p x : Nat} {b : Position} {why : DivertReason} {wrong unplanned wrong' unplanned' : Prop} {v w : Record}
    (h : Record.WentOut s p x b why wrong unplanned v w) (hw : wrong ↔ wrong') (hu : unplanned ↔ unplanned') :
    Record.WentOut s p x b why wrong' unplanned' v w :=
  ⟨h.agrees, h.marks, fun k => h.strayed (hw.mpr k), fun k => h.straight (mt hw.mp k),
    fun k l => h.planned (mt hw.mp k) (mt hu.mp l), fun k => h.replanned (k.imp hw.mpr hu.mpr)⟩

theorem Record.WentOut.congr {p x : Nat} {b : Position} {why : DivertReason} {wrong unplanned : Prop} {v w : Record}
    (h : Record.WentOut t p x b why wrong unplanned v w) (tree : t.tree = s.tree) (layout : t.layout = s.layout) :
    Record.WentOut s p x b why wrong unplanned v w :=
  ⟨h.agrees, h.marks, h.strayed, h.straight, h.planned, by rw [← tree, ← layout]; exact h.replanned⟩

/-- The record of a cut credited with a head section without a measured speed. -/
def Record.up (s : State) (e : Nat) (r v : Record) : Prop :=
  v = { Record.credit s e e r.speed false r with marks := r.marks ||| 0x040, unseen := v.unseen }

/-- What a cut closed up where there is room becomes: brought up, and by a point in use gone out by its branch. -/
theorem closeUp_room (hr : s.record n = some r) (room : (s.section e).occupants.length < 4) (way : s.wayOut u = some (.sec e)) :
    Replans n (broughtUp e n s) (closeUp u e s n) ∧ SameAges (broughtUp e n s) (closeUp u e s n)
      ∧ ∃ v w, Record.up s e r v ∧ (closeUp u e s n).record n = some w
        ∧ w = { v with
            assigned := w.assigned, marks := w.marks, diversions := w.diversions, more := w.more, unseen := w.unseen
            unplannedBelow := w.unplannedBelow }
        ∧ hasMark w .closedUp = true
        ∧ (pointOfSection s.layout u = none → w = v ∧ closeUp u e s n = broughtUp e n s)
        ∧ ∀ p b, pointOfSection s.layout u = some p → s.detection p = some b →
            Record.WentOut s p e b .misroute (∃ k, s.claimOf p n = some k ∧ k.position ≠ b) (r.unplannedBelow = some p) v w
            ∧ (¬ (∃ k, s.claimOf p n = some k ∧ k.position ≠ b) → r.unplannedBelow ≠ some p → closeUp u e s n = broughtUp e n s) := by
  obtain ⟨v, hv, up⟩ := broughtUp_record (d := e) hr
  have marked : hasMark v .closedUp = true := by
    rw [hasMark_added .closedUp (r := r) (by rw [up]; rfl)]
    simp
  rcases closeUp_went (n := n) room way with ⟨at_, plain⟩ | ⟨p, b, at_, lies, target, went⟩
  · rw [plain]
    exact ⟨.refl _, .refl _, v, v, up, hv, rfl, marked, fun _ => ⟨rfl, rfl⟩, fun p b at' => by rw [at_] at at'; cases at'⟩
  · have tree : (broughtUp e n s).tree = s.tree := by rw [broughtUp_frame]
    have layout : (broughtUp e n s).layout = s.layout := by rw [broughtUp_frame]; rfl
    have below : s.unplannedAt p n = true ↔ r.unplannedBelow = some p := by
      unfold State.unplannedAt
      rw [hr]
      exact beq_iff_eq
    obtain ⟨w, hw, out⟩ := wentOut_record (why := .misroute) (wrong := s.claimAgainst p n b) (unplanned := s.unplannedAt p n) hv
      (layout.symm ▸ target)
    have out' := (out.congr tree layout).iff claimAgainst_iff below
    rw [went]
    refine ⟨wentOut_replans, wentOut_ages, v, w, up, hw, out.agrees, (out.marks _ (by decide) (by decide)).trans marked,
      fun plain => (by rw [at_] at plain; cases plain), fun p' b' at' lies' => ?_⟩
    obtain rfl := Option.some.inj (at_.symm.trans at')
    obtain rfl := Option.some.inj (lies.symm.trans lies')
    refine ⟨out', fun right planned => ?_⟩
    rw [eq_false_of_ne_true (mt claimAgainst_iff.mp right), eq_false_of_ne_true (mt below.mp planned)]
    rfl

end

/-- Settles O54: the cut is held (`dealWithHeld_held`) and nothing follows, or it is closed up (`closeUp_room`) or lost (`loseCut_departed`). -/
theorem unseenWayOutIsHeld : Obligations.UnseenWayOutIsHeld := by
  constructor
  · intro s c u d n r h1 h2 hs on sec alone hr head way own
    have dealt := dealWithHeld_held (c := c) (n := n) way
    have here : (holdUnproven u (cleared c u s)).headIn u n = true := by
      show ((s.record n).bind Record.head == some u) = true
      rw [hr]
      exact beq_iff_eq.mpr head
    have none_ : ([n].filter fun m => !(holdUnproven u (cleared c u s)).headIn u m) = [] := by
      rw [List.filter_eq_nil_iff]
      intro m hm
      rw [List.mem_singleton.mp hm, here]
      nofun
    have quiet : followCuts s [] (holdUnproven u (cleared c u s)) = holdUnproven u (cleared c u s) := held_quiet sec own
    have exec_ := exec_clear_one h1 h2 hs on sec alone hr head
    rw [dealt, none_, quiet] at exec_
    refine ⟨_, exec_, (held_section u).trans (if_pos rfl), fun y hy => (held_section y).trans (if_neg hy),
      (held_shown sec own u).trans (if_pos rfl), fun k => rfl, rfl, rfl⟩
  · intro s c u e n r h1 h2 hs on sec alone hr ht head way ne input other len wrong
    have inside : (cleared c u s).isInTree n = true := (isInTree_iff (cleared c u s)).mpr ⟨r, hr, ht⟩
    have exec_ := exec_clear_one h1 h2 hs on sec alone hr head
    rw [dealWithHeld_up way input other] at exec_
    have occupants : ((cleared c u s).section e).occupants = (s.section e).occupants := cleared_occupants e
    by_cases room : (s.section e).occupants.length < 4
    · obtain ⟨replans, ages, v, w, up, hw, agrees, marked, plain, went⟩ := closeUp_room (s := cleared c u s) hr (occupants.symm ▸ room) way
      have span : u ∈ (cleared c u s).spanOf n := mem_spanOf _ (by
        show n ∈ ((cleared c u s).section u).occupants
        rw [cleared_occupants, alone]
        exact List.mem_singleton.mpr rfl)
      have left : ∀ p, pointOfSection s.layout u = some p → (broughtUp e n (cleared c u s)).claimOf p n = none := fun p at_ =>
        broughtUp_claimOf span (Ne.symm ne) at_
      have lists : ∀ y, ((closeUp u e (cleared c u s) n).section y).occupants
          = if y = e then (if n ∈ (s.section e).occupants then (s.section e).occupants else insertCut (cleared c u s) n (s.section e).occupants)
            else (s.section y).occupants.filter (fun m => m != n) := fun y => by
        have same : (closeUp u e (cleared c u s) n).sections = (broughtUp e n (cleared c u s)).sections := by rw [replans.frame]
        have brought := broughtUp_occupants (s := cleared c u s) (n := n) (d := e) y
        rw [cleared_occupants, cleared_occupants] at brought
        rw [State.section, same]
        exact brought
      have count : (closeUp u e (cleared c u s) n).inTree = s.inTree := by
        rw [replans.frame, broughtUp_frame]
        rfl
      have ages' : SameAges s (closeUp u e (cleared c u s) n) :=
        (SameAges.of_records (s := s) (t := cleared c u s) rfl rfl).trans (broughtUp_ages.trans ages)
      have placed : n ∉ (s.section e).occupants →
          s.Placed id n (s.section e).occupants (insertCut (cleared c u s) n (s.section e).occupants) := fun _ =>
        (SameAges.of_records (s := cleared c u s) (t := s) rfl rfl).placed (insertCut_placed (cleared c u s) n _)
      have unmoved : (broughtUp e n (cleared c u s)).tracks = s.tracks := by
        rw [broughtUp_frame]
        rfl
      generalize closeUp u e (cleared c u s) n = T at *
      have headW : w.head = some e := by rw [agrees, up]; rfl
      have moved : T.headIn u n = false := by
        show ((T.record n).bind Record.head == some u) = false
        rw [hw]
        show (w.head == some u) = false
        rw [headW]
        simpa using ne
      have cuts : ([n].filter fun m => !T.headIn u m) = [n] := by simp [moved]
      rw [cuts, followCuts] at exec_
      obtain ⟨z, hz, watch, chosen⟩ := followUp_record T s ([n].flatMap T.headClaimPoints) (List.mem_singleton.mpr rfl) hw
      have section_ := fun y => congrArg SectionEntry.occupants (followUp_section (s := T) s ([n].flatMap T.headClaimPoints) [n] y)
      have onward : SameAges T (followUp s ([n].flatMap T.headClaimPoints) [n] T) := followUp_ages T s _ _
      have inTree := followUp_inTree (s := T) s ([n].flatMap T.headClaimPoints) [n]
      have tracks := (followUp_claims T s ([n].flatMap T.headClaimPoints) [n]).2
      have claimOf := fun p => followUp_claimOf (s := T) s ([n].flatMap T.headClaimPoints) [n] p n
      generalize followUp s ([n].flatMap T.headClaimPoints) [n] T = t at *
      unfold Record.up at up
      have state : w.state = (cleared c u s).resumed r := by rw [agrees, up]; rfl
      have stays : w.state = (if r.state = .stalled then (if s.crest = .counting ∧ s.crestCut = some n then .releasing else .rolling) else r.state) := by
        rw [state, State.resumed, record_number s hr]
        rfl
      have stall : w.stallDeadline = some (later s.clock (max (stallMinimum s.layout) (3 * (len * 10000 / r.speed.getD 0)))) := by
        rw [agrees, up]
        show some (later s.clock ((cleared c u s).stallLimit r.number e (r.speed.getD 0))) = _
        rw [record_number s hr]
        rfl
      have fields : z.head = w.head ∧ z.tail = w.tail ∧ z.headEntry = w.headEntry ∧ z.timed = w.timed ∧ z.speed = w.speed
          ∧ z.stallDeadline = w.stallDeadline ∧ z.state = w.state ∧ z.marks = w.marks ∧ z.diversions = w.diversions ∧ z.more = w.more
          ∧ z.assigned = w.assigned ∧ z.unplannedBelow = w.unplannedBelow := by
        rw [watch]
        exact ⟨rfl, rfl, rfl, rfl, rfl, rfl, rfl, rfl, rfl, rfl, rfl, rfl⟩
      obtain ⟨zHead, zTail, zEntry, zTimed, zSpeed, zStall, zState, zMarks, zDiversions, zMore, zAssigned, zUnplanned⟩ := fields
      have before : ∀ m, m ≠ .closedUp → hasMark v m = hasMark r m := fun m hm => by
        rw [hasMark_added .closedUp (r := r) (by rw [up]; rfl), decide_eq_false hm, Bool.or_false]
      have group : v.assigned = r.assigned ∧ v.diversions = r.diversions ∧ v.more = r.more := by
        rw [up]
        exact ⟨rfl, rfl, rfl⟩
      obtain ⟨vAssigned, vDiversions, vMore⟩ := group
      refine ⟨finish t, z, exec_, hz, fun _ => ⟨⟨?_, ?_, ?_, ?_, ?_⟩, zStall.trans stall, zState.trans stays, (hasMark_same zMarks _).trans marked, ?_,
        fun y hy => ?_, fun off => ?_, inTree.trans count, fun moving => chosen (zState ▸ moving), fun right => ?_, fun p b stray at_ lies => ?_⟩,
        fun full => absurd room (Nat.not_lt.mpr full)⟩
      · exact zHead.trans headW
      · exact zTail.trans (by rw [agrees, up]; rfl)
      · exact zEntry.trans (by rw [agrees, up]; rfl)
      · exact zTimed.trans (by rw [agrees, up]; rfl)
      · exact zSpeed.trans (by rw [agrees, up]; rfl)
      · show n ∈ (t.section e).occupants
        rw [section_, lists, if_pos rfl]
        split
        · assumption
        · exact (insertCut_perm _ n _).mem_iff.mpr (List.mem_cons_self ..)
      · show n ∉ (t.section y).occupants
        rw [section_, lists, if_neg hy]
        exact fun h => by simpa using (List.mem_filter.mp h).2
      · show State.Placed (finish t) id n (s.section e).occupants (t.section e).occupants
        rw [section_, lists, if_pos rfl, if_neg off]
        exact ((ages'.trans onward).trans (SameAges.of_records (t := finish t) rfl rfl)).placed (placed off)
      · cases at_ : pointOfSection s.layout u with
        | none =>
          obtain ⟨rfl, same⟩ := plain at_
          refine ⟨(hasMark_same zMarks _).trans (before _ (by decide)), zDiversions.trans vDiversions, zMore.trans vMore,
            fun _ => ⟨zAssigned.trans vAssigned, tracks.trans (same ▸ unmoved), nofun⟩, nofun⟩
        | some p =>
          have lies : ∃ b, s.detection p = some b := by
            unfold State.wayOut at way
            rw [at_] at way
            obtain ⟨b, lies, -⟩ := Option.map_eq_some_iff.mp way
            exact ⟨b, lies⟩
          obtain ⟨b, lies⟩ := lies
          obtain ⟨out, still⟩ := went p b at_ lies
          have straight : ¬ ∃ k, s.claimOf p n = some k ∧ k.position ≠ b := fun ⟨k, hk, ne⟩ => right ⟨p, b, k, at_, lies, hk, ne⟩
          obtain ⟨marks, diversions, more⟩ := out.straight straight
          refine ⟨(hasMark_same zMarks _).trans (marks.trans (before _ (by decide))), zDiversions.trans (diversions.trans vDiversions),
            zMore.trans (more.trans vMore), fun planned => ?_, fun p' b' at' lies' unplanned => ?_⟩
          · have planned := planned.resolve_left nofun
            have same := still straight planned
            refine ⟨zAssigned.trans ((out.planned straight planned).trans vAssigned), tracks.trans (same ▸ unmoved), fun p' at' => ?_⟩
            obtain rfl := Option.some.inj at'
            exact (claimOf p).trans (same ▸ left p at_)
          · obtain rfl := Option.some.inj at'
            obtain rfl := Option.some.inj (lies.symm.trans lies')
            obtain ⟨dropped, kept, fallback⟩ := out.replanned (.inr unplanned)
            rw [vAssigned, ← zAssigned] at kept fallback
            exact ⟨zUnplanned.trans dropped, kept, fallback⟩
      · obtain ⟨out, -⟩ := went p b at_ lies
        have stray : ∃ k, s.claimOf p n = some k ∧ k.position ≠ b := by
          obtain ⟨p', b', k, at', lies', hk, ne⟩ := stray
          obtain rfl := Option.some.inj (at_.symm.trans at')
          obtain rfl := Option.some.inj (lies.symm.trans lies')
          exact ⟨k, hk, ne⟩
        obtain ⟨misroute, noted⟩ := out.strayed stray
        obtain ⟨dropped, kept, fallback⟩ := out.replanned (.inl stray)
        rw [vAssigned, ← zAssigned] at kept fallback
        refine ⟨(hasMark_same zMarks _).trans misroute, ?_, zUnplanned.trans dropped, kept, fallback⟩
        unfold Record.Noted at noted ⊢
        rw [vDiversions, vMore] at noted
        rw [zDiversions, zMore]
        exact noted
    · rw [closeUp_full (occupants.symm ▸ Nat.not_lt.mp room)] at exec_
      have gone := loseCut_departed .overcrowded inside
      have notLost : r.state ≠ .lost := fun e => by rw [e] at ht; cases ht
      generalize loseCut .overcrowded n (cleared c u s) = w at *
      generalize ([n].filter fun m => !w.headIn u m) = cuts at exec_
      obtain ⟨record, -, lists, claims, left⟩ := gone.followed (lose_ends _) (lose_ends _) hr ht s (cuts.flatMap w.headClaimPoints) cuts
      unfold followCuts at exec_
      generalize followUp s (cuts.flatMap w.headClaimPoints) cuts w = t at *
      obtain ⟨state, reason⟩ := lose_state .overcrowded r
      exact ⟨_, _, exec_, record, fun h => absurd h room, fun _ => ⟨state, reason, left, lists, claims⟩⟩

end Sys2Proof.Machine
end

section
/-! Who the entrant of a section is, and an occupation with none: UNEXPLAINED, or the end of a hold, and the point whose wheels it is (R26, R85, R88, R141). -/

namespace Sys2Proof.Machine

/-! ### The entrant (R26, R85) -/

section
variable {s : State} {n x u : Nat}

theorem State.ReleasedBefore.asymm {m : Nat} (h : s.ReleasedBefore n m) : ¬ s.ReleasedBefore m n := by
  unfold State.ReleasedBefore at *
  omega

/-- The head of a list in order by release sequence is the earliest. -/
theorem head_of_earliest {l : List Nat} (once : l.Nodup) (on : n ∈ l) (first : ∀ m ∈ l, m ≠ n → s.ReleasedBefore n m) :
    (sortCuts s l).head? = some n := by
  have sorted := sortCuts_pairwise (s := s) once
  have same := fun m => (sortCuts_perm s l).mem_iff (a := m)
  cases hl : sortCuts s l with
  | nil =>
    have here := (same n).mpr on
    rw [hl] at here
    cases here
  | cons m rest =>
    rw [hl] at sorted same
    obtain ⟨least, -⟩ := List.pairwise_cons.mp sorted
    by_cases e : m = n
    · rw [e]
      rfl
    · have after := (List.mem_cons.mp ((same n).mpr on)).resolve_left (Ne.symm e)
      exact absurd (least n after) (first m ((same m).mp (List.mem_cons_self ..)) e).asymm

theorem entrant_first : s.entrant 1
    = (sortCuts s ((s.records.filter (fun r => r.state.inTree && r.head.isNone)).map Record.number)).head? := if_pos rfl

theorem entrant_later (ne : x ≠ 1) : s.entrant x = (s.tree.upstream x).bind fun u => (s.section u).occupants.find? (s.headIn u) := by
  unfold State.entrant
  rw [if_neg ne]
  cases s.tree.upstream x with
  | none => rfl
  | some u =>
    show List.find? _ _ = List.find? _ _
    congr 1
    funext n
    unfold State.headIn
    cases s.record n with
    | none => rfl
    | some r => rfl

/-- A cut that waits above the release section. -/
theorem mem_waiting : n ∈ (s.records.filter (fun r => r.state.inTree && r.head.isNone)).map Record.number
    ↔ ∃ r ∈ s.records, r.number = n ∧ r.state.inTree = true ∧ r.head = none := by
  simp only [List.mem_map, List.mem_filter, Bool.and_eq_true, Option.isNone_iff_eq_none]
  exact ⟨fun ⟨r, ⟨hr, ht, hh⟩, hn⟩ => ⟨r, hr, hn, ht, hh⟩, fun ⟨r, hr, hn, ht, hh⟩ => ⟨r, ⟨hr, ht, hh⟩, hn⟩⟩

theorem headIn_iff : s.headIn u n = true ↔ ∃ r, s.record n = some r ∧ r.head = some u := by
  unfold State.headIn
  rw [beq_iff_eq, Option.bind_eq_some_iff]

theorem entrant_setChannel (c : Nat) (b : Bool) (x : Nat) : (setChannel c b s).entrant x = s.entrant x := by
  unfold State.entrant
  rw [sortCuts_congr (s := s) (t := setChannel c b s) fun _ => rfl]
  rfl

end

/-! ### What is left alone on the way in -/

section
variable {s t u : State}

/-- Only records, tracks, section entries, claims and flags may differ: what a head credit can touch before the Point Drivers are told. -/
def BoardFrame (s t : State) : Prop :=
  t = { s with records := t.records, tracks := t.tracks, sections := t.sections, claims := t.claims, flags := t.flags }

theorem BoardFrame.refl (s : State) : BoardFrame s s := rfl

theorem BoardFrame.trans (h : BoardFrame s t) (k : BoardFrame t u) : BoardFrame s u := by
  unfold BoardFrame at *
  rw [k, h]

theorem BoardFrame.foldl {β : Type} (f : State → β → State) (h : ∀ s b, BoardFrame s (f s b)) (l : List β) (s : State) :
    BoardFrame s (l.foldl f s) := by
  induction l generalizing s with
  | nil => exact .refl s
  | cons b l ih => exact (h s b).trans (ih _)

theorem BoardFrame.ite {c : Prop} [Decidable c] (h : BoardFrame s t) (k : BoardFrame s u) : BoardFrame s (if c then t else u) := by
  split <;> assumption

theorem RecordsOnly.board (h : RecordsOnly s t) : BoardFrame s t := by
  unfold RecordsOnly at h
  unfold BoardFrame
  rw [h]

theorem changeTrack_board (s : State) (x : Nat) (f : TrackEntry → TrackEntry) : BoardFrame s (changeTrack x f s) := by
  unfold changeTrack latchIf
  dsimp only
  split <;> exact rfl

theorem changeRecord_board (s : State) (n : Nat) (f : Record → Record) : BoardFrame s (changeRecord n f s) := (changeRecord_only s n f).board

theorem withdrawAt_board (s : State) (l : List Nat) (n : Nat) : BoardFrame s (withdrawAt l n s) :=
  .foldl (fun s p => setClaims p ((s.claimsAt p).filter (fun c => c.cut != n)) s) (fun _ _ => rfl) l s

theorem claimOnRoute_board (s : State) (n : Nat) (r : Record) (pb : Nat × Position) : BoardFrame s (claimOnRoute n r s pb) := by
  unfold claimOnRoute
  split
  · exact rfl
  · split <;> exact rfl

theorem redoClaims_board (s : State) (n : Nat) : BoardFrame s (redoClaims n s) := by
  unfold redoClaims
  split
  · exact .refl s
  · split
    · exact .refl s
    · exact ((withdrawAt_board s _ n).trans (changeRecord_board _ n _)).trans (.foldl _ (fun s pb => claimOnRoute_board s n _ pb) _ _)

theorem releaseFrom_board (s : State) (x : Option Nat) (len : Nat) : BoardFrame s (releaseFrom x len s) := by
  cases x with
  | none => exact .refl s
  | some x => exact changeTrack_board s x fun e => { e with committed := e.committed - len }

theorem addMarkIf_board (s : State) (b : Bool) (m : Mark) (n : Nat) : BoardFrame s (addMarkIf b m n s) := by
  cases b
  · exact .refl s
  · exact changeRecord_board s n _

theorem reassign_board (s : State) (n x : Nat) (why : AssignReason) : BoardFrame s (reassign n x why s) := by
  have set : BoardFrame s (setAssignment n { track := x, reason := why } s) := (changeRecords_only s _ _).board
  unfold reassign
  split
  · exact set
  · exact ((set.trans (releaseFrom_board _ _ _)).trans (changeTrack_board _ _ _)).trans (addMarkIf_board _ _ _ n)

theorem replan_board (s : State) (n p : Nat) (b : Position) : BoardFrame s (replan n p b s) := by
  unfold replan
  split
  · exact redoClaims_board s n
  · exact (reassign_board s n _ _).trans (redoClaims_board _ n)

theorem wentOut_board (s : State) (n p : Nat) (b : Position) (why : DivertReason) (wrong unplanned : Bool) :
    BoardFrame s (wentOut n p b why wrong unplanned s) := by
  have first : BoardFrame s (if wrong = true then addMisroute p why n s else s) := .ite (addMisroute_only why s).board (.refl s)
  exact .ite (first.trans (replan_board _ n p b)) first

end

/-! ### The point drivers are told (R89, R141) -/

section
variable {s : State} {n x q : Nat}

/-- The switch section of a point in use. -/
theorem used_of_point {m : Image} (at_ : pointOfSection m x = some q) : sectionUsed m x = true ∧ pointUsed m q = true := by
  unfold pointOfSection at at_
  split at at_
  · rename_i used
    split at at_
    · split at at_
      · rename_i point
        obtain rfl := Option.some.inj at_
        exact ⟨used, point⟩
      · cases at_
    · cases at_
  · cases at_

theorem tellDrivers_at (at_ : pointOfSection s.layout x = some q) (e : Option Nat) : tellDrivers x e s = wheelsOnPoint q e s := by
  unfold tellDrivers
  rw [at_]

/-- The drivers change records, points and flags alone. -/
theorem tellDrivers_frame (x : Nat) (e : Option Nat) (s : State) :
    tellDrivers x e s = { s with
      records := (tellDrivers x e s).records, points := (tellDrivers x e s).points, flags := (tellDrivers x e s).flags } := by
  have marked : ∀ (m : Mark) (n : Nat) (u : State), u = { s with records := u.records, points := u.points, flags := u.flags } →
      addMark m n u = { s with records := (addMark m n u).records, points := (addMark m n u).points, flags := (addMark m n u).flags } := by
    intro m n u frame
    have only := changeRecord_only u n (withMark m)
    unfold RecordsOnly at only
    have points : (addMark m n u).points = u.points := changeRecord_points ..
    unfold addMark at points ⊢
    rw [points, only, frame]
  unfold tellDrivers
  split
  · unfold wheelsOnPoint
    split
    · cases e with
      | none => exact rfl
      | some n => exact marked .movingPoint n _ rfl
    · cases e with
      | none => exact rfl
      | some n => exact marked .lateSettle n _ rfl
    · exact rfl
    · exact rfl
    · exact rfl
  · exact rfl

theorem tellDrivers_flagsStay (x : Nat) (e : Option Nat) (s : State) : FlagsStay s (tellDrivers x e s) := by
  have marked : ∀ (m : Mark) (n : Nat) (u : State), Replans 0 s u → FlagsStay s (addMark m n u) := fun m n u h =>
    (h.trans (changeRecord_replans u 0 n _)).flagsStay
  unfold tellDrivers
  split
  · rename_i p _
    have fault := (changePoint_replans s 0 p fun e => { e with state := .fault }).trans (latch_replans _ 0 .pointFault)
    have set := changePoint_replans s 0 p fun e => { e with
      state := .atRest, target := none, drive := none, throwLimit := none, settleTimer := none
      lastSettled := s.clock, idleTimer := s.idleFromNow, stood := false }
    unfold wheelsOnPoint
    split
    · cases e with
      | none => exact fault.flagsStay
      | some n => exact marked .movingPoint n _ fault
    · cases e with
      | none => exact set.flagsStay
      | some n => exact marked .lateSettle n _ set
    · exact .refl s
    · exact .refl s
    · exact .refl s
  · exact .refl s

theorem point_changePoint (p : Nat) (f : PointEntry → PointEntry) (y : Nat) :
    (changePoint p f s).point y = if y = p then f (s.point p) else s.point y := Table.read_write PointEntry.initial s.points p _ y

theorem addMark_point (m : Mark) (k y : Nat) : (addMark m k s).point y = s.point y := by
  unfold State.point addMark
  rw [changeRecord_points]

/-- The point of an occupied switch section: one that is thrown is at fault, and one that settles is set (R141). -/
theorem tellDrivers_point (at_ : pointOfSection s.layout x = some q) (e : Option Nat) :
    (tellDrivers x e s).point q = match (s.point q).state with
      | .throwing => { s.point q with state := .fault }
      | .settling => s.setEntry q
      | .atRest | .fault | .unsupervised => s.point q := by
  rw [tellDrivers_at at_]
  unfold wheelsOnPoint
  cases h : (s.point q).state <;> dsimp only
  · have thrown : (latch .pointFault (changePoint q (fun e => { e with state := .fault }) s)).point q = { s.point q with state := .fault } :=
      (point_changePoint q (fun e => { e with state := .fault }) q).trans (if_pos rfl)
    cases e with
    | none => exact thrown
    | some n => exact (addMark_point .movingPoint n q).trans thrown
  · have settled : (becomeSet q s).point q = s.setEntry q := (point_changePoint q _ q).trans (if_pos rfl)
    cases e with
    | none => exact settled
    | some n => exact (addMark_point .lateSettle n q).trans settled

theorem tellDrivers_fault (at_ : pointOfSection s.layout x = some q) (moving : (s.point q).state = .throwing) (e : Option Nat) :
    latched .pointFault (tellDrivers x e s) = true := by
  have now : latched .pointFault (latch .pointFault (changePoint q (fun e => { e with state := .fault }) s)) = true := by
    rw [latched_latch]
    simp
  rw [tellDrivers_at at_]
  unfold wheelsOnPoint
  rw [moving]
  cases e with
  | none => exact now
  | some n => exact (changeRecord_replans _ 0 n (withMark .movingPoint)).latched now

end

/-! ### A point whose switch section is not CLEAR is not thrown (R120) -/

section
variable {s : State} {q : Nat}

theorem throwDecision_still (h : s.locked q = true ∨ (s.point q).state ≠ .atRest) (p : Nat) :
    (throwDecision p s).point q = s.point q ∧ (throwDecision p s).locked q = s.locked q := by
  unfold throwDecision
  cases hw : throwWanted p s with
  | none => exact ⟨rfl, rfl⟩
  | some y =>
    have ne : q ≠ p := by
      rintro rfl
      obtain ⟨c, rest, r, -, -, asked, -⟩ := (throwWanted_iff s q y).mp hw
      obtain ⟨-, used, -, rest, -, clear, -⟩ := asked
      rcases h with h | h
      · unfold State.locked at h
        rw [used, clear] at h
        cases h
      · exact h rest
    exact ⟨(point_changePoint p _ q).trans (if_neg ne), rfl⟩

theorem throwDecisions_still (h : s.locked q = true ∨ (s.point q).state ≠ .atRest) (l : List Nat) :
    (l.foldl (fun s p => throwDecision p s) s).point q = s.point q := by
  induction l generalizing s with
  | nil => rfl
  | cons p l ih =>
    obtain ⟨point, locked⟩ := throwDecision_still h p
    rw [List.foldl_cons, ih (by rw [point, locked]; exact h), point]

/-- What follows a change leaves a locked point, and one that is not SET, as it is. -/
theorem followUp_point (old : State) (ps cs : List Nat) (h : s.locked q = true ∨ (s.point q).state ≠ .atRest) :
    (followUp old ps cs s).point q = s.point q := by
  have watches : WatchOnly (takeDecisions old ps s) (followUp old ps cs s) := by
    unfold followUp takeWatches
    generalize (List.filter _ _) = l
    generalize takeDecisions old ps s = u
    induction l generalizing u with
    | nil => exact rfl
    | cons k l ih => exact (chooseWatch_watchOnly u k).trans (ih _)
  have points : (followUp old ps cs s).points = (takeDecisions old ps s).points := by
    unfold WatchOnly at watches
    rw [watches]
  unfold State.point
  rw [points]
  exact throwDecisions_still h _

end

/-! ### An occupied section (R84, R85) -/

section
variable {s t : State} {c x : Nat}

/-- A section in use that has become occupied is entered. -/
theorem exec_occupied (h1 : 1 ≤ c) (h2 : c ≤ 128) (hs : s.runState ≠ .halted) (off : s.channel c = false)
    (sec : sectionOfChannel s.layout c = some x) :
    exec (.sectionOccupied c) s = .next (finish (sectionEntered s x (setChannel c true s))) := by
  rw [exec_sectionOccupied s (channelNumber_iff.mpr ⟨h1, h2⟩), off, if_neg (by nofun)]
  unfold inputChanges
  simp only [sec, supervised_of_ne hs, if_true]

/-- A section in use whose input is on shows UNEXPLAINED by its mark, else OCCUPIED (R82). -/
theorem shownState_on (used : sectionUsed t.layout x = true) (on : t.channel (sectionChannel t.layout x) = true) :
    t.shownState x = if (t.section x).unexplained = true then .unexplained else .occupied := by
  have input : t.sectionInput x = true := by
    unfold State.sectionInput
    rw [used, on]
    rfl
  unfold State.shownState
  rw [if_pos used, if_pos input]

theorem shownState_not_clear (used : sectionUsed t.layout x = true) (on : t.channel (sectionChannel t.layout x) = true) :
    t.shownState x ≠ .clear := by
  rw [shownState_on used on]
  split <;> nofun

/-- The point of an occupied switch section is locked (R82). -/
theorem locked_of_on {q : Nat} (at_ : pointOfSection t.layout x = some q) (switch : switchSection t.layout q = x)
    (on : t.channel (sectionChannel t.layout x) = true) : t.locked q = true := by
  obtain ⟨used, point⟩ := used_of_point at_
  unfold State.locked
  rw [point, switch, Bool.true_and, bne_iff_ne]
  exact shownState_not_clear used on

theorem unexplainedEntry_frame (x : Nat) (s : State) :
    unexplainedEntry x s = { s with sections := (unexplainedEntry x s).sections, flags := (unexplainedEntry x s).flags } := by
  unfold unexplainedEntry
  split <;> exact rfl

/-- The section of an entry without an entrant (R88). -/
theorem unexplainedEntry_section (y : Nat) :
    (unexplainedEntry x s).section y = if y = x then
        (if (s.section x).unproven = true then { s.section x with unproven := false, proving := none } else { s.section x with unexplained := true })
      else s.section y := by
  unfold unexplainedEntry
  by_cases h : (s.section x).unproven = true
  · rw [if_pos h, if_pos h, endHold, section_changeSection, if_pos h]
  · rw [if_neg h, if_neg h]
    exact section_changeSection s x (fun e => { e with unexplained := true }) y

/-- The board after an occupation without an entrant, before the outputs are taken afresh. -/
def unentered (c x : Nat) (s : State) : State := followUp s [] [] (tellDrivers x none (unexplainedEntry x (setChannel c true s)))

theorem exec_unentered (h1 : 1 ≤ c) (h2 : c ≤ 128) (hs : s.runState ≠ .halted) (off : s.channel c = false)
    (sec : sectionOfChannel s.layout c = some x) (nobody : s.entrant x = none) :
    exec (.sectionOccupied c) s = .next (finish (unentered c x s)) := by
  rw [exec_occupied h1 h2 hs off sec]
  unfold sectionEntered
  rw [entrant_setChannel, nobody]
  rfl

theorem unentered_frame : unentered c x s = { s with
    pending := (unentered c x s).pending, channels := (setChannel c true s).channels, records := (unentered c x s).records
    sections := (unexplainedEntry x (setChannel c true s)).sections, points := (unentered c x s).points, flags := (unentered c x s).flags } := by
  obtain ⟨l, frame⟩ := followUp_watch (tellDrivers x none (unexplainedEntry x (setChannel c true s))) s [] []
  unfold unentered
  rw [frame, tellDrivers_frame, unexplainedEntry_frame]
  rfl

theorem unentered_section (y : Nat) :
    (unentered c x s).section y = if y = x then
        (if (s.section x).unproven = true then { s.section x with unproven := false, proving := none } else { s.section x with unexplained := true })
      else s.section y := by
  have sections : (unentered c x s).section y = (unexplainedEntry x (setChannel c true s)).section y := by
    unfold State.section
    rw [unentered_frame]
  rw [sections, unexplainedEntry_section]
  rfl

theorem unentered_channel (sec : sectionOfChannel s.layout c = some x) :
    (unentered c x s).layout = s.layout ∧ (unentered c x s).channel (sectionChannel s.layout x) = true := by
  have frame := unentered_frame (c := c) (x := x) (s := s)
  constructor
  · rw [frame]
    rfl
  · have on := channel_setChannel s c true (sectionChannel s.layout x)
    rw [if_pos (used_of_channel sec).2] at on
    rw [frame]
    exact on

theorem unentered_shown (sec : sectionOfChannel s.layout c = some x) :
    (unentered c x s).shownState x = if ((unentered c x s).section x).unexplained = true then .unexplained else .occupied := by
  obtain ⟨layout, on⟩ := unentered_channel sec
  exact shownState_on (layout.symm ▸ (used_of_channel sec).1) (layout.symm ▸ on)

theorem unentered_point {q : Nat} (sec : sectionOfChannel s.layout c = some x) (at_ : pointOfSection s.layout x = some q)
    (switch : switchSection s.layout q = x) :
    (unentered c x s).point q = match (s.point q).state with
      | .throwing => { s.point q with state := .fault }
      | .settling => s.setEntry q
      | .atRest | .fault | .unsupervised => s.point q := by
  have frame := unexplainedEntry_frame x (setChannel c true s)
  have told := tellDrivers_point (s := unexplainedEntry x (setChannel c true s)) (x := x) (q := q) (by rw [frame]; exact at_) none
  have same : (unexplainedEntry x (setChannel c true s)).point q = s.point q := by
    rw [frame]
    rfl
  have set : (unexplainedEntry x (setChannel c true s)).setEntry q = s.setEntry q := by
    rw [frame]
    rfl
  have on := channel_setChannel s c true (sectionChannel s.layout x)
  rw [if_pos (used_of_channel sec).2] at on
  have locked : (tellDrivers x none (unexplainedEntry x (setChannel c true s))).locked q = true := by
    refine locked_of_on (x := x) ?_ ?_ ?_ <;> rw [tellDrivers_frame, frame]
    · exact at_
    · exact switch
    · exact on
  rw [same, set] at told
  exact (followUp_point s [] [] (.inl locked)).trans told

end

/-- Settles O51: the entrant by its definition (`head_of_earliest`), and the entry of `unentered`. -/
theorem noEntrantIsUnexplained : Obligations.NoEntrantIsUnexplained := by
  refine ⟨fun s n r once hr ht head first => ?_, fun s once ahead => ?_, fun s x u n r front back ne up list hr head others => ?_,
    fun s x ne absent => ?_, fun s c x h1 h2 hs off sec nobody => ⟨fun proven => ?_, fun held plain => ?_, fun q at_ switch => ?_⟩⟩
  · rw [entrant_first]
    refine head_of_earliest (once.sublist (List.filter_sublist.map Record.number)) (mem_waiting.mpr ⟨r, record_mem s hr, record_number s hr, ht, head⟩)
      fun m hm other => ?_
    obtain ⟨q, hq, number, hi, hh⟩ := mem_waiting.mp hm
    exact first m q (number ▸ record_of_mem once hq) hi hh other
  · have nobody : (s.records.filter (fun r => r.state.inTree && r.head.isNone)).map Record.number = [] := by
      refine List.eq_nil_iff_forall_not_mem.mpr fun m hm => ?_
      obtain ⟨q, hq, number, hi, hh⟩ := mem_waiting.mp hm
      exact ahead m q (number ▸ record_of_mem once hq) hi hh
    rw [entrant_first, nobody]
    rfl
  · rw [entrant_later ne, up, Option.bind_some, list, List.find?_append, List.find?_eq_none.mpr fun m hm at_ => ?_, List.find?_cons_of_pos (headIn_iff.mpr ⟨r, hr, head⟩)]
    · rfl
    · obtain ⟨q, hq, hh⟩ := headIn_iff.mp at_
      exact others m hm q hq hh
  · rw [entrant_later ne]
    cases up : s.tree.upstream x with
    | none => rfl
    | some u =>
      refine List.find?_eq_none.mpr fun m hm at_ => ?_
      obtain ⟨q, hq, hh⟩ := headIn_iff.mp at_
      exact absent u up m hm q hq hh
  · have own := unentered_section (s := s) (c := c) (x := x) x
    rw [if_pos rfl, if_neg (by rw [proven]; nofun)] at own
    have entry : latched .sectionCause (unexplainedEntry x (setChannel c true s)) = true := by
      have kept : ¬ ((setChannel c true s).section x).unproven = true := by
        show ¬ (s.section x).unproven = true
        rw [proven]
        nofun
      unfold unexplainedEntry
      rw [if_neg kept, latched_latch]
      simp
    have numbers : (unentered c x s).records.map Record.number = s.records.map Record.number := by
      refine (followUp_numbers s [] []).trans ((State.Pairs.numbers (fun _ _ h => h.number) (tellDrivers_calm _ x none).records).trans ?_)
      rw [unexplainedEntry_frame]
      rfl
    have shown := unentered_shown (s := s) sec
    have cause : latched .sectionCause (unentered c x s) = true := followUp_flagsStay _ _ _ _ (tellDrivers_flagsStay _ _ _ _ entry)
    have others : ∀ y, y ≠ x → (unentered c x s).section y = s.section y := fun y hy => (unentered_section y).trans (if_neg hy)
    have frame := unentered_frame (s := s) (c := c) (x := x)
    rw [own] at shown
    have exec_ := exec_unentered h1 h2 hs off sec nobody
    generalize unentered c x s = t at *
    refine ⟨finish t, exec_, own, shown, cause, others, numbers.symm, ?_⟩
    rw [frame]
    rfl
  · have own := unentered_section (s := s) (c := c) (x := x) x
    rw [if_pos rfl, if_pos held] at own
    have shown := unentered_shown (s := s) sec
    rw [own, if_neg (by rw [show ({ s.section x with unproven := false, proving := none } : SectionEntry).unexplained = false from plain]; nofun)] at shown
    exact ⟨_, exec_unentered h1 h2 hs off sec nobody, own, shown⟩
  · have point := unentered_point sec at_ switch
    refine ⟨_, exec_unentered h1 h2 hs off sec nobody, fun moving => ⟨?_, ?_⟩, fun moving => ?_⟩
    · rw [moving] at point
      exact point
    · have frame := unexplainedEntry_frame x (setChannel c true s)
      refine followUp_flagsStay _ _ _ _ (tellDrivers_fault (q := q) ?_ ?_ none) <;> rw [frame]
      · exact at_
      · exact moving
    · rw [moving] at point
      exact point

end Sys2Proof.Machine
end

section
/-! The entrant of an occupied section is credited with it: its list, its record, the way it came out, and the point it stands on (R82, R86, R87, R104,
R129, R141). -/

namespace Sys2Proof.Machine

/-! ### The head credit (R86, R104) -/

section
variable {s : State} {n x : Nat} {held : Bool} {r : Record}

/-- The record of a cut credited with the section `x`: `v` is `r` after the credit and the speed mark. -/
structure Record.Credited (s : State) (x : Nat) (r v : Record) : Prop where
  agrees : v = { r with
    head := some x, tail := v.tail, headEntry := some s.clock, timed := true, speed := (s.entrySpeed r).1
    stallDeadline := some (later s.clock (s.stallLimit r.number x ((s.entrySpeed r).1.getD 0))), state := s.resumed r, standTimer := .stopped
    marks := v.marks, unseen := v.unseen }
  marks : ∀ m, hasMark v m = (hasMark r m || ((s.entrySpeed r).2 && decide (m = .speedClamped)))

theorem creditHead_record (hr : s.record n = some r) :
    ∃ v, (creditHead n x held r s).record n = some v ∧ Record.Credited s x r v ∧ v.tail = some (if held then x else r.tail.getD x) := by
  have credited : (changeRecord n (Record.credit s x (if held then x else r.tail.getD x) (s.entrySpeed r).1 true)
      (leaveSections (if held then (s.spanOf n).filter (fun y => y != x) else []) n (enterSection x n s))).record n
        = some (Record.changed (Record.credit s x (if held then x else r.tail.getD x) (s.entrySpeed r).1 true) r) := by
    rw [record_changeRecord_same _ n _ (by exact fun _ => rfl), record_congr (s := s) (by rw [moved_frame]), hr]
    rfl
  unfold creditHead
  dsimp only
  cases clamped : (s.entrySpeed r).2 with
  | false =>
    refine ⟨_, credited, ⟨?_, fun m => ?_⟩, ?_⟩
    · rw [Record.changed_eq]
      rfl
    · rw [clamped, Bool.false_and, Bool.or_false]
      refine hasMark_same ?_ m
      rw [Record.changed_eq]
      rfl
    · rw [Record.changed_eq]
      rfl
  | true =>
    refine ⟨Record.changed (withMark .speedClamped)
      (Record.changed (Record.credit s x (if held then x else r.tail.getD x) (s.entrySpeed r).1 true) r), ?_, ⟨?_, fun m => ?_⟩, ?_⟩
    · refine (record_changeRecord_same _ n (withMark .speedClamped) fun _ => rfl).trans ?_
      rw [credited]
      rfl
    · rw [Record.changed_eq, Record.changed_eq]
      rfl
    · rw [clamped, Bool.true_and]
      refine hasMark_added .speedClamped ?_ m
      rw [Record.changed_eq, Record.changed_eq]
      rfl
    · rw [Record.changed_eq, Record.changed_eq]
      rfl

theorem addMarkIf_only (s : State) (b : Bool) (m : Mark) (n : Nat) : RecordsOnly s (addMarkIf b m n s) := by
  cases b
  · exact rfl
  · exact changeRecord_only s n _

/-- The credit, and the end of a hold: records, section entries and flags alone. -/
theorem credited_frame (s : State) : endHold x (creditHead n x held r s) = { s with
    records := (endHold x (creditHead n x held r s)).records, sections := (endHold x (creditHead n x held r s)).sections
    flags := (endHold x (creditHead n x held r s)).flags } := by
  have lists := moved_frame (n := n) (if held then (s.spanOf n).filter (fun y => y != x) else []) x s
  have first := changeRecord_only (leaveSections (if held then (s.spanOf n).filter (fun y => y != x) else []) n (enterSection x n s)) n
    (Record.credit s x (if held then x else r.tail.getD x) (s.entrySpeed r).1 true)
  have second := addMarkIf_only (changeRecord n (Record.credit s x (if held then x else r.tail.getD x) (s.entrySpeed r).1 true)
    (leaveSections (if held then (s.spanOf n).filter (fun y => y != x) else []) n (enterSection x n s))) (s.entrySpeed r).2 .speedClamped n
  unfold RecordsOnly at first second
  unfold endHold changeSection creditHead
  dsimp only
  rw [second, first, lists]

theorem endHold_occupants (x y : Nat) (s : State) : ((endHold x s).section y).occupants = (s.section y).occupants := by
  rw [endHold, section_changeSection]
  split
  · rename_i e
    subst e
    split <;> rfl
  · rfl

/-- The list of the section entered (R82, R86). -/
theorem credited_occupants : ((endHold x (creditHead n x held r s)).section x).occupants
    = if n ∈ (s.section x).occupants then (s.section x).occupants else insertCut s n (s.section x).occupants := by
  have away : x ∉ (if held then (s.spanOf n).filter (fun y => y != x) else []) := by
    split
    · exact fun h => (mem_back.mp h).2 rfl
    · exact List.not_mem_nil
  have lists := moved_occupants (n := n) (s := s) away x
  have only := addMarkIf_only (changeRecord n (Record.credit s x (if held then x else r.tail.getD x) (s.entrySpeed r).1 true)
    (leaveSections (if held then (s.spanOf n).filter (fun y => y != x) else []) n (enterSection x n s))) (s.entrySpeed r).2 .speedClamped n
  rw [if_pos rfl] at lists
  rw [endHold_occupants, ← lists]
  unfold creditHead
  dsimp only
  unfold RecordsOnly at only
  rw [only]
  exact congrArg SectionEntry.occupants (changeRecord_section n _ x)

theorem credited_ages : SameAges s (endHold x (creditHead n x held r s)) := by
  have lists : SameAges s (leaveSections (if held then (s.spanOf n).filter (fun y => y != x) else []) n (enterSection x n s)) :=
    (SameAges.of_records (s := s) (t := enterSection x n s) rfl rfl).trans (leaveSections_ages _ _ n)
  have credit := lists.trans (changeRecord_ages _ n (Record.credit s x (if held then x else r.tail.getD x) (s.entrySpeed r).1 true)
    (fun _ => rfl) fun _ => rfl)
  exact (credit.trans (addMarkIf_ages _ (s.entrySpeed r).2 .speedClamped n)).trans
    (SameAges.of_records (s := creditHead n x held r s) (t := endHold x (creditHead n x held r s)) rfl rfl)

end

/-! ### The branch an entrant came by (R87, R129) -/

section
variable {s : State} {n u x p : Nat} {b : Position}

theorem misrouted_iff : s.misrouted p n b = true
    ↔ (∃ q, s.detection p = some q ∧ q ≠ b) ∨ ∃ k, s.claimOf p n = some k ∧ k.position ≠ b := by
  unfold State.misrouted
  rw [Bool.or_eq_true]
  cases s.detection p <;> cases s.claimOf p n <;> simp

theorem branchTarget_of_branchTo {m : Image} (h : branchTo m p x = some b) : branchTarget m p b = .sec x := by
  unfold branchTo at h
  split at h
  · obtain rfl := Option.some.inj h
    assumption
  · split at h
    · obtain rfl := Option.some.inj h
      assumption
    · cases h

/-- The reason noted for an entrant that strayed: the point lies elsewhere, or nothing is known of it (R87). -/
def State.strayReason (s : State) (p : Nat) : DivertReason := if (s.detection p).isSome then .misroute else .pointFault

theorem checkBranch_at (at_ : pointOfSection s.layout u = some p) (by_ : branchTo s.layout p x = some b) :
    checkBranch n u x s = wentOut n p b (s.strayReason p) (s.misrouted p n b) (s.unplannedAt p n) s := by
  unfold checkBranch
  rw [at_]
  dsimp only
  rw [by_]
  rfl

/-- An entrant that came out of no branch of a point is not compared; one that did has gone out by it. -/
theorem checkBranch_cases (n u x : Nat) (s : State) :
    (∀ p b, pointOfSection s.layout u = some p → branchTo s.layout p x ≠ some b) ∧ checkBranch n u x s = s
    ∨ ∃ p b, pointOfSection s.layout u = some p ∧ branchTo s.layout p x = some b
      ∧ checkBranch n u x s = wentOut n p b (s.strayReason p) (s.misrouted p n b) (s.unplannedAt p n) s := by
  cases at_ : pointOfSection s.layout u with
  | none =>
    refine .inl ⟨fun _ _ => nofun, ?_⟩
    unfold checkBranch
    rw [at_]
  | some p =>
    cases by_ : branchTo s.layout p x with
    | none =>
      refine .inl ⟨fun q b e => ?_, ?_⟩
      · obtain rfl := Option.some.inj e
        rw [by_]
        nofun
      · unfold checkBranch
        rw [at_]
        dsimp only
        rw [by_]
    | some b => exact .inr ⟨p, b, rfl, by_, checkBranch_at at_ by_⟩

end

/-! ### The credit of an entrant (R86, R87) -/

section
variable {s : State} {n x : Nat} {r : Record}

/-- What the credit of an entrant leaves: `w` is its record, the credited record `v` after the branch has been compared. -/
structure Entrance (n x : Nat) (s t : State) (r v w : Record) : Prop where
  board : BoardFrame s t
  ages : SameAges s t
  occupants : (t.section x).occupants = if n ∈ (s.section x).occupants then (s.section x).occupants else insertCut s n (s.section x).occupants
  kept : ∀ y, (t.track y).fill = (s.track y).fill ∧ (t.track y).setting = (s.track y).setting
  record : t.record n = some w
  credited : Record.Credited s x r v
  agrees : w = { v with
    assigned := w.assigned, marks := w.marks, diversions := w.diversions, more := w.more, unseen := w.unseen, unplannedBelow := w.unplannedBelow }
  marks : ∀ m, m ≠ .overfill → m ≠ .misroute → hasMark w m = hasMark v m
  first : r.head = none → w = v ∧ v.tail = some (r.tail.getD x) ∧ t.tracks = s.tracks ∧ t.claims = s.claims
  out : ∀ u p b, r.head = some u → pointOfSection s.layout u = some p → branchTo s.layout p x = some b →
    Record.WentOut s p x b (s.strayReason p) ((∃ q, s.detection p = some q ∧ q ≠ b) ∨ ∃ k, s.claimOf p n = some k ∧ k.position ≠ b)
      (r.unplannedBelow = some p) v w
    ∧ (¬ ((∃ q, s.detection p = some q ∧ q ≠ b) ∨ ∃ k, s.claimOf p n = some k ∧ k.position ≠ b) → r.unplannedBelow ≠ some p → t.tracks = s.tracks)

theorem Credited.kept {v : Record} (h : Record.Credited s x r v) : v.assigned = r.assigned ∧ v.diversions = r.diversions ∧ v.more = r.more
    ∧ v.unplannedBelow = r.unplannedBelow ∧ v.head = some x := by
  rw [h.agrees]
  exact ⟨rfl, rfl, rfl, rfl, rfl⟩

theorem creditEntry_first (hr : s.record n = some r) (head : r.head = none) : ∃ v, Entrance n x s (creditEntry n x s) r v v := by
  obtain ⟨v, hv, credited, tail⟩ := creditHead_record (x := x) (held := false) hr
  have entry : creditEntry n x s = endHold x (creditHead n x false r s) := by
    unfold creditEntry
    rw [hr]
    dsimp only
    rw [head]
  have frame := credited_frame (n := n) (x := x) (held := false) (r := r) s
  have ages := credited_ages (n := n) (x := x) (held := false) (r := r) (s := s)
  have occupants := credited_occupants (n := n) (x := x) (held := false) (r := r) (s := s)
  have hv' : (endHold x (creditHead n x false r s)).record n = some v := hv
  rw [entry]
  generalize endHold x (creditHead n x false r s) = t at *
  have tracks : t.tracks = s.tracks := by rw [frame]
  refine ⟨v, ?_, ages, occupants, fun y => ?_, hv', credited, rfl, fun _ _ _ => rfl, fun _ => ⟨rfl, tail, tracks, by rw [frame]⟩,
    fun u p b h => (by rw [head] at h; cases h)⟩
  · unfold BoardFrame
    rw [frame]
  · unfold State.track
    rw [tracks]
    exact ⟨rfl, rfl⟩

/-- A state in which claims, inputs and the layout stand is read the same by the comparison at a branch. -/
theorem misrouted_congr {t : State} (claims : t.claims = s.claims) (detection : t.detection = s.detection) (p : Nat) (b : Position) :
    t.misrouted p n b = s.misrouted p n b ∧ t.strayReason p = s.strayReason p := by
  unfold State.misrouted State.strayReason State.claimOf State.claimsAt
  rw [claims, detection]
  exact ⟨rfl, rfl⟩

theorem creditEntry_later {u : Nat} (hr : s.record n = some r) (head : r.head = some u) :
    ∃ v w, Entrance n x s (creditEntry n x s) r v w := by
  obtain ⟨v, hv, credited, tail⟩ := creditHead_record (x := x) (held := s.shownState u == .unproven) hr
  have entry : ∃ l, creditEntry n x s = withdrawAt l n (checkBranch n u x (endHold x (creditHead n x (s.shownState u == .unproven) r s))) := by
    unfold creditEntry
    rw [hr]
    dsimp only
    rw [head]
    exact ⟨_, rfl⟩
  obtain ⟨l, entry⟩ := entry
  have frame := credited_frame (n := n) (x := x) (held := s.shownState u == .unproven) (r := r) s
  have ages := credited_ages (n := n) (x := x) (held := s.shownState u == .unproven) (r := r) (s := s)
  have occupants := credited_occupants (n := n) (x := x) (held := s.shownState u == .unproven) (r := r) (s := s)
  have hv' : (endHold x (creditHead n x (s.shownState u == .unproven) r s)).record n = some v := hv
  rw [entry]
  generalize endHold x (creditHead n x (s.shownState u == .unproven) r s) = z at *
  have claims : z.claims = s.claims := by rw [frame]
  have tracks : z.tracks = s.tracks := by rw [frame]
  have layout : z.layout = s.layout := by rw [frame]; rfl
  have tree : z.tree = s.tree := by rw [frame]
  have detection : z.detection = s.detection := by rw [frame]; rfl
  have board : BoardFrame s z := by unfold BoardFrame; rw [frame]
  obtain ⟨-, -, -, planned, -⟩ := Credited.kept credited
  have after : ∀ t : State, (withdrawAt l n t).sections = t.sections ∧ (withdrawAt l n t).tracks = t.tracks := fun t =>
    ⟨by rw [withdrawAt_frame], (withdrawAt_records t l n).2⟩
  have section_ : ∀ t : State, t.sections = z.sections → ((withdrawAt l n t).section x).occupants = (z.section x).occupants := fun t e => by
    unfold State.section
    rw [(after t).1, e]
  have track_ : ∀ t : State, ∀ y, (withdrawAt l n t).track y = t.track y := fun t y => by
    unfold State.track
    rw [(after t).2]
  have same : ∀ y, z.track y = s.track y := fun y => by unfold State.track; rw [tracks]
  rcases checkBranch_cases n u x z with ⟨nowhere, plain⟩ | ⟨p, b, at_, by_, went⟩
  · refine ⟨v, v, board.trans ?_, ages.trans ?_, ?_, fun y => ?_, ?_, credited, rfl, fun _ _ _ => rfl,
      fun h => (by rw [head] at h; cases h), fun u' p b h at_ by_ => ?_⟩
    · rw [plain]
      exact withdrawAt_board z l n
    · rw [plain]
      exact withdrawAt_ages z l n
    · rw [plain, section_ z rfl, occupants]
    · rw [plain, track_, same]
      exact ⟨rfl, rfl⟩
    · rw [plain, record_congr (withdrawAt_records z l n).1]
      exact hv'
    · obtain rfl := Option.some.inj (head.symm.trans h)
      rw [← layout] at at_ by_
      exact absurd by_ (nowhere p b at_)
  · obtain ⟨w, hw, out⟩ := wentOut_record (why := z.strayReason p) (wrong := z.misrouted p n b) (unplanned := z.unplannedAt p n) hv'
      (branchTarget_of_branchTo by_)
    obtain ⟨wrong, reason⟩ := misrouted_congr (n := n) claims detection p b
    have below : z.unplannedAt p n = true ↔ r.unplannedBelow = some p := by
      unfold State.unplannedAt
      rw [hv', ← planned]
      exact beq_iff_eq
    have replans := wentOut_replans (s := z) (n := n) (p := p) (b := b) (why := z.strayReason p) (wrong := z.misrouted p n b)
      (unplanned := z.unplannedAt p n)
    have kept := wentOut_kept (s := z) (n := n) (p := p) (b := b) (why := z.strayReason p) (wrong := z.misrouted p n b)
      (unplanned := z.unplannedAt p n)
    refine ⟨v, w, board.trans ?_, ages.trans ?_, ?_, fun y => ?_, ?_, credited, out.agrees, out.marks, fun h => (by rw [head] at h; cases h),
      fun u' p' b' h at' by' => ?_⟩
    · rw [went]
      exact (wentOut_board z n p b _ _ _).trans (withdrawAt_board _ l n)
    · rw [went]
      exact wentOut_ages.trans (withdrawAt_ages _ l n)
    · rw [went, section_ _ (by rw [replans.frame]), occupants]
    · rw [went, track_, ← same]
      exact kept y
    · rw [went, record_congr (withdrawAt_records _ l n).1]
      exact hw
    · obtain rfl := Option.some.inj (head.symm.trans h)
      rw [layout] at at_ by_
      obtain rfl := Option.some.inj (at_.symm.trans at')
      obtain rfl := Option.some.inj (by_.symm.trans by')
      rw [reason, wrong] at out
      refine ⟨(out.congr tree layout).iff misrouted_iff below, fun right planned => ?_⟩
      rw [went, wrong, eq_false_of_ne_true (mt misrouted_iff.mp right), eq_false_of_ne_true (mt below.mp planned), wentOut_straight, (after z).2, tracks]

theorem creditEntry_entrance (hr : s.record n = some r) : ∃ v w, Entrance n x s (creditEntry n x s) r v w := by
  cases head : r.head with
  | none =>
    obtain ⟨v, h⟩ := creditEntry_first (x := x) hr head
    exact ⟨v, v, h⟩
  | some u => exact creditEntry_later hr head

end

end Sys2Proof.Machine
end

section
/-! The entry of an entrant as a whole, and of one for which there is no room (R83, R86, R87, R97, R99, R104, R122, R141). -/

namespace Sys2Proof.Machine

/-! ### The mark of a moving point (R141) -/

section
variable {s : State} {n x : Nat} {r : Record}

/-- The mark that the point of an occupied switch section puts on the entrant. -/
def State.toldMark (s : State) (x : Nat) : Option Mark :=
  (pointOfSection s.layout x).bind fun q => match (s.point q).state with
    | .throwing => some .movingPoint
    | .settling => some .lateSettle
    | .atRest | .fault | .unsupervised => none

theorem marked_record {t : State} (hr : t.record n = some r) (m : Mark) :
    ∃ w, (addMark m n t).record n = some w ∧ w = { r with marks := w.marks, unseen := w.unseen }
      ∧ ∀ k, hasMark w k = (hasMark r k || decide (some m = some k)) := by
  refine ⟨Record.changed (withMark m) r, ?_, ?_, fun k => ?_⟩
  · exact (record_changeRecord_same t n (withMark m) fun _ => rfl).trans (by rw [hr]; rfl)
  · rw [Record.changed_eq]
    rfl
  · rw [hasMark_added m (r := r) (by rw [Record.changed_eq]; rfl) k]
    simp [eq_comm]

theorem tellDrivers_record (hr : s.record n = some r) :
    ∃ w, (tellDrivers x (some n) s).record n = some w ∧ w = { r with marks := w.marks, unseen := w.unseen }
      ∧ ∀ m, hasMark w m = (hasMark r m || decide (s.toldMark x = some m)) := by
  have unmarked : s.toldMark x = none → ∀ m, hasMark r m = (hasMark r m || decide (s.toldMark x = some m)) := fun e m => by
    rw [e]
    simp
  unfold tellDrivers
  cases at_ : pointOfSection s.layout x with
  | none => exact ⟨r, hr, rfl, unmarked (by unfold State.toldMark; rw [at_]; rfl)⟩
  | some q =>
    have told : s.toldMark x = match (s.point q).state with
        | .throwing => some .movingPoint
        | .settling => some .lateSettle
        | .atRest | .fault | .unsupervised => none := by
      unfold State.toldMark
      rw [at_]
      rfl
    show ∃ w, (wheelsOnPoint q (some n) s).record n = some w ∧ _
    unfold wheelsOnPoint
    cases state : (s.point q).state <;> rw [state] at told <;> dsimp only at told ⊢
    case throwing =>
      rw [told]
      exact marked_record (t := latch .pointFault (changePoint q (fun e => { e with state := .fault }) s)) hr .movingPoint
    case settling =>
      rw [told]
      exact marked_record (t := becomeSet q s) hr .lateSettle
    all_goals exact ⟨r, hr, rfl, unmarked told⟩

theorem tellDrivers_reads (x : Nat) (e : Option Nat) (s : State) : (tellDrivers x e s).sections = s.sections
    ∧ (tellDrivers x e s).tracks = s.tracks ∧ (tellDrivers x e s).claims = s.claims ∧ (tellDrivers x e s).inTree = s.inTree := by
  rw [tellDrivers_frame]
  exact ⟨rfl, rfl, rfl, rfl⟩

theorem tellDrivers_ages (x n : Nat) (s : State) : SameAges s (tellDrivers x (some n) s) := by
  unfold tellDrivers
  split
  · rename_i q _
    unfold wheelsOnPoint
    split
    · exact (SameAges.of_records (s := s) (t := latch .pointFault (changePoint q (fun e => { e with state := .fault }) s)) rfl rfl).trans
        (changeRecord_ages _ n (withMark .movingPoint) (fun _ => rfl) fun _ => rfl)
    · exact (SameAges.of_records (s := s) (t := becomeSet q s) rfl rfl).trans
        (changeRecord_ages _ n (withMark .lateSettle) (fun _ => rfl) fun _ => rfl)
    · exact .refl s
    · exact .refl s
    · exact .refl s
  · exact .refl s

end

/-! ### An entry with an entrant (R86) -/

section
variable {s : State} {c x n : Nat} {r : Record}

/-- The board after an entrant has been credited, before the outputs are taken afresh. -/
def entered (c x n : Nat) (s : State) : State := followCut s n (tellDrivers x (some n) (creditEntry n x (setChannel c true s)))

theorem exec_entered (h1 : 1 ≤ c) (h2 : c ≤ 128) (hs : s.runState ≠ .halted) (off : s.channel c = false)
    (sec : sectionOfChannel s.layout c = some x) (who : s.entrant x = some n) (room : (s.section x).occupants.length < 4) :
    exec (.sectionOccupied c) s = .next (finish (entered c x n s)) := by
  have free : ¬ Config.maxOccupants ≤ ((setChannel c true s).section x).occupants.length := Nat.not_le.mpr room
  rw [exec_occupied h1 h2 hs off sec]
  unfold sectionEntered
  rw [entrant_setChannel, who]
  dsimp only
  rw [if_neg free]
  rfl

/-- What the entry of an entrant makes of the board, `z` being the entrant's record: the head credit, the point told, and the watch point chosen. -/
structure Entered (c x n : Nat) (s t : State) (r v w z : Record) : Prop where
  entrance : Entrance n x (setChannel c true s) (creditEntry n x (setChannel c true s)) r v w
  record : t.record n = some z
  agrees : z = { w with
    marks := z.marks, unseen := z.unseen, watch := z.watch, lastMoment := z.lastMoment, timer := z.timer }
  marks : ∀ m, hasMark z m = (hasMark w m || decide (s.toldMark x = some m))
  chosen : w.state = .releasing ∨ w.state = .rolling → t.WatchChosen z
  tracks : t.tracks = (creditEntry n x (setChannel c true s)).tracks
  claims : t.claims = (creditEntry n x (setChannel c true s)).claims
  sections : t.sections = (creditEntry n x (setChannel c true s)).sections
  ages : SameAges s t
  frame : t = { s with
    pending := t.pending, channels := (setChannel c true s).channels, records := t.records, tracks := t.tracks, sections := t.sections
    claims := t.claims, points := t.points, flags := t.flags }

theorem creditEntry_points {v w : Record} (h : Entrance n x (setChannel c true s) (creditEntry n x (setChannel c true s)) r v w) :
    (creditEntry n x (setChannel c true s)).points = s.points ∧ (creditEntry n x (setChannel c true s)).layout = s.layout
      ∧ (creditEntry n x (setChannel c true s)).clock = s.clock := by
  have frame := h.board
  unfold BoardFrame at frame
  refine ⟨?_, ?_, ?_⟩ <;> rw [frame] <;> rfl

theorem entered_spec (hr : s.record n = some r) : ∃ v w z, Entered c x n s (entered c x n s) r v w z := by
  obtain ⟨v, w, entrance⟩ := creditEntry_entrance (s := setChannel c true s) (x := x) hr
  obtain ⟨y, hy, told, marks⟩ := tellDrivers_record (x := x) entrance.record
  obtain ⟨points, layout, -⟩ := creditEntry_points entrance
  have mark : (creditEntry n x (setChannel c true s)).toldMark x = s.toldMark x := by
    unfold State.toldMark State.point
    rw [points, layout]
  obtain ⟨sections, tracks, claims, -⟩ := tellDrivers_reads x (some n) (creditEntry n x (setChannel c true s))
  have frame := tellDrivers_frame x (some n) (creditEntry n x (setChannel c true s))
  have ages := tellDrivers_ages x n (creditEntry n x (setChannel c true s))
  have board := entrance.board
  unfold BoardFrame at board
  rw [mark] at marks
  unfold entered
  generalize tellDrivers x (some n) (creditEntry n x (setChannel c true s)) = T at *
  obtain ⟨z, hz, watch, chosen⟩ := followUp_record T s (T.headClaimPoints n) (List.mem_singleton.mpr rfl) hy
  have follow := followUp_claims T s (T.headClaimPoints n) [n]
  have lists := followUp_sections (s := T) s (T.headClaimPoints n) [n]
  have onward := followUp_ages T s (T.headClaimPoints n) [n]
  have watchFrame := followUp_watch T s (T.headClaimPoints n) [n]
  unfold followCut
  generalize followUp s (T.headClaimPoints n) [n] T = t at *
  refine ⟨v, w, z, entrance, hz, ?_, fun m => ?_, fun moving => chosen ?_, follow.2.trans tracks, follow.1.trans claims, lists.trans sections,
    ((SameAges.of_records (s := s) (t := setChannel c true s) rfl rfl).trans entrance.ages).trans (ages.trans onward), ?_⟩
  · unfold Record.AgreesButWatch at watch
    rw [watch, told]
  · rw [← marks]
    refine hasMark_same ?_ m
    rw [watch]
  · rw [told]
    exact moving
  · obtain ⟨l, e⟩ := watchFrame
    rw [e, frame, board]
    rfl

/-- The fields of a credited head (R86, R99, R104). -/
theorem Entered.fields {t : State} {v w z : Record} (h : Entered c x n s t r v w z) : z.head = some x ∧ z.headEntry = some s.clock ∧ z.timed = true
    ∧ z.speed = (s.entrySpeed r).1 ∧ z.state = s.resumed r
    ∧ z.stallDeadline = some (later s.clock (s.stallLimit r.number x ((s.entrySpeed r).1.getD 0))) := by
  have credited := h.entrance.credited.agrees
  rw [h.agrees, h.entrance.agrees, credited]
  exact ⟨rfl, rfl, rfl, rfl, rfl, rfl⟩

theorem Entered.moving {t : State} {v w z : Record} (h : Entered c x n s t r v w z) (moving : z.state = .releasing ∨ z.state = .rolling) :
    t.WatchChosen z := h.chosen (by rw [h.agrees] at moving; exact moving)

theorem Entered.branch {t : State} {v w z : Record} (h : Entered c x n s t r v w z) : z.assigned = w.assigned ∧ z.diversions = w.diversions
    ∧ z.more = w.more ∧ z.unplannedBelow = w.unplannedBelow ∧ z.tail = w.tail := by
  rw [h.agrees]
  exact ⟨rfl, rfl, rfl, rfl, rfl⟩

/-- The marks of an entrant other than those of its route (R31). -/
theorem Entered.mark {t : State} {v w z : Record} (h : Entered c x n s t r v w z) (m : Mark) (h1 : m ≠ .overfill) (h2 : m ≠ .misroute) :
    hasMark z m = (hasMark r m || ((s.entrySpeed r).2 && decide (m = .speedClamped)) || decide (s.toldMark x = some m)) := by
  rw [h.marks, h.entrance.marks m h1 h2, h.entrance.credited.marks]
  rfl

/-- The entrant is in the list of the section, at its place by release sequence when it comes there (R82). -/
theorem Entered.list {t : State} {v w z : Record} (h : Entered c x n s t r v w z) : n ∈ (t.section x).occupants
    ∧ (n ∉ (s.section x).occupants → t.Placed id n (s.section x).occupants (t.section x).occupants) := by
  have list : (t.section x).occupants = if n ∈ (s.section x).occupants then (s.section x).occupants
      else insertCut (setChannel c true s) n (s.section x).occupants := by
    rw [State.section, h.sections]
    exact h.entrance.occupants
  rw [list]
  constructor
  · split
    · assumption
    · exact (insertCut_perm _ n _).mem_iff.mpr (List.mem_cons_self ..)
  · intro off
    rw [if_neg off]
    exact ((SameAges.of_records (s := setChannel c true s) (t := s) rfl rfl).trans h.ages).placed (insertCut_placed _ n _)

theorem toldMark_ne {m : Mark} (h : s.toldMark x = some m) : m = .movingPoint ∨ m = .lateSettle := by
  unfold State.toldMark at h
  obtain ⟨q, -, h⟩ := Option.bind_eq_some_iff.mp h
  split at h
  · exact .inl (Option.some.inj h).symm
  · exact .inr (Option.some.inj h).symm
  all_goals cases h

theorem toldMark_other {m : Mark} (h1 : m ≠ .movingPoint) (h2 : m ≠ .lateSettle) : decide (s.toldMark x = some m) = false :=
  decide_eq_false fun e => (toldMark_ne e).elim h1 h2

/-- The point of the switch section entered (R141). -/
theorem entered_point {q : Nat} (hr : s.record n = some r) (sec : sectionOfChannel s.layout c = some x) (at_ : pointOfSection s.layout x = some q)
    (switch : switchSection s.layout q = x) :
    ((entered c x n s).point q = match (s.point q).state with
      | .throwing => { s.point q with state := .fault }
      | .settling => s.setEntry q
      | .atRest | .fault | .unsupervised => s.point q)
    ∧ ((s.point q).state = .throwing → latched .pointFault (entered c x n s) = true) := by
  obtain ⟨v, w, entrance⟩ := creditEntry_entrance (s := setChannel c true s) (x := x) hr
  obtain ⟨points, layout, clock⟩ := creditEntry_points entrance
  have board := entrance.board
  unfold BoardFrame at board
  have there : pointOfSection (creditEntry n x (setChannel c true s)).layout x = some q := layout.symm ▸ at_
  have told := tellDrivers_point there (some n)
  have same : (creditEntry n x (setChannel c true s)).point q = s.point q := by unfold State.point; rw [points]
  have set : (creditEntry n x (setChannel c true s)).setEntry q = s.setEntry q := by unfold State.setEntry; rw [same, clock, layout]
  have on := channel_setChannel s c true (sectionChannel s.layout x)
  rw [if_pos (used_of_channel sec).2] at on
  have locked : (tellDrivers x (some n) (creditEntry n x (setChannel c true s))).locked q = true := by
    refine locked_of_on (x := x) ?_ ?_ ?_ <;> rw [tellDrivers_frame, board]
    · exact at_
    · exact switch
    · exact on
  rw [same, set] at told
  refine ⟨(followUp_point s _ _ (.inl locked)).trans told, fun moving => ?_⟩
  exact followUp_flagsStay _ _ _ _ (tellDrivers_fault there (by rw [same]; exact moving) (some n))

end

end Sys2Proof.Machine
end

section
/-! The entries of entrants, part by part (R83, R86, R87, R99, R104, R127, R129, R141). -/

namespace Sys2Proof.Machine

section
variable {s : State} {c x n : Nat} {r : Record}

/-! ### The speed at an entry (R104) -/

theorem measureSpeed_eq (length : Nat) (t0 now : Instant) :
    measureSpeed length t0 now = (max 10 (min 1500 (length * 10000 / max 1 (now - t0).toNat)),
      decide (length * 10000 / max 1 (now - t0).toNat < 10 ∨ 1500 < length * 10000 / max 1 (now - t0).toNat)) := by
  unfold measureSpeed
  dsimp only
  generalize length * 10000 / max 1 (now - t0).toNat = raw
  split
  · rw [decide_eq_true (by omega)]
    congr 1
    omega
  · split
    · rw [decide_eq_true (by omega)]
      congr 1
      omega
    · rw [decide_eq_false (by omega)]
      congr 1
      omega

theorem entrySpeed_untimed (h : r.timed = false) : s.entrySpeed r = (r.speed, false) := by
  unfold State.entrySpeed
  rw [h]

theorem entrySpeed_stood {u : Nat} {t0 : Instant} (h : r.timed = true) (head : r.head = some u) (entry : r.headEntry = some t0)
    (stood : r.standTimer = .ranOut) : s.entrySpeed r = (some 10, true) := by
  unfold State.entrySpeed
  rw [h, head, entry]
  exact if_pos stood

theorem entrySpeed_timed {u : Nat} {t0 : Instant} (h : r.timed = true) (head : r.head = some u) (entry : r.headEntry = some t0)
    (stood : r.standTimer ≠ .ranOut) : s.entrySpeed r
      = (some (measureSpeed (sectionLength s.layout u) t0 s.clock).1, (measureSpeed (sectionLength s.layout u) t0 s.clock).2) := by
  unfold State.entrySpeed
  rw [h, head, entry]
  exact if_neg stood

theorem entrySpeed_first (head : r.head = none) : s.entrySpeed r = (r.speed, false) := by
  unfold State.entrySpeed
  rw [head]
  split
  · rename_i h _
    cases h
  · rfl

theorem strayReason_eq (s : State) (p : Nat) : s.strayReason p = if s.detection p = none then .pointFault else .misroute := by
  unfold State.strayReason
  cases s.detection p <;> rfl

/-! ### No room (R86) -/

theorem tellDrivers_unmarked (x : Nat) (s : State) : (tellDrivers x none s).records = s.records := by
  unfold tellDrivers
  split
  · unfold wheelsOnPoint
    split <;> rfl
  · rfl

/-- The board after an entrant has been lost for want of room, before the outputs are taken afresh. -/
def crowdedOut (c x n : Nat) (s : State) : State :=
  followUp s [] [] (tellDrivers x none (endHold x (loseCut .overcrowded n (setChannel c true s))))

theorem exec_crowdedOut (h1 : 1 ≤ c) (h2 : c ≤ 128) (hs : s.runState ≠ .halted) (off : s.channel c = false)
    (sec : sectionOfChannel s.layout c = some x) (who : s.entrant x = some n) (full : 4 ≤ (s.section x).occupants.length) :
    exec (.sectionOccupied c) s = .next (finish (crowdedOut c x n s)) := by
  have crowded : Config.maxOccupants ≤ ((setChannel c true s).section x).occupants.length := full
  rw [exec_occupied h1 h2 hs off sec]
  unfold sectionEntered
  rw [entrant_setChannel, who]
  dsimp only
  rw [if_pos crowded]
  rfl

theorem crowdedOut_departed (inside : s.isInTree n = true) : Departed (Record.lose .overcrowded) (Record.lose .leaderLost) n (setChannel c true s)
    (tellDrivers x none (endHold x (loseCut .overcrowded n (setChannel c true s)))) := by
  have gone : Departed (Record.lose .overcrowded) (Record.lose .leaderLost) n (setChannel c true s) (loseCut .overcrowded n (setChannel c true s)) :=
    loseCut_departed .overcrowded inside
  have held : Departed (Record.lose .overcrowded) (Record.lose .leaderLost) n (setChannel c true s)
      (endHold x (loseCut .overcrowded n (setChannel c true s))) :=
    { gone with occupants := fun y => (endHold_occupants x y _).trans (gone.occupants y) }
  obtain ⟨sections, -, claims, inTree⟩ := tellDrivers_reads x none (endHold x (loseCut .overcrowded n (setChannel c true s)))
  exact held.congr (tellDrivers_unmarked x _) claims sections inTree (tellDrivers_flagsStay x none _)

end

/-- Settles O50: the first four parts read `Entered` of the entry, the last is a departure (`crowdedOut_departed`). -/
theorem entrantsAreCredited : Obligations.EntrantsAreCredited := by
  refine ⟨fun s c x n r h1 h2 hs off sec who hr room head tail => ?_,
    ?_, ?_,
    fun s c x n q r h1 h2 hs off sec who hr room at_ switch => ?_,
    fun s c x n r h1 h2 hs off sec who hr ht full => ?_⟩
  · obtain ⟨v, w, z, e⟩ := entered_spec (c := c) (x := x) hr
    have exec_ := exec_entered h1 h2 hs off sec who room
    generalize entered c x n s = t at *
    obtain ⟨same, tail', tracks, claims⟩ := e.entrance.first head
    obtain ⟨zHead, zEntry, zTimed, zSpeed, -, -⟩ := e.fields
    obtain ⟨zAssigned, -, -, -, zTail⟩ := e.branch
    obtain ⟨vAssigned, -⟩ := Credited.kept e.entrance.credited
    obtain ⟨on, placed⟩ := e.list
    rw [entrySpeed_first head] at zSpeed
    refine ⟨finish t, z, exec_, e.record, ⟨zHead, ?_, zEntry, zTimed, zSpeed⟩, on, zAssigned.trans (same ▸ vAssigned), e.tracks.trans tracks,
      e.claims.trans claims, placed, e.moving⟩
    rw [zTail, same, tail', tail]
    rfl
  · intro s c x n u r t0 h1 h2 hs off sec who hr room head entry raw len
    obtain ⟨v, w, z, e⟩ := entered_spec (c := c) (x := x) hr
    have exec_ := exec_entered h1 h2 hs off sec who room
    generalize entered c x n s = t at *
    obtain ⟨zHead, zEntry, zTimed, zSpeed, zState, zStall⟩ := e.fields
    obtain ⟨on, placed⟩ := e.list
    have clamped : hasMark z .speedClamped = (hasMark r .speedClamped || (s.entrySpeed r).2) := by
      rw [e.mark _ (by decide) (by decide), toldMark_other (by decide) (by decide), Bool.or_false, decide_eq_true rfl, Bool.and_true]
    have frame := e.frame
    refine ⟨finish t, z, exec_, e.record, ⟨zHead, zEntry, zTimed, on⟩, fun timed stood => ?_, fun timed stood => ?_, fun untimed => ?_, ?_,
      placed, e.moving, ?_, ?_, ?_, fun y => ?_, ?_⟩
    · rw [entrySpeed_timed timed head entry stood, measureSpeed_eq] at zSpeed clamped
      exact ⟨zSpeed, clamped⟩
    · rw [entrySpeed_stood timed head entry stood] at zSpeed clamped
      exact ⟨zSpeed, clamped.trans (Bool.or_true _)⟩
    · rw [entrySpeed_untimed untimed] at zSpeed clamped
      exact ⟨zSpeed, clamped.trans (Bool.or_false _)⟩
    · rw [zStall, zSpeed, record_number s hr]
      rfl
    · rw [zState, State.resumed, record_number s hr]
    · show State.channel t c = true
      rw [frame]
      exact (channel_setChannel s c true c).trans (if_pos rfl)
    · show t.inTree = s.inTree
      rw [frame]
    · show (t.track y).fill = _ ∧ (t.track y).setting = _
      rw [State.track, e.tracks]
      exact e.entrance.kept y
    · rw [frame]
      rfl
  · intro s c x n u p b r h1 h2 hs off sec who hr room head at_ by_ wrong
    obtain ⟨v, w, z, e⟩ := entered_spec (c := c) (x := x) hr
    have exec_ := exec_entered h1 h2 hs off sec who room
    generalize entered c x n s = t at *
    obtain ⟨zHead, -⟩ := e.fields
    obtain ⟨zAssigned, zDiversions, zMore, zUnplanned, -⟩ := e.branch
    obtain ⟨vAssigned, vDiversions, vMore, -, -⟩ := Credited.kept e.entrance.credited
    obtain ⟨on, -⟩ := e.list
    obtain ⟨out, still⟩ := e.entrance.out u p b head at_ by_
    have misroute : hasMark z .misroute = hasMark w .misroute := by
      rw [e.marks, toldMark_other (by decide) (by decide), Bool.or_false]
    have before : hasMark v .misroute = hasMark r .misroute := by
      rw [e.entrance.credited.marks]
      simp
    have replanned := out.replanned
    rw [vAssigned, ← zAssigned, ← zUnplanned] at replanned
    refine ⟨finish t, z, exec_, e.record, zHead, on, fun stray => ?_, fun right => ?_⟩
    · obtain ⟨marked, noted⟩ := out.strayed stray
      refine ⟨misroute.trans marked, ?_, replanned (.inl stray)⟩
      rw [show (setChannel c true s).strayReason p = s.strayReason p from rfl, strayReason_eq] at noted
      unfold Record.Noted at noted ⊢
      rw [vDiversions, vMore] at noted
      rw [zDiversions, zMore]
      exact noted
    · obtain ⟨unmarked, diversions, more⟩ := out.straight right
      exact ⟨misroute.trans (unmarked.trans before), zDiversions.trans (diversions.trans vDiversions), zMore.trans (more.trans vMore),
        fun planned => ⟨zAssigned.trans ((out.planned right planned).trans vAssigned), e.tracks.trans (still right planned)⟩,
        fun unplanned => replanned (.inr unplanned)⟩
  · obtain ⟨v, w, z, e⟩ := entered_spec (c := c) (x := x) hr
    obtain ⟨point, fault⟩ := entered_point hr sec at_ switch
    have exec_ := exec_entered h1 h2 hs off sec who room
    generalize entered c x n s = t at *
    have told : s.toldMark x = match (s.point q).state with
        | .throwing => some .movingPoint
        | .settling => some .lateSettle
        | .atRest | .fault | .unsupervised => none := by
      unfold State.toldMark
      rw [at_]
      rfl
    have moving : hasMark z .movingPoint = (hasMark r .movingPoint || decide (s.toldMark x = some .movingPoint)) := by
      rw [e.mark _ (by decide) (by decide)]
      simp
    have late : hasMark z .lateSettle = (hasMark r .lateSettle || decide (s.toldMark x = some .lateSettle)) := by
      rw [e.mark _ (by decide) (by decide)]
      simp
    refine ⟨finish t, z, exec_, e.record, fun state => ?_, fun state => ?_, fun still still' => ?_⟩
    · rw [state] at told point
      rw [told] at moving late
      exact ⟨point, fault state, moving.trans (Bool.or_true _), late.trans (Bool.or_false _)⟩
    · rw [state] at told point
      rw [told] at moving late
      exact ⟨late.trans (Bool.or_true _), moving.trans (Bool.or_false _), point⟩
    · cases state : (s.point q).state <;> rw [state] at told point still still'
      case throwing => exact absurd rfl still
      case settling => exact absurd rfl still'
      all_goals
        rw [told] at moving late
        exact ⟨point, moving.trans (Bool.or_false _), late.trans (Bool.or_false _)⟩
  · have inside : s.isInTree n = true := (isInTree_iff s).mpr ⟨r, hr, ht⟩
    have gone := crowdedOut_departed (c := c) (x := x) inside
    have exec_ := exec_crowdedOut h1 h2 hs off sec who full
    have lost := (loseCut_latched .overcrowded (s := setChannel c true s) inside).1
    have tracks := loseCut_track .overcrowded (s := setChannel c true s) inside
    unfold crowdedOut at exec_
    generalize loseCut .overcrowded n (setChannel c true s) = l at *
    obtain ⟨sections, tracks', -, -⟩ := tellDrivers_reads x none (endHold x l)
    have ended : ((endHold x l).section x).unproven = false := by
      rw [endHold, section_changeSection, if_pos rfl]
      split
      · rfl
      · exact eq_false_of_ne_true ‹_›
    have kept : latched .lost (tellDrivers x none (endHold x l)) = true := tellDrivers_flagsStay x none (endHold x l) _ lost
    have proven : ((tellDrivers x none (endHold x l)).section x).unproven = false := by rw [State.section, sections]; exact ended
    have lengths : ∀ y, (tellDrivers x none (endHold x l)).track y = _ := fun y =>
      (congrArg (Table.read TrackEntry.initial · y) tracks').trans (tracks y)
    generalize tellDrivers x none (endHold x l) = T at *
    obtain ⟨record, others, lists, claims, left⟩ := gone.followed (lose_ends _) (lose_ends _) hr ht s [] []
    have section_ := followUp_section (s := T) s [] [] x
    have track_ := fun y => (followUp_track (s := T) s [] [] y).trans (lengths y)
    have stay : latched .lost (followUp s [] [] T) = true := followUp_flagsStay _ _ _ _ kept
    generalize followUp s [] [] T = t at *
    obtain ⟨state, reason⟩ := lose_state .overcrowded r
    refine ⟨finish t, _, exec_, record, state, reason, ⟨?_, ?_, left, stay⟩, ?_, lists, claims, fun m hm => ?_, fun y => ?_⟩
    · rw [Record.changed_eq]
      rfl
    · rw [Record.changed_eq]
      rfl
    · show (t.section x).unproven = false
      rw [section_]
      exact proven
    · obtain ⟨f, hf⟩ := others m hm
      exact ⟨_, hf, lose_state .leaderLost f⟩
    · have fill := congrArg TrackEntry.fill (track_ y)
      have committed := congrArg TrackEntry.committed (track_ y)
      exact ⟨fill, committed⟩

end Sys2Proof.Machine
end

section
/-! Joins: the queue head joined to the crest cut, and where their group goes (R29, R55 to R58). -/

namespace Sys2Proof.Machine

/-! ### A group with a new track, and its claims and watch point after it (R29, R57, R72, R76) -/

/-- The group of a cut with record `r` has been set to an assignment, with OVERFILL unless it fits. -/
structure Regrouped (c : Nat) (a : Assignment) (fits : Bool) (r : Record) (s w : State) : Prop where
  cut : ∃ v, w.record c = some v
    ∧ v = { r with assigned := some a, marks := if fits = true then r.marks else r.marks ||| 0x100, unseen := v.unseen }
  others : ∀ k, k ≠ c → w.record k
    = (s.record k).map fun q => if q.number ∈ c :: s.joinedFollowers c then Record.changed (Record.assign a) q else q
  claims : w.claims = s.claims
  ages : SameAges s w
  replans : Replans c s w

/-- A group set to an assignment has had its claims brought in line with the route, and the watch point chosen afresh. -/
structure Rerouted (c : Nat) (a : Assignment) (fits : Bool) (r : Record) (s t : State) : Prop where
  cut : ∃ v, t.record c = some v
    ∧ v = { r with
        assigned := some a, marks := if fits = true then r.marks else r.marks ||| 0x100, unplannedBelow := none, unseen := v.unseen
        watch := v.watch, lastMoment := v.lastMoment, timer := v.timer }
    ∧ (r.state = .releasing ∨ r.state = .rolling → t.WatchChosen v)
  followers : ∀ m ∈ s.joinedFollowers c, ∀ q, s.record m = some q → t.record m = some (Record.changed (Record.assign a) q)
  claims : s.ClaimsOn t r a.track
  replans : Replans c s t

section
variable {s w : State} {c n x : Nat} {r : Record} {a : Assignment} {fits : Bool}

theorem regrouped_marked (hr : s.record c = some r) (fits : Bool) (records : w.records = (setAssignment c a s).records)
    (claims : w.claims = s.claims) (counter : w.seqCounter = s.seqCounter) (replans : Replans c s w) :
    Regrouped c a fits r s (addMarkIf (!fits) .overfill c w) := by
  have set : ∀ k, w.record k
      = (s.record k).map fun q => if q.number ∈ c :: s.joinedFollowers c then Record.changed (Record.assign a) q else q := fun k => by
    rw [record_congr records, setAssignment_record]
  have own : w.record c = some (Record.changed (Record.assign a) r) := by
    rw [set, hr, Option.map_some, if_pos (by rw [record_number s hr]; exact List.mem_cons_self ..)]
  have first : SameAges s w := ⟨counter, fun k => by
    rw [record_congr records]
    exact (setAssignment_ages s c a).released k⟩
  refine ⟨?_, fun k hk => ?_, (addMarkIf_claims _ _ _ _).trans claims, first.trans (addMarkIf_ages ..), replans.trans (addMarkIf_replans ..)⟩
  · cases fits with
    | true =>
      refine ⟨_, own, ?_⟩
      rw [Record.changed_eq]
      rfl
    | false =>
      refine ⟨Record.changed (withMark .overfill) (Record.changed (Record.assign a) r), ?_, ?_⟩
      · exact (record_changeRecord_same w c (withMark .overfill) fun _ => rfl).trans (by rw [own]; rfl)
      · rw [Record.changed_eq, Record.changed_eq]
        rfl
  · rw [← set]
    cases fits with
    | true => rfl
    | false => exact record_changeRecord_other w (withMark .overfill) (fun _ => rfl) hk

theorem reassign_regrouped (hr : s.record c = some r) (ne : s.assignedTrack c ≠ some x) (why : AssignReason) :
    Regrouped c { track := x, reason := why } (s.canTake x (s.groupLength c)) r s (reassign c x why s) := by
  refine ⟨reassign_cut s ne why hr, fun k hk => reassign_other s ne why hk, reassign_claims s x why, reassign_ages s c x why,
    reassign_replans s c x why⟩

/-- The length that comes to the default track with a join under REHUMP: the follower's, or the whole group's (R57). -/
def State.joinLength (s : State) (c n x : Nat) : Nat := if x = defaultTrack s.layout then s.effective n else s.groupLength c

theorem setAssignment_fits (s : State) (c : Nat) (a : Assignment) (y len : Nat) : (setAssignment c a s).canTake y len = s.canTake y len :=
  (changeRecords_only s _ _).canTake y len

theorem setAssignment_effective (s : State) (c : Nat) (a : Assignment) (n : Nat) : (setAssignment c a s).effective n = s.effective n :=
  ((setAssignment_moves s c a).records.imp fun _ _ k => k.sameGroup).effective (setAssignment_moves s c a).active n

theorem rehumpGroup_eq (s : State) (c n x : Nat) : rehumpGroup c n x s
    = addMarkIf (!s.canTake (defaultTrack s.layout) (s.joinLength c n x)) .overfill c
        (commitLength (defaultTrack s.layout) (s.joinLength c n x)
          (releaseFrom (if x = defaultTrack s.layout then none else some x) (s.groupLength c - s.effective n)
            (setAssignment c { track := defaultTrack s.layout, reason := .defaultJoin } s))) := by
  unfold rehumpGroup State.joinLength
  dsimp only
  split
  · unfold commitFollower
    rw [setAssignment_fits, setAssignment_effective]
    rfl
  · rfl

theorem rehumpGroup_regrouped (hr : s.record c = some r) (n x : Nat) :
    Regrouped c { track := defaultTrack s.layout, reason := .defaultJoin } (s.canTake (defaultTrack s.layout) (s.joinLength c n x)) r s
      (rehumpGroup c n x s) := by
  rw [rehumpGroup_eq]
  generalize (if x = defaultTrack s.layout then none else some x) = y
  have set : RecordsOnly s (setAssignment c { track := defaultTrack s.layout, reason := .defaultJoin } s) := changeRecords_only s _ _
  refine regrouped_marked hr _ ((changeTrack_records ..).trans (releaseFrom_records _ _ _)) ?_ ?_
    ((changeRecords_replans s c _ _).trans ((releaseFrom_replans _ c y _).trans (changeTrack_replans _ c _ _)))
  · refine (changeTrack_claims ..).trans ?_
    have same : (setAssignment c { track := defaultTrack s.layout, reason := .defaultJoin } s).claims = s.claims := by
      rw [set]
    cases y with
    | none => exact same
    | some y => exact (changeTrack_claims ..).trans same
  · exact ((setAssignment_ages s c _).trans ((releaseFrom_ages _ y _).trans (changeTrack_ages _ _ _))).counter

theorem rehumpGroup_track (y : Nat) : (rehumpGroup c n x s).track y = { s.track y with
    committed := (s.track y).committed - (if (if x = defaultTrack s.layout then none else some x) = some y then s.groupLength c - s.effective n else 0)
      + if defaultTrack s.layout = y then s.joinLength c n x else 0 } := by
  rw [rehumpGroup_eq]
  generalize (if x = defaultTrack s.layout then none else some x) = o
  have released := track_releaseFrom (s := setAssignment c { track := defaultTrack s.layout, reason := .defaultJoin } s) o
    (s.groupLength c - s.effective n)
  have set : ∀ z, (setAssignment c { track := defaultTrack s.layout, reason := .defaultJoin } s).track z = s.track z := fun z => by
    unfold State.track
    rw [setAssignment_tracks]
  refine ((addMarkIf_only _ _ _ _).track y).trans ?_
  rw [commitLength, track_changeTrack, released, released, set, set]
  by_cases h : y = defaultTrack s.layout
  · subst h
    simp
  · simp [h, Ne.symm h]

theorem followCut_tracks (old w : State) (c y : Nat) : (followCut old c (redoClaims c w)).track y = w.track y := by
  unfold State.track
  rw [followCut, (followUp_claims _ old _ _).2, redoClaims_tracks]

theorem Regrouped.rerouted (h : Regrouped c a fits r s w) (old : State) (hr : s.record c = some r) (ht : r.state.inTree = true) :
    Rerouted c a fits r s (followCut old c (redoClaims c w)) := by
  obtain ⟨v, hv, cut⟩ := h.cut
  have assigned : v.assigned = some a := by rw [cut]
  have redone := record_redoClaims w hv assigned
  obtain ⟨v', hv', agrees, chosen⟩ := followUp_record (redoClaims c w) old ((redoClaims c w).headClaimPoints c) (List.mem_singleton.mpr rfl) redone
  obtain ⟨layout, tree⟩ := h.replans.reads
  have later : SameAges w (followCut old c (redoClaims c w)) := (redoClaims_ages _ c).trans (followUp_ages _ old _ _)
  refine ⟨⟨v', hv', ?_, fun e => chosen ?_⟩, fun m hm q hq => ?_, ?_, (h.replans.trans (redoClaims_replans _ c)).trans (followUp_replans _ c old _ _)⟩
  · unfold Record.AgreesButWatch at agrees
    rw [agrees, cut]
  · show v.state = .releasing ∨ v.state = .rolling
    rwa [cut]
  · obtain ⟨q', hq', joined⟩ := (isIn_iff s).mp (mem_joinedFollowers.mp hm).1
    obtain rfl : q = q' := Option.some.inj (hq.symm.trans hq')
    have other : m ≠ c := by
      rintro rfl
      exact not_mem_joinedFollowers ((isInTree_iff s).mpr ⟨r, hr, ht⟩) hm
    have set : (redoClaims c w).record m = some (Record.changed (Record.assign a) q) := by
      rw [redoClaims_record_other other, h.others m other, hq, Option.map_some,
        if_pos (by rw [record_number s hq]; exact List.mem_cons_of_mem _ hm)]
    refine followUp_still old _ _ set ?_
    rw [Record.changed_eq]
    show ¬ (q.state = .releasing ∨ q.state = .rolling)
    rw [joined]
    rintro (e | e) <;> cases e
  · exact redoClaims_claimsOn hv assigned (record_number s hr) (by rw [cut]) h.claims tree layout (followUp_claims _ old _ _).1 later

/-! ### A follower's length on its leader's track (R56) -/

theorem commitFollower_record (hr : s.record c = some r) : ∃ v, (commitFollower c n x s).record c = some v
    ∧ v = { r with marks := if s.canTake x (s.effective n) = true then r.marks else r.marks ||| 0x100, unseen := v.unseen } := by
  have same : (commitLength x (s.effective n) s).record c = some r := (record_congr (changeTrack_records ..) c).trans hr
  unfold commitFollower
  cases s.canTake x (s.effective n) with
  | true => exact ⟨r, same, rfl⟩
  | false =>
    refine ⟨Record.changed (withMark .overfill) r, ?_, by rw [Record.changed_eq]; rfl⟩
    exact (record_changeRecord_same _ c (withMark .overfill) fun _ => rfl).trans (by rw [same]; rfl)

theorem commitFollower_other {k : Nat} (hk : k ≠ c) : (commitFollower c n x s).record k = s.record k := by
  have same : (commitLength x (s.effective n) s).record k = s.record k := record_congr (changeTrack_records ..) k
  unfold commitFollower
  cases s.canTake x (s.effective n) with
  | true => exact same
  | false => exact (record_changeRecord_other _ (withMark .overfill) (fun _ => rfl) hk).trans same

theorem commitFollower_track (y : Nat) : (commitFollower c n x s).track y
    = if y = x then { s.track x with committed := (s.track x).committed + s.effective n } else s.track y := by
  refine ((addMarkIf_only _ _ _ _).track y).trans ?_
  rw [commitLength, track_changeTrack]

theorem commitFollower_replans (s : State) (c n x : Nat) : Replans c s (commitFollower c n x s) :=
  (changeTrack_replans s c x _).trans (addMarkIf_replans ..)

theorem commitFollower_frame (s : State) (c n x : Nat) : (commitFollower c n x s).claims = s.claims
    ∧ (commitFollower c n x s).points = s.points ∧ (commitFollower c n x s).pending = s.pending := by
  have only := addMarkIf_only (commitLength x (s.effective n) s) (!s.canTake x (s.effective n)) .overfill c
  unfold RecordsOnly at only
  unfold commitFollower
  rw [only]
  exact ⟨changeTrack_claims .., changeTrack_points .., changeTrack_pending ..⟩

end

end Sys2Proof.Machine
end

section
/-! The join of the queue head to the crest cut, case by case, and the obligation over them (R55 to R58). -/

namespace Sys2Proof.Machine

/-- What every join makes of the follower's record (R55). -/
def Record.Joins (s : State) (c : Nat) (f f' : Record) : Prop :=
  f'.joined = some (.follower c) ∧ f'.measuredAxles = 1 ∧ f'.releaseSeq = some s.seqCounter ∧ f'.requested = f.requested ∧ f'.unseen = true

/-- What every join makes of the crest cut's record (R29). -/
def Record.Leads (n : Nat) (l l' : Record) : Prop :=
  l'.joined = some (.leader (l.followers ++ [n])) ∧ l'.state = l.state ∧ l'.requested = l.requested

/-- From the join as it is recorded to a board: both records have what every join gives them, and a group in the tree has one track. -/
structure JoinKept (s u t : State) (c n : Nat) (l f : Record) : Prop where
  crest : ∃ l', t.record c = some l' ∧ Record.Leads n l l' ∧ ∃ f', t.record n = some f' ∧ Record.Joins s c f f'
    ∧ (l.state.inTree = true → f'.state = .joined ∧ f'.assigned = l'.assigned)
  replans : Replans c u t

section
variable {s : State} {c n x : Nat} {rest : List Nat} {l f : Record}

/-- The records of a leader and of a follower as the join is recorded. -/
theorem withFollower_leads (n : Nat) (l : Record) : Record.Leads n l (Record.changed (Record.withFollower n) l) := by
  rw [Record.changed_eq]
  exact ⟨rfl, rfl, rfl⟩

theorem joinedTo_joins (s : State) (c : Nat) (hf : f.state = .pending) : Record.Joins s c f (Record.changed (Record.joinedTo s c) f) := by
  rw [Record.changed_of_ne (withState_shown (by rw [hf]; exact nofun))]
  exact ⟨rfl, rfl, rfl, rfl, rfl⟩

theorem Record.Joins.changed {q : Record} (h : Record.Joins s c f q) (g : Record → Record) (same : (g q).joined = q.joined
    ∧ (g q).measuredAxles = q.measuredAxles ∧ (g q).releaseSeq = q.releaseSeq ∧ (g q).requested = q.requested ∧ (g q).unseen = q.unseen) :
    Record.Joins s c f (Record.changed g q) := by
  obtain ⟨joined, axles, released, requested, unseen⟩ := same
  obtain ⟨qJoined, qAxles, qReleased, qRequested, qUnseen⟩ := h
  rw [Record.changed_eq]
  refine ⟨joined.trans qJoined, axles.trans qAxles, released.trans qReleased, requested.trans qRequested, ?_⟩
  show (if (g q).shown = q.shown then (g q).unseen else true) = true
  rw [unseen, qUnseen]
  exact ite_self _

theorem joinedTo_assigned (hc : s.record c = some l) : (Record.changed (Record.joinedTo s c) f).assigned = l.assigned := by
  rw [Record.changed_eq]
  show (s.record c).bind Record.assigned = l.assigned
  rw [hc]
  rfl

theorem withFollower_fields (n : Nat) (l : Record) :
    (Record.changed (Record.withFollower n) l).marks = l.marks ∧ (Record.changed (Record.withFollower n) l).head = l.head
      ∧ (Record.changed (Record.withFollower n) l).outcome = l.outcome := by
  rw [Record.changed_eq]
  exact ⟨rfl, rfl, rfl⟩

/-! ### What a join leaves of the board (R55) -/

theorem joinNoted_only : joinNoted c n rest s = { s with
    records := (joinNoted c n rest s).records, flags := (joinNoted c n rest s).flags, queue := rest, target := some n
    seqCounter := s.seqCounter + 1 } := by
  have second := changeRecord_only (offQueue (Record.joinedTo s c) n rest 0 { s with target := some n }) c (Record.withFollower n)
  have first := changeRecord_only { s with target := some n } n (Record.joinedTo s c)
  unfold RecordsOnly at first second
  unfold joinNoted
  rw [second]
  unfold offQueue
  rw [first]
  rfl

theorem joinNoted_canTake (y len : Nat) : (joinNoted c n rest s).canTake y len = s.canTake y len := by
  rw [joinNoted_only]
  rfl

theorem joinNoted_reads : (joinNoted c n rest s).layout = s.layout ∧ (joinNoted c n rest s).tree = s.tree
    ∧ (joinNoted c n rest s).claims = s.claims := by
  rw [joinNoted_only]
  exact ⟨rfl, rfl, rfl⟩

theorem joinNoted_track (y : Nat) : (joinNoted c n rest s).track y = s.track y := by
  rw [joinNoted_only]
  rfl

theorem joinNoted_latched : latched .crest (joinNoted c n rest s) = true := by
  rw [joinNoted, latched_latch]
  exact Bool.or_true _

variable (hc : s.record c = some l) (hn : s.record n = some f) (ne : c ≠ n) (hf : f.state = .pending)

/-! ### What each case keeps -/

section
include hc hn ne hf

theorem joinKept_noted : JoinKept s (joinNoted c n rest s) (joinNoted c n rest s) c n l f :=
  ⟨⟨_, joinNoted_record_crest hc ne, withFollower_leads n l, _, joinNoted_record_head hn ne, joinedTo_joins s c hf,
    fun _ => ⟨(joinedTo_changed s c f).2.1, (joinedTo_assigned hc).trans (withFollower_changed n l).2.2.2.1.symm⟩⟩, .refl _⟩

theorem joinKept_committed (x : Nat) : JoinKept s (joinNoted c n rest s) (commitFollower c n x (joinNoted c n rest s)) c n l f := by
  obtain ⟨v, hv, cut⟩ := commitFollower_record (n := n) (x := x) (joinNoted_record_crest (rest := rest) hc ne)
  refine ⟨⟨v, hv, ?_, _, (commitFollower_other ne.symm).trans (joinNoted_record_head hn ne), joinedTo_joins s c hf, fun _ => ⟨?_, ?_⟩⟩,
    commitFollower_replans _ c n x⟩
  · rw [cut]
    exact withFollower_leads n l
  · exact (joinedTo_changed s c f).2.1
  · rw [cut]
    exact (joinedTo_assigned hc).trans (withFollower_changed n l).2.2.2.1.symm

theorem joinKept_rerouted {t : State} {a : Assignment} {fits : Bool} (fresh : n ∉ l.followers)
    (h : Rerouted c a fits (Record.changed (Record.withFollower n) l) (joinNoted c n rest s) t) : JoinKept s (joinNoted c n rest s) t c n l f := by
  obtain ⟨⟨v, hv, cut, -⟩, follow, -, replans⟩ := h
  have on : n ∈ (joinNoted c n rest s).joinedFollowers c := by
    rw [joinNoted_joinedFollowers hc hn ne fresh]
    exact List.mem_append_right _ (List.mem_singleton.mpr rfl)
  refine ⟨⟨v, hv, ?_, _, follow n on _ (joinNoted_record_head hn ne), (joinedTo_joins s c hf).changed _ ⟨rfl, rfl, rfl, rfl, rfl⟩,
    fun _ => ⟨?_, ?_⟩⟩, replans⟩
  · rw [cut]
    exact withFollower_leads n l
  · rw [Record.changed_eq]
    exact (joinedTo_changed s c f).2.1
  · rw [cut, Record.changed_eq]
    rfl

/-- A follower that goes the way of a crest cut out of the tree (R58). -/
theorem joinKept_gone (out : l.state.inTree = false) (g : Record → Record) (number : ∀ q, (g q).number = q.number)
    (same : ∀ q, (g q).joined = q.joined ∧ (g q).measuredAxles = q.measuredAxles ∧ (g q).releaseSeq = q.releaseSeq
      ∧ (g q).requested = q.requested ∧ (g q).unseen = q.unseen) :
    JoinKept s (joinNoted c n rest s) (changeRecord n g (joinNoted c n rest s)) c n l f := by
  refine ⟨⟨_, (record_changeRecord_other _ g number ne).trans (joinNoted_record_crest hc ne), withFollower_leads n l,
    _, (record_changeRecord_same _ n g number).trans (congrArg _ (joinNoted_record_head hn ne)), (joinedTo_joins s c hf).changed g (same _),
    fun e => ?_⟩, changeRecord_replans _ c n g⟩
  rw [out] at e
  cases e

end

/-! ### The cases of a join -/

section
variable (hq : s.queue = n :: rest)
include hc hq

/-- A join under a crest cut in the tree that has a track, where its group stays there (R56, R57). -/
theorem joinCut_committed {a : Assignment} (ne : c ≠ n) (ht : l.state.inTree = true) (ha : l.assigned = some a)
    (stays : ¬ (joinPolicy s.layout = 2 ∧ s.tree.trackBelow (defaultTrack s.layout) (l.head.getD 1) = true)) :
    joinCut c n s = commitFollower c n a.track (joinNoted c n rest s) := by
  obtain ⟨layout, tree, -⟩ := joinNoted_reads (s := s) (c := c) (n := n) (rest := rest)
  unfold joinCut
  rw [joinNoted_eq hq]
  dsimp only
  rw [if_pos ((isInTree_iff s).mpr ⟨l, hc, ht⟩)]
  unfold joinPolicyTrack
  rw [joinNoted_record_crest hc ne, layout, tree]
  dsimp only
  rw [(withFollower_changed n l).2.2.2.1, ha, (withFollower_fields n l).2.1]
  split
  · exact if_neg fun h => stays ⟨‹_›, h⟩
  · rfl

theorem joinCut_waiting (ne : c ≠ n) (ht : l.state.inTree = true) (waiting : l.assigned = none) (policy : joinPolicy s.layout ≠ 2) :
    joinCut c n s = joinNoted c n rest s := by
  unfold joinCut
  rw [joinNoted_eq hq]
  dsimp only
  rw [if_pos ((isInTree_iff s).mpr ⟨l, hc, ht⟩)]
  unfold joinPolicyTrack
  rw [joinNoted_record_crest hc ne, (joinNoted_reads (s := s) (c := c) (n := n) (rest := rest)).1]
  dsimp only
  rw [if_neg policy, (withFollower_changed n l).2.2.2.1, waiting]

/-- A join under REHUMP to a crest cut with a track, where its group goes to the default track (R57). -/
theorem joinCut_rehumped {a : Assignment} (ne : c ≠ n) (ht : l.state.inTree = true) (ha : l.assigned = some a)
    (goes : joinPolicy s.layout = 2 ∧ s.tree.trackBelow (defaultTrack s.layout) (l.head.getD 1) = true) :
    joinCut c n s = followCut s c (redoClaims c (rehumpGroup c n a.track (joinNoted c n rest s))) := by
  obtain ⟨layout, tree, -⟩ := joinNoted_reads (s := s) (c := c) (n := n) (rest := rest)
  unfold joinCut
  rw [joinNoted_eq hq]
  dsimp only
  rw [if_pos ((isInTree_iff s).mpr ⟨l, hc, ht⟩)]
  unfold joinPolicyTrack
  rw [joinNoted_record_crest hc ne, layout, tree]
  dsimp only
  rw [if_pos goes.1, (withFollower_changed n l).2.2.2.1, ha, (withFollower_fields n l).2.1]
  exact if_pos goes.2

/-- A join under REHUMP to a crest cut that waits for its track (R57). -/
theorem joinCut_assigned (ne : c ≠ n) (ht : l.state.inTree = true) (waiting : l.assigned = none) (policy : joinPolicy s.layout = 2) :
    joinCut c n s = followCut s c (redoClaims c (reassign c (defaultTrack s.layout) .defaultJoin (joinNoted c n rest s))) := by
  have none_ : (joinNoted c n rest s).assignedTrack c = none := by
    simp [State.assignedTrack, joinNoted_record_crest hc ne, (withFollower_changed n l).2.2.2.1, waiting]
  unfold joinCut
  rw [joinNoted_eq hq]
  dsimp only
  rw [if_pos ((isInTree_iff s).mpr ⟨l, hc, ht⟩), ← assignTrack_eq _ none_]
  unfold joinPolicyTrack
  rw [joinNoted_record_crest hc ne, (joinNoted_reads (s := s) (c := c) (n := n) (rest := rest)).1]
  dsimp only
  rw [if_pos policy, (withFollower_changed n l).2.2.2.1, waiting]

/-- A join to a crest cut that has left the tree (R58). -/
theorem joinCut_gone (ne : c ≠ n) (out : l.state.inTree = false) :
    joinCut c n s = match l.state with
      | .lost => latch .lost (changeRecord n (Record.lose .leaderLost) (joinNoted c n rest s))
      | .settled => changeRecord n (Record.settle (l.outcome.getD 0)) (joinNoted c n rest s)
      | .pending | .releasing | .rolling | .stalled | .joined => joinNoted c n rest s := by
  unfold joinCut
  rw [joinNoted_eq hq]
  dsimp only
  rw [if_neg (by simp [State.isInTree, hc, out])]
  unfold joinOutcome
  rw [joinNoted_record_crest hc ne]
  have state := (withFollower_changed n l).2.1
  have outcome := (withFollower_fields n l).2.2
  cases e : l.state <;> simp only [state, outcome, e]

end

/-- The leader's group after a join under REHUMP has one track, its claims in line and its watch point chosen afresh (R57). -/
theorem rerouted_rehumped (old : State) (ne : c ≠ n) (hc : s.record c = some l) (ht : l.state.inTree = true) (x : Nat) :
    Rerouted c { track := defaultTrack s.layout, reason := .defaultJoin }
      (s.canTake (defaultTrack s.layout) ((joinNoted c n rest s).joinLength c n x)) (Record.changed (Record.withFollower n) l)
      (joinNoted c n rest s) (followCut old c (redoClaims c (rehumpGroup c n x (joinNoted c n rest s)))) := by
  have crest := joinNoted_record_crest (rest := rest) hc ne
  have moved := (rehumpGroup_regrouped crest n x).rerouted old crest (by rw [(withFollower_changed n l).2.1]; exact ht)
  rw [joinNoted_canTake, (joinNoted_reads (s := s) (c := c) (n := n) (rest := rest)).1] at moved
  exact moved

theorem rerouted_assigned (old : State) (ne : c ≠ n) (hc : s.record c = some l) (ht : l.state.inTree = true) (waiting : l.assigned = none) :
    Rerouted c { track := defaultTrack s.layout, reason := .defaultJoin }
      (s.canTake (defaultTrack s.layout) ((joinNoted c n rest s).groupLength c)) (Record.changed (Record.withFollower n) l)
      (joinNoted c n rest s) (followCut old c (redoClaims c (reassign c (defaultTrack s.layout) .defaultJoin (joinNoted c n rest s)))) := by
  have crest := joinNoted_record_crest (rest := rest) hc ne
  have none_ : (joinNoted c n rest s).assignedTrack c = none := by
    simp [State.assignedTrack, crest, (withFollower_changed n l).2.2.2.1, waiting]
  have moved := (reassign_regrouped (x := defaultTrack s.layout) crest (by rw [none_]; exact nofun) .defaultJoin).rerouted old crest
    (by rw [(withFollower_changed n l).2.1]; exact ht)
  rw [joinNoted_canTake] at moved
  exact moved

/-- Every join keeps what a join is to keep. -/
theorem joinCut_kept (hq : s.queue = n :: rest) (hc : s.record c = some l) (hn : s.record n = some f) (ne : c ≠ n) (hf : f.state = .pending)
    (fresh : n ∉ l.followers) : JoinKept s (joinNoted c n rest s) (joinCut c n s) c n l f := by
  cases ht : l.state.inTree with
  | true =>
    by_cases goes : joinPolicy s.layout = 2 ∧ s.tree.trackBelow (defaultTrack s.layout) (l.head.getD 1) = true
    · cases ha : l.assigned with
      | some a =>
        rw [joinCut_rehumped hc hq ne ht ha goes]
        exact joinKept_rerouted hc hn ne hf fresh (rerouted_rehumped s ne hc ht a.track)
      | none =>
        rw [joinCut_assigned hc hq ne ht ha goes.1]
        exact joinKept_rerouted hc hn ne hf fresh (rerouted_assigned s ne hc ht ha)
    · cases ha : l.assigned with
      | some a =>
        rw [joinCut_committed hc hq ne ht ha goes]
        exact joinKept_committed hc hn ne hf a.track
      | none =>
        by_cases policy : joinPolicy s.layout = 2
        · rw [joinCut_assigned hc hq ne ht ha policy]
          exact joinKept_rerouted hc hn ne hf fresh (rerouted_assigned s ne hc ht ha)
        · rw [joinCut_waiting hc hq ne ht ha policy]
          exact joinKept_noted hc hn ne hf
  | false =>
    rw [joinCut_gone hc hq ne ht]
    split
    · obtain ⟨crest, replans⟩ := joinKept_gone (rest := rest) hc hn ne hf ht (Record.lose .leaderLost) (fun _ => rfl) fun _ => ⟨rfl, rfl, rfl, rfl, rfl⟩
      exact ⟨crest, replans.trans (latch_replans _ c .lost)⟩
    · exact joinKept_gone hc hn ne hf ht (Record.settle (l.outcome.getD 0)) (fun _ => rfl) fun _ => ⟨rfl, rfl, rfl, rfl, rfl⟩
    all_goals exact joinKept_noted hc hn ne hf

end

end Sys2Proof.Machine
end

section
/-! What each case of a join makes of the tracks, the claims and the two records (R56, R57, R58). -/

namespace Sys2Proof.Machine

section
variable {s : State} {c n : Nat} {rest : List Nat} {l f l' : Record} {a : Assignment}

section
variable (hq : s.queue = n :: rest) (hc : s.record c = some l) (hn : s.record n = some f) (ne : c ≠ n) (hl : (joinCut c n s).record c = some l')
include hq hc ne

section
variable (ht : l.state.inTree = true)
include ht

include hn hl in
/-- The follower's length is committed to the crest cut's track (R56). -/
theorem joinCut_spec_committed (ha : l.assigned = some a)
    (stays : ¬ (joinPolicy s.layout = 2 ∧ s.tree.trackBelow (defaultTrack s.layout) (l.head.getD 1) = true)) :
    l'.assigned = some a ∧ l'.marks = (if s.canTake a.track (s.effective n) = true then l.marks else l.marks ||| 0x100)
      ∧ (joinCut c n s).track a.track = { s.track a.track with committed := (s.track a.track).committed + s.effective n }
      ∧ (∀ y, y ≠ a.track → (joinCut c n s).track y = s.track y)
      ∧ (joinCut c n s).claims = s.claims ∧ (joinCut c n s).points = s.points ∧ (joinCut c n s).pending = s.pending := by
  rw [joinCut_committed hc hq ne ht ha stays] at hl ⊢
  have len := joinNoted_effective (rest := rest) hc hn ne n
  obtain ⟨v, hv, cut⟩ := commitFollower_record (n := n) (x := a.track) (joinNoted_record_crest (rest := rest) hc ne)
  obtain rfl : l' = v := Option.some.inj (hl.symm.trans hv)
  obtain ⟨claims, points, pending⟩ := commitFollower_frame (joinNoted c n rest s) c n a.track
  rw [len, joinNoted_canTake, (withFollower_fields n l).1] at cut
  refine ⟨?_, ?_, ?_, fun y hy => ?_, ?_, ?_, ?_⟩
  · rw [cut]
    exact (withFollower_changed n l).2.2.2.1.trans ha
  · rw [cut]
  · rw [commitFollower_track, if_pos rfl, joinNoted_track, len]
  · rw [commitFollower_track, if_neg hy, joinNoted_track]
  · rw [claims, joinNoted_only]
  · rw [points, joinNoted_only]
  · rw [pending, joinNoted_only]

include hl in
/-- A crest cut that waits for its track stays so under LEADER (R56). -/
theorem joinCut_spec_waiting (waiting : l.assigned = none) (policy : joinPolicy s.layout ≠ 2) :
    l'.assigned = none ∧ l'.marks = l.marks ∧ (joinCut c n s).tracks = s.tracks ∧ (joinCut c n s).claims = s.claims
      ∧ (joinCut c n s).points = s.points ∧ (joinCut c n s).pending = s.pending := by
  rw [joinCut_waiting hc hq ne ht waiting policy] at hl ⊢
  obtain rfl := Option.some.inj (hl.symm.trans (joinNoted_record_crest hc ne))
  refine ⟨(withFollower_changed n l).2.2.2.1.trans waiting, (withFollower_fields n l).1, ?_⟩
  rw [joinNoted_only]
  exact ⟨rfl, rfl, rfl, rfl⟩

omit hq hc ne ht in
/-- A group sent to the default track, read from the board before the join. -/
theorem rerouted_read {t : State} {fits : Bool} (hl : t.record c = some l')
    (sent : Rerouted c a fits (Record.changed (Record.withFollower n) l) (joinNoted c n rest s) t) :
    l'.assigned = some a ∧ l'.marks = (if fits = true then l.marks else l.marks ||| 0x100) ∧ s.ClaimsOn t l a.track
      ∧ (l.state = .releasing ∨ l.state = .rolling → t.WatchChosen l') := by
  obtain ⟨⟨v, hv, cut, chosen⟩, -, claims, -⟩ := sent
  obtain rfl : l' = v := Option.some.inj (hl.symm.trans hv)
  obtain ⟨layout, tree, held⟩ := joinNoted_reads (s := s) (c := c) (n := n) (rest := rest)
  obtain ⟨number, state, -⟩ := withFollower_changed n l
  rw [state] at chosen
  rw [(withFollower_fields n l).1] at cut
  refine ⟨?_, ?_, claims.congr number (withFollower_fields n l).2.1 held tree layout, chosen⟩ <;> rw [cut]

include hn hl in
/-- The group goes to the default track under REHUMP (R57). -/
theorem joinCut_spec_rehumped (fresh : n ∉ l.followers) (ha : l.assigned = some a)
    (goes : joinPolicy s.layout = 2 ∧ s.tree.trackBelow (defaultTrack s.layout) (l.head.getD 1) = true) (len : Nat)
    (hlen : len = if a.track = defaultTrack s.layout then s.effective n else s.groupLength c + s.effective n) :
    l'.assigned = some { track := defaultTrack s.layout, reason := .defaultJoin }
      ∧ (∀ j ∈ s.joinedFollowers c, ∃ g, (joinCut c n s).record j = some g ∧ g.state = .joined ∧ g.assigned = l'.assigned)
      ∧ (((joinCut c n s).track (defaultTrack s.layout)).committed = (s.track (defaultTrack s.layout)).committed + len
        ∧ l'.marks = (if s.canTake (defaultTrack s.layout) len = true then l.marks else l.marks ||| 0x100))
      ∧ (a.track ≠ defaultTrack s.layout →
          ((joinCut c n s).track a.track).committed = (s.track a.track).committed - s.groupLength c)
      ∧ (∀ y, y ≠ defaultTrack s.layout → y ≠ a.track → (joinCut c n s).track y = s.track y)
      ∧ s.ClaimsOn (joinCut c n s) l (defaultTrack s.layout)
      ∧ (l.state = .releasing ∨ l.state = .rolling → (joinCut c n s).WatchChosen l') := by
  obtain ⟨layout, tree, held⟩ := joinNoted_reads (s := s) (c := c) (n := n) (rest := rest)
  have group := joinNoted_groupLength (rest := rest) hc hn ne fresh
  have own := joinNoted_effective (rest := rest) hc hn ne n
  have total : (joinNoted c n rest s).joinLength c n a.track = len := by
    unfold State.joinLength
    rw [layout, group, own, hlen]
  have sent := rerouted_rehumped (n := n) (rest := rest) s ne hc ht a.track
  rw [joinCut_rehumped hc hq ne ht ha goes] at hl ⊢
  have track : ∀ y, (followCut s c (redoClaims c (rehumpGroup c n a.track (joinNoted c n rest s)))).track y = { s.track y with
      committed := (s.track y).committed - (if (if a.track = defaultTrack s.layout then none else some a.track) = some y then s.groupLength c else 0)
        + if defaultTrack s.layout = y then len else 0 } := fun y => by
    rw [followCut_tracks, rehumpGroup_track, joinNoted_track, layout, total, group, own, Nat.add_sub_cancel]
  rw [total] at sent
  generalize followCut s c (redoClaims c (rehumpGroup c n a.track (joinNoted c n rest s))) = t at *
  obtain ⟨assigned, marks, claims, chosen⟩ := rerouted_read hl sent
  refine ⟨assigned, fun j hj => ?_, ⟨?_, marks⟩, fun differ => ?_, fun y hy hy' => ?_, claims, chosen⟩
  · obtain ⟨q, hq', joined⟩ := (isIn_iff s).mp (mem_joinedFollowers.mp hj).1
    have jc : j ≠ c := by
      rintro rfl
      exact not_mem_joinedFollowers ((isInTree_iff s).mpr ⟨l, hc, ht⟩) hj
    have jn : j ≠ n := by
      rintro rfl
      obtain ⟨l₀, hl₀, member⟩ := (mem_joinedFollowers.mp hj).2
      exact fresh (Option.some.inj (hc.symm.trans hl₀) ▸ member)
    have on : j ∈ (joinNoted c n rest s).joinedFollowers c := by
      rw [joinNoted_joinedFollowers hc hn ne fresh]
      exact List.mem_append_left _ hj
    refine ⟨_, sent.followers j on q ((joinNoted_record_other jc jn).trans hq'), ?_, ?_⟩ <;> rw [Record.changed_eq]
    · exact joined
    · exact assigned.symm
  · refine (congrArg TrackEntry.committed (track _)).trans ?_
    by_cases e : a.track = defaultTrack s.layout <;> simp [e]
  · refine (congrArg TrackEntry.committed (track _)).trans ?_
    simp [differ, Ne.symm differ]
  · rw [track]
    by_cases e : a.track = defaultTrack s.layout <;> simp [e, Ne.symm hy, Ne.symm hy']

include hn hl in
/-- A crest cut that waits for its track goes to the default track under REHUMP (R57). -/
theorem joinCut_spec_assigned (fresh : n ∉ l.followers) (waiting : l.assigned = none) (policy : joinPolicy s.layout = 2) :
    l'.assigned = some { track := defaultTrack s.layout, reason := .defaultJoin }
      ∧ ((joinCut c n s).track (defaultTrack s.layout)).committed
          = (s.track (defaultTrack s.layout)).committed + (s.groupLength c + s.effective n)
      ∧ (∀ y, y ≠ defaultTrack s.layout → (joinCut c n s).track y = s.track y)
      ∧ l'.marks = (if s.canTake (defaultTrack s.layout) (s.groupLength c + s.effective n) = true then l.marks else l.marks ||| 0x100)
      ∧ s.ClaimsOn (joinCut c n s) l (defaultTrack s.layout)
      ∧ (l.state = .releasing ∨ l.state = .rolling → (joinCut c n s).WatchChosen l') := by
  have group := joinNoted_groupLength (rest := rest) hc hn ne fresh
  have none_ : (joinNoted c n rest s).assignedTrack c = none := by
    simp [State.assignedTrack, joinNoted_record_crest hc ne, (withFollower_changed n l).2.2.2.1, waiting]
  have sent := rerouted_assigned (n := n) (rest := rest) s ne hc ht waiting
  rw [joinCut_assigned hc hq ne ht waiting policy] at hl ⊢
  have track : ∀ y, (followCut s c (redoClaims c (reassign c (defaultTrack s.layout) .defaultJoin (joinNoted c n rest s)))).track y
      = { s.track y with committed := (s.track y).committed + if defaultTrack s.layout = y then s.groupLength c + s.effective n else 0 } :=
    fun y => by
      rw [followCut_tracks, reassign_track _ (by rw [none_]; exact nofun), none_, joinNoted_track, group]
      rfl
  rw [group] at sent
  generalize followCut s c (redoClaims c (reassign c (defaultTrack s.layout) .defaultJoin (joinNoted c n rest s))) = t at *
  obtain ⟨assigned, marks, claims, chosen⟩ := rerouted_read hl sent
  refine ⟨assigned, ?_, fun y hy => ?_, marks, claims, chosen⟩
  · exact (congrArg TrackEntry.committed (track _)).trans (by simp)
  · rw [track]
    simp [Ne.symm hy]

end

/-- A follower of a crest cut that is LOST is LOST (R58). -/
theorem joinCut_spec_lost (hn : s.record n = some f) (lost : l.state = .lost) {f' : Record} (hf' : (joinCut c n s).record n = some f') :
    f'.state = .lost ∧ f'.lostReason = some .leaderLost ∧ latched .lost (joinCut c n s) = true := by
  have eq := joinCut_gone hc hq ne (by rw [lost]; rfl)
  rw [lost] at eq
  rw [eq] at hf' ⊢
  have gone := (record_changeRecord_same (joinNoted c n rest s) n (Record.lose .leaderLost) fun _ => rfl).trans
    (congrArg _ (joinNoted_record_head hn ne))
  obtain rfl := Option.some.inj (hf'.symm.trans gone)
  obtain ⟨state, why⟩ := lose_state .leaderLost (Record.changed (Record.joinedTo s c) f)
  refine ⟨state, why, ?_⟩
  rw [latched_latch]
  exact Bool.or_true _

/-- A follower of a crest cut that has SETTLED is SETTLED on its outcome (R58). -/
theorem joinCut_spec_settled (hn : s.record n = some f) (settled : l.state = .settled) {x : Nat} (outcome : l.outcome = some x) {f' : Record}
    (hf' : (joinCut c n s).record n = some f') : f'.state = .settled ∧ f'.outcome = some x := by
  have eq := joinCut_gone hc hq ne (by rw [settled]; rfl)
  rw [settled, outcome] at eq
  rw [eq] at hf'
  have gone := (record_changeRecord_same (joinNoted c n rest s) n (Record.settle x) fun _ => rfl).trans
    (congrArg _ (joinNoted_record_head hn ne))
  obtain rfl := Option.some.inj (hf'.symm.trans gone)
  exact settle_state x _

/-- A join to a crest cut out of the tree touches no length, claim or point (R58). -/
theorem joinCut_spec_gone (out : l.state = .lost ∨ l.state = .settled) (hl : (joinCut c n s).record c = some l') :
    l'.assigned = l.assigned ∧ (joinCut c n s).tracks = s.tracks ∧ (joinCut c n s).claims = s.claims ∧ (joinCut c n s).points = s.points := by
  have eq := joinCut_gone hc hq ne (by rcases out with e | e <;> rw [e] <;> rfl)
  have gone : ∃ g : Record → Record, (∀ q, (g q).number = q.number) ∧ (joinCut c n s = latch .lost (changeRecord n g (joinNoted c n rest s))
      ∨ joinCut c n s = changeRecord n g (joinNoted c n rest s)) := by
    rcases out with e | e <;> rw [e] at eq
    · exact ⟨Record.lose .leaderLost, fun _ => rfl, .inl eq⟩
    · exact ⟨Record.settle (l.outcome.getD 0), fun _ => rfl, .inr eq⟩
  obtain ⟨g, number, gone⟩ := gone
  have record : (joinCut c n s).record c = (changeRecord n g (joinNoted c n rest s)).record c := by
    rcases gone with e | e <;> rw [e]
    rfl
  rw [record_changeRecord_other _ g number ne, joinNoted_record_crest hc ne] at record
  obtain rfl := Option.some.inj (hl.symm.trans record)
  refine ⟨(withFollower_changed n l).2.2.2.1, ?_⟩
  have only := changeRecord_only (joinNoted c n rest s) n g
  unfold RecordsOnly at only
  rcases gone with e | e <;> rw [e, only, joinNoted_only]
  · exact ⟨rfl, rfl, rfl⟩
  · exact ⟨rfl, rfl, rfl⟩

end

end

/-- The board with the separation timer restarted by a pulse (R49). -/
def pulsed (s : State) : State := { s with separation := some (later s.clock (separationGap s.layout)) }

theorem exec_pulse {s : State} (hs : s.runState ≠ .halted) : exec .axlePulse s = .next (finish (match s.crest with
    | .idle => firstAxle (pulsed s)
    | .counting => countPulse (pulsed s))) := by
  rw [exec_axlePulse, if_pos (supervised_of_ne hs)]
  rfl

theorem joinPair_eq {s : State} {c n : Nat} {rest : List Nat} {l : Record} (hs : s.runState = .running) (crest : s.crestCut = some c)
    (hq : s.queue = n :: rest) (hc : s.record c = some l) (room : l.followers.length < 3) : joinPair s = some (c, n) := by
  unfold joinPair
  rw [crest, hq]
  dsimp only
  rw [hc]
  exact if_pos ⟨hs, room⟩

/-- A pulse past the declared axles of the counting target is a join, where one is possible (R54). -/
theorem countPulse_join {s : State} {c m n d : Nat} {k : Record} (target : s.target = some m) (hm : s.record m = some k)
    (axles : k.declaredAxles = some d) (full : d ≤ k.measuredAxles) (pair : joinPair s = some (c, n)) : countPulse s = joinCut c n s := by
  unfold countPulse
  rw [target]
  dsimp only
  rw [hm]
  dsimp only
  rw [axles]
  dsimp only
  rw [if_neg (Nat.not_lt.mpr full), pair]

/-- Settles O48: a join keeps what `JoinKept` says, and each case of the crest cut is one of the lemmas above. -/
theorem joinsUnderLeader : Obligations.JoinsUnderLeader := by
  intro s c m n d rest l k f hs counting crest target hq hc hm hn hf nc _ axles full room fresh road goes
  have exec_ := exec_pulse (s := s) (by rw [hs]; exact nofun)
  rw [counting] at exec_
  dsimp only at exec_
  rw [countPulse_join (s := pulsed s) target hm axles full (joinPair_eq (s := pulsed s) hs crest hq hc room)] at exec_
  have ne : c ≠ n := Ne.symm nc
  obtain ⟨⟨l', hl, leads, f', hf', joins, together⟩, replans⟩ := joinCut_kept (s := pulsed s) (rest := rest) hq hc hn ne hf fresh
  have committed := fun {a : Assignment} => joinCut_spec_committed (s := pulsed s) (a := a) hq hc hn ne hl
  have waiting := joinCut_spec_waiting (s := pulsed s) hq hc ne hl
  have rehumped := fun {a : Assignment} => joinCut_spec_rehumped (s := pulsed s) (a := a) hq hc hn ne hl
  have assigned := joinCut_spec_assigned (s := pulsed s) hq hc hn ne hl
  have lost := fun e => joinCut_spec_lost (s := pulsed s) hq hc ne hn e hf'
  have settled := fun {x : Nat} e o => joinCut_spec_settled (s := pulsed s) (x := x) hq hc ne hn e o hf'
  have gone := fun e => joinCut_spec_gone (s := pulsed s) hq hc ne e hl
  have latched_ := replans.flagsStay _ (joinNoted_latched (s := pulsed s) (c := c) (n := n) (rest := rest))
  have frame := replans.frame
  rw [joinNoted_only] at frame
  generalize joinCut c n (pulsed s) = t at *
  refine ⟨finish t, l', f', exec_, hf', hl, joins, leads, ⟨?_, ?_, ?_, ?_, ?_⟩, latched_, together,
    fun a ht ha st => committed ht ha st, fun ht w p => waiting ht w p, fun a ht ha g => rehumped ht fresh ha g _ rfl,
    fun ht w p => assigned ht fresh w p, fun e => lost e, fun x e o => settled e o, fun e => gone e, ?_⟩
  · show t.queue = rest
    rw [frame]
  · show t.target = some n
    rw [frame]
  · show t.crestCut = some c
    rw [frame]
    exact crest
  · show t.seqCounter = s.seqCounter + 1
    rw [frame]
    rfl
  · show t.inTree = s.inTree
    rw [frame]
    rfl
  · rw [frame]
    rfl

end Sys2Proof.Machine
end

section
/-! First axles: what a release makes of the board, and where the RUN flag comes from (R22, R50 to R53, R61, R73). -/

namespace Sys2Proof.Machine

/-! ### The RUN flag -/

/-- The RUN flag is as it was. -/
def RunStays (s t : State) : Prop := latched .run t = latched .run s

section
variable {s t u : State}

theorem RunStays.refl (s : State) : RunStays s s := rfl

theorem RunStays.trans (h : RunStays s t) (k : RunStays t u) : RunStays s u := Eq.trans k h

theorem RunStays.of_flags (h : t.flags = s.flags) : RunStays s t := by
  unfold RunStays latched
  rw [h]

theorem RunStays.foldl {β : Type} (f : State → β → State) (h : ∀ s b, RunStays s (f s b)) (l : List β) (s : State) : RunStays s (l.foldl f s) := by
  induction l generalizing s with
  | nil => exact .refl s
  | cons b l ih => exact (h s b).trans (ih _)

theorem latchIf_run (s : State) (b : Bool) {c : Cause} (hc : c ≠ .run) : RunStays s (latchIf b c s) := by
  unfold RunStays
  rw [latched_latchIf, decide_eq_false hc, Bool.and_false, Bool.or_false]

theorem latch_run (s : State) {c : Cause} (hc : c ≠ .run) : RunStays s (latch c s) := latchIf_run s true hc

theorem changeRecord_run (s : State) (n : Nat) (f : Record → Record) : RunStays s (changeRecord n f s) :=
  (RunStays.of_flags (s := s)
    (t := { s with records := s.records.map (fun r => if r.number = n then Record.changed f r else r) }) rfl).trans (latchIf_run _ _ nofun)

theorem changeTrack_run (s : State) (x : Nat) (f : TrackEntry → TrackEntry) : RunStays s (changeTrack x f s) :=
  (RunStays.of_flags (s := s) (t := { s with tracks := Table.write TrackEntry.initial s.tracks x (f (s.track x)) }) rfl).trans
    (latchIf_run _ _ nofun)

theorem addMarkIf_run (s : State) (b : Bool) (m : Mark) (n : Nat) : RunStays s (addMarkIf b m n s) := by
  cases b
  · exact .refl s
  · exact changeRecord_run s n _

theorem releaseFrom_run (s : State) (x : Option Nat) (len : Nat) : RunStays s (releaseFrom x len s) := by
  cases x with
  | none => exact .refl s
  | some x => exact changeTrack_run s x fun e => { e with committed := e.committed - len }

theorem setAssignment_run (s : State) (n : Nat) (a : Assignment) : RunStays s (setAssignment n a s) :=
  .foldl (fun s k => changeRecord k (Record.assign a) s) (fun s k => changeRecord_run s k _) _ s

theorem reassign_run (s : State) (n x : Nat) (why : AssignReason) : RunStays s (reassign n x why s) := by
  unfold reassign
  split
  · exact setAssignment_run s n _
  · exact (((setAssignment_run s n _).trans (releaseFrom_run _ _ _)).trans (changeTrack_run _ _ _)).trans (addMarkIf_run _ _ _ n)

theorem claimOnRoute_run (s : State) (n : Nat) (r : Record) (pb : Nat × Position) : RunStays s (claimOnRoute n r s pb) := by
  unfold claimOnRoute
  split
  · exact .of_flags rfl
  · split
    · exact .of_flags rfl
    · exact .refl s

theorem redoClaims_run (s : State) (n : Nat) : RunStays s (redoClaims n s) := by
  unfold redoClaims
  split
  · exact .refl s
  · split
    · exact .refl s
    · refine RunStays.trans (RunStays.trans ?_ (changeRecord_run _ n _)) (.foldl _ (fun s pb => claimOnRoute_run s n _ pb) _ _)
      exact .foldl (fun s p => setClaims p ((s.claimsAt p).filter (fun c => c.cut != n)) s) (fun _ _ => .of_flags rfl) _ s

theorem throwDecision_run (s : State) (p : Nat) : RunStays s (throwDecision p s) := by
  unfold throwDecision
  split
  · exact .of_flags rfl
  · exact .refl s

theorem chooseWatch_run (s : State) (k : Nat) : RunStays s (chooseWatch k s) := by
  unfold chooseWatch
  split
  · exact .refl s
  · split
    · rename_i r _ _
      refine (changeRecord_run s k (Record.watching s (s.watchPoint r))).trans (.of_flags ?_)
      rcases expireAtOnce_eq (changeRecord k (Record.watching s (s.watchPoint r)) s) k with h | h <;> rw [h]
    · exact .refl s

theorem followUp_run (s old : State) (ps cs : List Nat) : RunStays s (followUp old ps cs s) :=
  (RunStays.foldl _ throwDecision_run _ _).trans (.foldl _ chooseWatch_run _ _)

end

/-! ### A release (R52, R53) -/

/-- The board once a cut has been released, before its track is settled (R52). -/
def released (n : Nat) (s : State) : State := joinTree (nextSequence (changeRecord n (Record.released s) s))

section
variable {s : State} {n : Nat} {r : Record}

theorem releaseCut_room (old : State) (hr : s.record n = some r) (room : s.inTree < 24) :
    releaseCut old n s = followCut old n (redoClaims n (assignAtRelease n r (released n s))) := by
  unfold releaseCut
  rw [hr]
  exact if_pos room

theorem releaseCut_full (old : State) (hr : s.record n = some r) (full : 24 ≤ s.inTree) :
    releaseCut old n s = latch .lost (nextSequence (changeRecord n (Record.overloaded s) s)) := by
  unfold releaseCut
  rw [hr]
  exact if_neg (Nat.not_lt.mpr full)

theorem released_record (hr : s.record n = some r) : (released n s).record n = some (Record.changed (Record.released s) r) := by
  refine (record_changeRecord_same s n (Record.released s) fun _ => rfl).trans ?_
  rw [hr]
  rfl

theorem overloaded_record (hr : s.record n = some r) (hs : r.state ≠ .lost) :
    (changeRecord n (Record.overloaded s) s).record n = some { Record.overloaded s r with unseen := true } := by
  refine (record_changeRecord_same s n (Record.overloaded s) fun _ => rfl).trans ?_
  rw [hr, Option.map_some, Record.changed_of_ne (withState_shown (Ne.symm hs))]

/-- What a release changes of the board before its track is settled. -/
theorem released_frame (n : Nat) (s : State) : released n s = { s with
    records := (released n s).records, flags := (released n s).flags, seqCounter := s.seqCounter + 1, inTree := s.inTree + 1 } := by
  have only := changeRecord_only s n (Record.released s)
  unfold RecordsOnly at only
  unfold released
  rw [only]
  rfl

theorem released_run (n : Nat) (s : State) : RunStays s (released n s) := (changeRecord_run s n (Record.released s)).trans (.of_flags rfl)

theorem followCut_run (old s : State) (n : Nat) : RunStays s (followCut old n s) := followUp_run s old (s.headClaimPoints n) [n]

/-- The board once a listed cut that asks for no track has been released: it waits for its track (R73). -/
theorem releaseCut_open (old : State) (hr : s.record n = some r) (room : s.inTree < 24) (listed : r.origin = .listed)
    (requested : r.requested = none) (unassigned : r.assigned = none) :
    releaseCut old n s = followCut old n (latch .needsTrack (released n s)) := by
  have waiting : (latch .needsTrack (released n s)).record n = some (Record.changed (Record.released s) r) := released_record hr
  have none_ : (Record.changed (Record.released s) r).assigned = none := by
    rw [Record.changed_eq]
    exact unassigned
  rw [releaseCut_room old hr room]
  unfold assignAtRelease
  rw [listed, requested]
  dsimp only
  congr 1
  unfold redoClaims
  rw [waiting]
  dsimp only
  rw [none_]

/-- An unlisted cut is released on the default track (R51). -/
theorem releaseCut_unlisted (old : State) (hr : s.record n = some r) (room : s.inTree < 24) (unlisted : r.origin ≠ .listed)
    (unassigned : r.assigned = none) :
    releaseCut old n s = followCut old n (redoClaims n (reassign n (defaultTrack s.layout) .defaultUnlisted (released n s))) := by
  have none_ : (released n s).assignedTrack n = none := by
    unfold State.assignedTrack
    rw [released_record hr, Record.changed_eq]
    show Option.map Assignment.track r.assigned = none
    rw [unassigned]
    rfl
  have layout : (released n s).layout = s.layout := by
    rw [released_frame]
    rfl
  rw [releaseCut_room old hr room, ← assignTrack_eq _ none_]
  unfold assignAtRelease
  cases origin : r.origin with
  | listed => exact absurd origin unlisted
  | noList => dsimp only; rw [layout]
  | standbyRelease => dsimp only; rw [layout]
  | remnant p => dsimp only; rw [layout]

end

end Sys2Proof.Machine
end

section
/-! The first axles of a group that are not of a listed cut with a track, and the obligation over them (R50 to R53, R61, R73). -/

namespace Sys2Proof.Machine

section
variable {s : State}

/-! ### Which group begins (R50) -/

theorem firstAxle_listed {n : Nat} {rest : List Nat} (hs : s.runState = .running) (due : s.remnantDue = none) (hq : s.queue = n :: rest) :
    firstAxle s = startGroup (some n) (releaseCut s n { s with queue := rest }) := by
  have unlatched : latchIf (s.runState == .standby) .run s = s := by
    rw [hs]
    rfl
  unfold firstAxle
  rw [unlatched]
  dsimp only
  rw [due]
  dsimp only
  rw [if_neg (by rw [hs]; exact nofun), hq]

/-- The board as an unlisted group begins: in STANDBY the RUN flag latches, and a remnant due is cleared (R50, R61). -/
def beforeUnlisted (s : State) : State := { latchIf (s.runState == .standby) .run s with remnantDue := none }

/-- A group that is not of the queue head begins with this origin (R50). -/
def State.Unlisted (s : State) (o : Origin) : Prop :=
  s.remnantDue.map Origin.remnant = some o ∧ s.runState ≠ .halted
    ∨ s.remnantDue = none ∧ s.runState = .standby ∧ o = .standbyRelease
    ∨ s.remnantDue = none ∧ s.runState = .running ∧ s.queue = [] ∧ o = .noList

theorem State.Unlisted.awake {o : Origin} (h : s.Unlisted o) : s.runState ≠ .halted := by
  rcases h with ⟨-, e⟩ | ⟨-, e, -⟩ | ⟨-, e, -⟩
  · exact e
  · rw [e]; exact nofun
  · rw [e]; exact nofun

theorem State.Unlisted.origin {o : Origin} (h : s.Unlisted o) : o ≠ .listed := by
  rcases h with ⟨e, -⟩ | ⟨-, -, rfl⟩ | ⟨-, -, -, rfl⟩
  · obtain ⟨p, -, rfl⟩ := Option.map_eq_some_iff.mp e
    exact nofun
  · exact nofun
  · exact nofun

theorem firstAxle_unlisted {o : Origin} (h : s.Unlisted o) : firstAxle s = releaseUnlisted s o (beforeUnlisted s) := by
  have cleared : s.remnantDue = none → beforeUnlisted s = latchIf (s.runState == .standby) .run s := fun e => by
    unfold beforeUnlisted latchIf latch
    split <;> rw [← e]
  unfold firstAxle
  dsimp only
  rw [latchIf_remnantDue]
  rcases h with ⟨e, -⟩ | ⟨e, hs, rfl⟩ | ⟨e, hs, hq, rfl⟩
  · obtain ⟨p, hp, rfl⟩ := Option.map_eq_some_iff.mp e
    rw [hp]
    rfl
  · rw [cleared e, e]
    exact if_pos ((latchIf_runState ..).trans hs)
  · rw [cleared e, e]
    dsimp only
    rw [if_neg (by rw [latchIf_runState, hs]; exact nofun), latchIf_queue, hq]

theorem beforeUnlisted_run : latched .run (beforeUnlisted s) = true ↔ s.runState = .standby ∨ latched .run s = true := by
  show latched .run (latchIf (s.runState == .standby) .run s) = true ↔ _
  rw [latched_latchIf]
  simp [or_comm]

theorem beforeUnlisted_frame : beforeUnlisted s = { s with
    flags := s.flags ||| (if s.runState = .standby then 0x200 else 0), remnantDue := none } := by
  unfold beforeUnlisted
  by_cases h : s.runState = .standby
  · rw [if_pos h, beq_iff_eq.mpr h]
    rfl
  · have other : (s.runState == .standby) = false := beq_false_of_ne h
    rw [if_neg h, other]
    simp [latchIf]

theorem beforeUnlisted_reads : (beforeUnlisted s).tracks = s.tracks ∧ (beforeUnlisted s).layout = s.layout
    ∧ (beforeUnlisted s).seqCounter = s.seqCounter ∧ (beforeUnlisted s).queue = s.queue ∧ (beforeUnlisted s).inTree = s.inTree := by
  rw [beforeUnlisted_frame]
  exact ⟨rfl, rfl, rfl, rfl, rfl⟩

/-- The slots, the numbers carried and the unlisted counter stand as an unlisted group begins. -/
theorem beforeUnlisted_numbers : (beforeUnlisted s).records = s.records ∧ (beforeUnlisted s).unlistedCounter = s.unlistedCounter
    ∧ ∀ m, (beforeUnlisted s).record m = s.record m := by
  rw [beforeUnlisted_frame]
  exact ⟨rfl, rfl, fun _ => rfl⟩

/-! ### The number of an unlisted record (R22) -/

/-- The number an unlisted record takes is the first one free from the counter on. -/
theorem nextUnlisted_eq {k : Nat} (room : s.records.length < 48) (low : 61440 ≤ s.unlistedCounter) (high : s.unlistedCounter ≤ 65535)
    (carried : ∀ j, j < k → (s.record (unlistedFrom s.unlistedCounter j)).isSome = true)
    (free : s.record (unlistedFrom s.unlistedCounter k) = none) : s.nextUnlisted = unlistedFrom s.unlistedCounter k := by
  obtain ⟨i, within, free'⟩ := exists_free s (Nat.le_of_lt room) s.unlistedCounter
  have first : k ≤ i := Nat.le_of_not_lt fun h => by
    have := carried i h
    rw [free'] at this
    cases this
  exact freeNumber_eq s ⟨low, high⟩ carried free (by omega)

/-! ### An unlisted record and its release (R51, R52, R53) -/

/-- The board with an unlisted record created (R51). -/
def withUnlisted (n : Nat) (o : Origin) (s : State) : State := addRecord (unlistedRecord n o s) { s with unlistedCounter := afterUnlisted n }

theorem withUnlisted_record {n : Nat} (o : Origin) (free : s.record n = none) : (withUnlisted n o s).record n = some (unlistedRecord n o s) := by
  unfold withUnlisted
  rw [record_addRecord]
  show (s.record n).or _ = _
  rw [free]
  exact if_pos rfl

theorem withUnlisted_run (n : Nat) (o : Origin) (s : State) : RunStays s (withUnlisted n o s) :=
  (RunStays.of_flags (s := s)
    (t := { s with unlistedCounter := afterUnlisted n, records := s.records ++ [{ unlistedRecord n o s with unseen := true }] }) rfl).trans
    (latch_run _ nofun)

theorem releaseUnlisted_room {n : Nat} (old : State) (o : Origin) (room : s.records.length < 48) (number : s.nextUnlisted = n) :
    releaseUnlisted old o s = startGroup (some n) (releaseCut old n (withUnlisted n o s)) := by
  subst number
  have free : s.freeSlots ≠ 0 := Nat.sub_ne_zero_of_lt room
  unfold releaseUnlisted
  rw [if_neg free]
  rfl

theorem releaseUnlisted_none (old : State) (o : Origin) (full : 48 ≤ s.records.length) :
    releaseUnlisted old o s = startGroup none (latch .crest s) := by
  have none_ : s.freeSlots = 0 := Nat.sub_eq_zero_of_le full
  unfold releaseUnlisted
  rw [if_pos none_]

/-- A release number and an unlisted number have been taken, and the in-tree count has risen by `k`; queue, remnant due and RUN flag stand. -/
structure UnlistedTaken (n k : Nat) (s t : State) : Prop where
  sequence : t.seqCounter = s.seqCounter + 1
  counter : t.unlistedCounter = afterUnlisted n
  inTree : t.inTree = s.inTree + k
  queue : t.queue = s.queue
  remnant : t.remnantDue = s.remnantDue
  run : RunStays s t

theorem unlistedTaken_released {n : Nat} (o : Origin) {t : State} (h : Replans n (released n (withUnlisted n o s)) t)
    (run : RunStays s t) : UnlistedTaken n 1 s t := by
  have before := released_frame n (withUnlisted n o s)
  refine ⟨?_, ?_, ?_, ?_, ?_, run⟩
  all_goals
    rw [h.frame, before]
    rfl

theorem unlistedTaken_overloaded {n : Nat} (o : Origin) :
    UnlistedTaken n 0 s (latch .lost (nextSequence (changeRecord n (Record.overloaded (withUnlisted n o s)) (withUnlisted n o s)))) := by
  have only := changeRecord_only (withUnlisted n o s) n (Record.overloaded (withUnlisted n o s))
  unfold RecordsOnly at only
  refine ⟨?_, ?_, ?_, ?_, ?_,
    ((withUnlisted_run n o s).trans ((changeRecord_run _ n (Record.overloaded (withUnlisted n o s))).trans (.of_flags rfl))).trans (latch_run _ nofun)⟩
  all_goals
    rw [only]
    rfl

/-- What a release of an unlisted record makes of it and of the tracks, where the tree has room (R51, R52). -/
theorem unlisted_released {n : Nat} {o : Origin} (old : State) (free : s.record n = none) (unlisted : o ≠ .listed) (room : s.inTree < 24) :
    ∃ u, (releaseCut old n (withUnlisted n o s)).record n = some u
      ∧ (u.origin = o ∧ u.measuredAxles = 1 ∧ u.declaredAxles = none ∧ u.releaseSeq = some s.seqCounter)
      ∧ (u.requested = some (defaultTrack s.layout) ∧ u.declaredLength = unlistedLength s.layout)
      ∧ (u.state = .releasing ∧ u.assigned = some { track := defaultTrack s.layout, reason := .defaultUnlisted })
      ∧ (∀ y, (releaseCut old n (withUnlisted n o s)).track y = { s.track y with
          committed := (s.track y).committed
            + if defaultTrack s.layout = y then unlistedLength s.layout + couplingAllowance s.layout else 0 })
      ∧ UnlistedTaken n 1 s (releaseCut old n (withUnlisted n o s)) := by
  have hr := withUnlisted_record o free
  have eq := releaseCut_unlisted old hr (show (withUnlisted n o s).inTree < 24 from room) (show (unlistedRecord n o s).origin ≠ .listed from unlisted) rfl
  have found := released_record hr
  have fields := Record.changed_eq (Record.released (withUnlisted n o s)) (unlistedRecord n o s)
  have none_ : (released n (withUnlisted n o s)).assignedTrack n = none := by
    unfold State.assignedTrack
    rw [found, fields]
    rfl
  have layout : (withUnlisted n o s).layout = s.layout := rfl
  have len : (released n (withUnlisted n o s)).groupLength n = unlistedLength s.layout + couplingAllowance s.layout := by
    have layout' : (released n (withUnlisted n o s)).layout = s.layout := by rw [released_frame]; rfl
    unfold State.groupLength State.joinedFollowers
    rw [found, fields]
    show ((n :: []).map _).sum = _
    rw [List.map_singleton, List.sum_singleton]
    unfold State.effective
    rw [found, layout', fields]
    rfl
  have tracks : ∀ y, (released n (withUnlisted n o s)).track y = s.track y := fun y => by rw [released_frame]; rfl
  rw [layout] at eq
  have ne : (released n (withUnlisted n o s)).assignedTrack n ≠ some (defaultTrack s.layout) := by rw [none_]; exact nofun
  have inTree : (Record.changed (Record.released (withUnlisted n o s)) (unlistedRecord n o s)).state.inTree = true := by rw [fields]; rfl
  have sent := groupSent old .defaultUnlisted found inTree ne
  have run : RunStays s (releaseCut old n (withUnlisted n o s)) := by
    rw [eq]
    exact ((withUnlisted_run n o s).trans (released_run n _)).trans ((reassign_run _ n (defaultTrack s.layout) .defaultUnlisted).trans
      ((redoClaims_run _ n).trans (followCut_run old _ n)))
  rw [← eq] at sent
  have track := sent.track
  rw [none_, len] at track
  obtain ⟨u, hu, cut, -⟩ := sent.cut
  rw [fields] at cut
  refine ⟨u, hu, ?_, ?_, ?_, fun y => ?_, unlistedTaken_released o sent.replans run⟩
  · rw [cut]
    exact ⟨rfl, rfl, rfl, rfl⟩
  · rw [cut]
    exact ⟨rfl, rfl⟩
  · rw [cut]
    exact ⟨rfl, rfl⟩
  · rw [track, tracks]
    rfl

/-- What the full tree makes of an unlisted record (R53). -/
theorem unlisted_overloaded {n : Nat} {o : Origin} (old : State) (free : s.record n = none) (full : 24 ≤ s.inTree) :
    (∃ u, (releaseCut old n (withUnlisted n o s)).record n = some u
      ∧ u = { unlistedRecord n o s with
          state := .lost, lostReason := some .overload, measuredAxles := 1, releaseSeq := some s.seqCounter, unseen := true })
      ∧ (releaseCut old n (withUnlisted n o s)).tracks = s.tracks ∧ latched .lost (releaseCut old n (withUnlisted n o s)) = true
      ∧ UnlistedTaken n 0 s (releaseCut old n (withUnlisted n o s)) := by
  have hr := withUnlisted_record o free
  rw [releaseCut_full old hr full]
  refine ⟨⟨_, overloaded_record hr nofun, rfl⟩, changeRecord_tracks .., ?_, unlistedTaken_overloaded o⟩
  rw [latched_latch]
  exact Bool.or_true _

end

end Sys2Proof.Machine
end

section
/-! The first axles that are not of a listed cut with a track: the obligation (R50 to R53, R61, R62, R73). -/

namespace Sys2Proof.Machine

section
variable {s : State} {n : Nat} {rest : List Nat} {r : Record}

/-- A pulse with the Crest Counter IDLE begins a group (R49, R50). -/
theorem exec_firstAxle (hs : s.runState ≠ .halted) (idle : s.crest = .idle) :
    exec .axlePulse s = .next (finish (firstAxle (pulsed s))) := by
  rw [exec_pulse hs, idle]

/-- A listed cut that asks for no track, released: its record, and what stands of the board (R52, R73, R130). -/
theorem openReleased (old : State) (hr : s.record n = some r) (room : s.inTree < 24) (listed : r.origin = .listed)
    (requested : r.requested = none) (unassigned : r.assigned = none) :
    ∃ u, (releaseCut old n s).record n = some u ∧ u.state = .releasing ∧ u.assigned = none ∧ u.watch = s.tree.rootPoint
      ∧ (releaseCut old n s).WatchChosen u ∧ (∀ p, (releaseCut old n s).claimsAt p = s.claimsAt p)
      ∧ (releaseCut old n s).tracks = s.tracks ∧ latched .needsTrack (releaseCut old n s) = true
      ∧ Replans n (latch .needsTrack (released n s)) (releaseCut old n s) := by
  have fields := Record.changed_eq (Record.released s) r
  have waiting : (latch .needsTrack (released n s)).record n = some (Record.changed (Record.released s) r) := released_record hr
  obtain ⟨u, hu, agrees, chosen⟩ := followUp_record (latch .needsTrack (released n s)) old ((latch .needsTrack (released n s)).headClaimPoints n)
    (List.mem_singleton.mpr rfl) waiting
  have replans := followUp_replans (latch .needsTrack (released n s)) n old ((latch .needsTrack (released n s)).headClaimPoints n) [n]
  obtain ⟨claims, tracks⟩ := followUp_claims (latch .needsTrack (released n s)) old ((latch .needsTrack (released n s)).headClaimPoints n) [n]
  have frame := released_frame n s
  have state : u.state = .releasing := by rw [agrees, fields]; rfl
  have none_ : u.assigned = none := by rw [agrees, fields]; exact unassigned
  have cause : latched .needsTrack (latch .needsTrack (released n s)) = true := by
    rw [latched_latch]
    exact Bool.or_true _
  have tree : (latch .needsTrack (released n s)).tree = s.tree := by
    show (released n s).tree = s.tree
    rw [frame]
  have claims' : (latch .needsTrack (released n s)).claims = s.claims := by
    show (released n s).claims = s.claims
    rw [frame]
  have tracks' : (latch .needsTrack (released n s)).tracks = s.tracks := by
    show (released n s).tracks = s.tracks
    rw [frame]
  rw [releaseCut_open old hr room listed requested unassigned]
  unfold followCut
  generalize latch .needsTrack (released n s) = v at *
  generalize followUp old (v.headClaimPoints n) [n] v = t at *
  have watched := chosen (.inl (by rw [fields]; rfl))
  refine ⟨u, hu, state, none_, ?_, watched, fun p => ?_, tracks.trans tracks', replans.latched cause, replans⟩
  · have at_ := watched.1 none_
    rw [replans.reads.2, tree] at at_
    cases root : s.tree.rootPoint <;> rw [root] at at_ <;> exact at_.1
  · unfold State.claimsAt
    rw [claims, claims']

end

/-- Settles O46: the releases are `openReleased`, `unlisted_released`, `unlisted_overloaded` and `overloaded_record`. -/
theorem otherFirstAxles : Obligations.OtherFirstAxles := by
  refine ⟨fun s n rest r hs idle due hq hr listed requested unassigned room => ?_, ?_, fun s n rest r hs idle due hq hr pending full => ?_⟩
  · have exec_ := exec_firstAxle (s := s) (by rw [hs]; exact nofun) idle
    rw [firstAxle_listed (s := pulsed s) hs due hq] at exec_
    obtain ⟨u, hu, state, none_, watch, chosen, claims, tracks, flag, replans⟩ :=
      openReleased (s := { pulsed s with queue := rest }) (pulsed s) hr room listed requested unassigned
    have frame := replans.frame
    have before := released_frame n { pulsed s with queue := rest }
    generalize releaseCut (pulsed s) n { pulsed s with queue := rest } = t at *
    refine ⟨finish (startGroup (some n) t), u, exec_, hu, state, none_, watch, chosen, claims, tracks, flag, rfl, rfl, ?_, ?_⟩
    · show t.queue = rest
      rw [frame]
      show (released n _).queue = rest
      rw [before]
    · show t.inTree = s.inTree + 1
      rw [frame]
      show (released n _).inTree = s.inTree + 1
      rw [before]
      rfl
  · intro s o idle unlisted road number
    have numbers : ∀ k, unlistedFrom s.unlistedCounter k = number k := fun k => by
      have first : Config.firstUnlisted = 61440 := rfl
      simp only [unlistedFrom, first, number]
    have unlisted' : (pulsed s).Unlisted o := unlisted
    have exec_ := exec_firstAxle (s := s) unlisted'.awake idle
    rw [firstAxle_unlisted unlisted'] at exec_
    refine ⟨fun k room low high carried free => ?_, fun full => ?_⟩
    · obtain ⟨records, counter, record⟩ := beforeUnlisted_numbers (s := pulsed s)
      obtain ⟨tracks, layout, sequence, queue, count⟩ := beforeUnlisted_reads (s := pulsed s)
      have run := beforeUnlisted_run (s := pulsed s)
      have cleared : (beforeUnlisted (pulsed s)).remnantDue = none := rfl
      have slot : (beforeUnlisted (pulsed s)).records.length < 48 := by rw [records]; exact room
      have numbered : (beforeUnlisted (pulsed s)).nextUnlisted = number k := by
        simp only [← numbers] at carried free
        have next := nextUnlisted_eq (k := k) slot (by rw [counter]; exact low) (by rw [counter]; exact high)
        simp only [counter, record] at next
        exact (next carried free).trans (numbers k)
      rw [releaseUnlisted_room (pulsed s) o slot numbered] at exec_
      have free' : (beforeUnlisted (pulsed s)).record (number k) = none := (record _).trans free
      generalize beforeUnlisted (pulsed s) = b at *
      by_cases open_ : s.inTree < 24
      · obtain ⟨u, hu, origin, fields, ⟨state, assigned⟩, track, taken⟩ :=
          unlisted_released (n := number k) (pulsed s) free' unlisted'.origin (by rw [count]; exact open_)
        generalize releaseCut (pulsed s) (number k) (withUnlisted (number k) o b) = t at *
        rw [layout] at fields assigned track
        rw [sequence] at origin
        have length : ∀ y, t.track y = { s.track y with
            committed := (s.track y).committed + if road = y then unlistedLength s.layout + couplingAllowance s.layout else 0 } := fun y => by
          rw [track, State.track, tracks]
          rfl
        refine ⟨finish (startGroup (some (number k)) t), u, exec_, hu, origin, fields, fun _ => ⟨state, assigned, ?_, ?_, fun y hy => ?_⟩,
          fun h => absurd open_ (Nat.not_lt.mpr h), ⟨rfl, rfl, rfl⟩, taken.counter, ⟨?_, ?_, ?_⟩, ?_⟩
        · exact taken.inTree.trans (congrArg (· + 1) count)
        · exact (congrArg TrackEntry.committed (length road)).trans (by simp)
        · exact (length y).trans (by simp [Ne.symm hy])
        · exact taken.sequence.trans (congrArg (· + 1) sequence)
        · exact taken.queue.trans queue
        · exact taken.remnant.trans cleared
        · show latched .run t = true ↔ _
          rw [taken.run]
          exact run
      · obtain ⟨⟨u, hu, cut⟩, kept, flag, taken⟩ :=
          unlisted_overloaded (n := number k) (o := o) (pulsed s) free' (by rw [count]; exact Nat.not_lt.mp open_)
        generalize releaseCut (pulsed s) (number k) (withUnlisted (number k) o b) = t at *
        rw [sequence] at cut
        refine ⟨finish (startGroup (some (number k)) t), u, exec_, hu, ?_, ?_, fun h => absurd h open_, fun _ => ⟨?_, ?_, ?_, ?_, ?_, flag⟩,
          ⟨rfl, rfl, rfl⟩, taken.counter, ⟨?_, ?_, ?_⟩, ?_⟩
        · rw [cut]
          exact ⟨rfl, rfl, rfl, rfl⟩
        · rw [cut]
          exact ⟨congrArg (fun m => some (defaultTrack m)) layout, congrArg unlistedLength layout⟩
        · rw [cut]
        · rw [cut]
        · rw [cut]
          rfl
        · exact taken.inTree.trans count
        · exact kept.trans tracks
        · exact taken.sequence.trans (congrArg (· + 1) sequence)
        · exact taken.queue.trans queue
        · exact taken.remnant.trans cleared
        · show latched .run t = true ↔ _
          rw [taken.run]
          exact run
    · rw [releaseUnlisted_none (pulsed s) o (by rw [beforeUnlisted_frame]; exact full), beforeUnlisted_frame] at exec_
      exact exec_
  · have exec_ := exec_firstAxle (s := s) (by rw [hs]; exact nofun) idle
    rw [firstAxle_listed (s := pulsed s) hs due hq, releaseCut_full (s := { pulsed s with queue := rest }) (pulsed s) hr full] at exec_
    have other : r.state ≠ .lost := by rw [pending]; exact nofun
    have record := overloaded_record (s := { pulsed s with queue := rest }) hr other
    have flag := latched_changeRecord (s := { pulsed s with queue := rest }) (n := n) hr (f := Record.overloaded { pulsed s with queue := rest })
      (withState_shown (Ne.symm other))
    have others := fun k hk => record_changeRecord_other { pulsed s with queue := rest } (n := n) (k := k)
      (Record.overloaded { pulsed s with queue := rest }) (fun _ => rfl) hk
    have only := changeRecord_only { pulsed s with queue := rest } n (Record.overloaded { pulsed s with queue := rest })
    unfold RecordsOnly at only
    generalize changeRecord n (Record.overloaded { pulsed s with queue := rest }) { pulsed s with queue := rest } = t at *
    refine ⟨_, _, exec_, record, rfl, others, ?_, ?_, ?_⟩
    · show latched .lost (latch .lost (nextSequence t)) = true
      rw [latched_latch]
      exact Bool.or_true _
    · show latched .cutChanged (latch .lost (nextSequence t)) = true
      rw [latched_latch]
      show (latched .cutChanged t || _) = true
      rw [flag]
      rfl
    · rw [only]
      rfl

end Sys2Proof.Machine
end

section
/-! What the throw decisions at the end of a change leave at a point where a claim has come to the head of the queue, read from before the change
(R116, R120, R136). -/

namespace Sys2Proof.Machine

/-! ### What a throw decision reads (R106 to R109, R119, R120) -/

/-- The run state, the clock, the field lines, the sections, the layout and its tree stand: what a throw decision reads beside the claims, the
records and the points. -/
structure SameGround (s t : State) : Prop where
  runState : t.runState = s.runState
  clock : t.clock = s.clock
  channels : t.channels = s.channels
  sections : t.sections = s.sections
  detections : t.detections = s.detections
  active : t.active = s.active
  tree : t.tree = s.tree

/-- The same cuts have records, and each record stands but for its watch. -/
def RecordsButWatch (s t : State) : Prop :=
  ∀ k, s.record k = none ∧ t.record k = none ∨ ∃ r w, s.record k = some r ∧ t.record k = some w ∧ w.AgreesButWatch r

section
variable {s t : State} {p : Nat}

theorem RecordsButWatch.of_records (h : t.records = s.records) : RecordsButWatch s t := fun k => by
  rw [record_congr h]
  cases s.record k with
  | none => exact .inl ⟨rfl, rfl⟩
  | some r => exact .inr ⟨r, r, rfl, rfl, rfl⟩

theorem SameGround.trans {u : State} (h : SameGround s t) (k : SameGround t u) : SameGround s u :=
  ⟨k.runState.trans h.runState, k.clock.trans h.clock, k.channels.trans h.channels, k.sections.trans h.sections,
    k.detections.trans h.detections, k.active.trans h.active, k.tree.trans h.tree⟩

theorem SameGround.symm (h : SameGround s t) : SameGround t s :=
  ⟨h.runState.symm, h.clock.symm, h.channels.symm, h.sections.symm, h.detections.symm, h.active.symm, h.tree.symm⟩

theorem Replans.ground {n : Nat} (h : Replans n s t) : SameGround s t := by
  rw [h.frame]
  exact ⟨rfl, rfl, rfl, rfl, rfl, rfl, rfl⟩

theorem SameGround.layout (h : SameGround s t) : t.layout = s.layout := by
  unfold State.layout
  rw [h.active]

theorem SameGround.detected (h : SameGround s t) (p : Nat) : t.detected p = s.detected p := by
  unfold State.detected State.pair
  rw [h.layout, h.detections]

theorem SameGround.shownState (h : SameGround s t) (x : Nat) : t.shownState x = s.shownState x := by
  unfold State.shownState State.sectionInput State.channel State.section
  rw [h.layout, h.channels, h.sections]

theorem SameGround.budget (h : SameGround s t) (point : t.point p = s.point p) : t.budget p = s.budget p := by
  unfold State.budget State.hasStood
  rw [h.layout, point]

theorem SameGround.lastMomentAt (h : SameGround s t) (point : t.point p = s.point p) {r w : Record} (agrees : w.AgreesButWatch r) :
    t.lastMomentAt w p = s.lastMomentAt r p := by
  have same : s.lastMomentAt w p = s.lastMomentAt r p := by
    unfold Record.AgreesButWatch at agrees
    rw [agrees]
    rfl
  rw [← same]
  unfold State.lastMomentAt State.deadline State.arrivalTime State.distance State.reckoningPath State.need
  rw [h.budget point, h.layout, h.tree]

theorem SameGround.throwWanted (h : SameGround s t) (claims : t.claimsAt p = s.claimsAt p) (point : t.point p = s.point p)
    (records : RecordsButWatch s t) : throwWanted p t = throwWanted p s := by
  unfold Machine.throwWanted
  rw [claims]
  cases s.claimsAt p with
  | nil => rfl
  | cons c rest =>
    dsimp only
    rcases records c.cut with ⟨hs, ht⟩ | ⟨r, w, hs, ht, agrees⟩
    · rw [hs, ht]
    · rw [hs, ht]
      dsimp only
      unfold State.supervised State.locked
      rw [h.runState, h.detected, point, h.layout, h.shownState, h.clock, h.lastMomentAt point agrees]

theorem SameGround.thrownEntry (h : SameGround s t) (point : t.point p = s.point p) (x : Position) : t.thrownEntry p x = s.thrownEntry p x := by
  unfold State.thrownEntry
  rw [point, h.clock, h.budget point]

theorem point_throwDecision (s : State) (p : Nat) : (throwDecision p s).point p = match throwWanted p s with
    | some x => s.thrownEntry p x
    | none => s.point p := by
  unfold throwDecision
  cases throwWanted p s with
  | some x => exact (point_changePoint p _ p).trans (if_pos rfl)
  | none => rfl

/-- What R120 says of the entry a point has after the decision is the entry that the decision gives it. -/
theorem decided_iff {e : PointEntry} : s.Decided p e ↔ e = (throwDecision p s).point p := by
  refine ⟨fun decided => ?_, fun h => h ▸ throwDecision_decided s p⟩
  obtain ⟨thrown, left⟩ := decided
  obtain ⟨thrown', left'⟩ := throwDecision_decided s p
  by_cases asked : ∃ c rest r, s.claimsAt p = c :: rest ∧ s.record c.cut = some r ∧ s.ThrowAsked p c r
  · obtain ⟨c, rest, r, hc, hr, asked⟩ := asked
    exact (thrown c rest r hc hr asked).trans (thrown' c rest r hc hr asked).symm
  · have none_ : ∀ c rest r, s.claimsAt p = c :: rest → s.record c.cut = some r → ¬ s.ThrowAsked p c r := fun c rest r hc hr h =>
      asked ⟨c, rest, r, hc, hr, h⟩
    exact (left none_).trans (left' none_).symm

/-- A throw decision is the same one, read from a board that differs in nothing it reads. -/
theorem SameGround.decided (h : SameGround s t) (claims : t.claimsAt p = s.claimsAt p) (point : t.point p = s.point p)
    (records : RecordsButWatch s t) {e : PointEntry} : t.Decided p e ↔ s.Decided p e := by
  rw [decided_iff, decided_iff, point_throwDecision, point_throwDecision, h.throwWanted claims point records, point]
  simp only [h.thrownEntry point]

/-! ### The throw decisions of a change (R120) -/

/-- A throw decision touches its own point alone. -/
theorem throwDecision_elsewhere (s : State) {p q : Nat} (ne : p ≠ q) : (throwDecision q s).point p = s.point p
    ∧ (throwDecision q s).claims = s.claims ∧ (throwDecision q s).records = s.records ∧ SameGround s (throwDecision q s) := by
  unfold throwDecision
  split
  · exact ⟨(point_changePoint q _ p).trans (if_neg ne), rfl, rfl, rfl, rfl, rfl, rfl, rfl, rfl, rfl⟩
  · exact ⟨rfl, rfl, rfl, rfl, rfl, rfl, rfl, rfl, rfl, rfl⟩

/-- Of throw decisions at some points, each once, every one is as it would be alone. -/
theorem throwDecisions_decided (s : State) {l : List Nat} (once : l.Nodup) :
    (p ∈ l → s.Decided p ((l.foldl (fun s p => throwDecision p s) s).point p))
      ∧ (p ∉ l → (l.foldl (fun s p => throwDecision p s) s).point p = s.point p) := by
  induction l generalizing s with
  | nil => exact ⟨nofun, fun _ => rfl⟩
  | cons q l ih =>
    obtain ⟨fresh, once⟩ := List.nodup_cons.mp once
    obtain ⟨decided, left⟩ := ih (throwDecision q s) once
    rw [List.foldl_cons]
    by_cases e : p = q
    · subst e
      refine ⟨fun _ => ?_, fun h => absurd (List.mem_cons_self ..) h⟩
      rw [left fresh]
      exact throwDecision_decided s p
    · obtain ⟨point, claims, records, ground⟩ := throwDecision_elsewhere s e
      have queue : (throwDecision q s).claimsAt p = s.claimsAt p := by
        unfold State.claimsAt
        rw [claims]
      refine ⟨fun h => ?_, fun h => ?_⟩
      · exact (ground.decided queue point (.of_records records)).mp (decided (List.mem_of_ne_of_mem e h))
      · rw [left fun m => h (List.mem_cons_of_mem _ m), point]

/-- No throw is asked for at a point that is not in use. -/
theorem decided_unused (unused : pointUsed s.layout p = false) : s.Decided p (s.point p) := by
  refine ⟨fun _ _ _ _ _ asked => ?_, fun _ => rfl⟩
  obtain ⟨-, used, -⟩ := asked
  rw [unused] at used
  cases used

/-- A change that calls for the throw decision at a point has it taken there. -/
theorem takeDecisions_decided {old : State} (ps : List Nat) (due : decisionDue old s p = true) :
    s.Decided p ((takeDecisions old ps s).point p) := by
  have once : (pointNumbers.filter (fun p => ps.contains p || decisionDue old s p)).Nodup := (List.nodup_range' ..).filter _
  obtain ⟨decided, left⟩ := throwDecisions_decided (p := p) s once
  by_cases used : pointUsed s.layout p = true
  · have numbered : p ∈ pointNumbers := List.mem_of_mem_filter (mem_usedPoints.mpr used)
    exact decided (List.mem_filter.mpr ⟨numbered, by rw [due, Bool.or_true]⟩)
  · have unused : pointUsed s.layout p = false := eq_false_of_ne_true used
    by_cases h : p ∈ pointNumbers.filter (fun p => ps.contains p || decisionDue old s p)
    · exact decided h
    · unfold takeDecisions
      rw [left h]
      exact decided_unused unused

theorem followUp_points (old : State) (ps cs : List Nat) : (followUp old ps cs s).points = (takeDecisions old ps s).points := by
  have watches : WatchOnly (takeDecisions old ps s) (followUp old ps cs s) := by
    unfold followUp takeWatches
    generalize (List.filter _ _) = l
    generalize takeDecisions old ps s = u
    induction l generalizing u with
    | nil => exact rfl
    | cons k l ih => exact (chooseWatch_watchOnly u k).trans (ih _)
  unfold WatchOnly at watches
  rw [watches]

theorem followUp_decided {old : State} (ps cs : List Nat) (due : decisionDue old s p = true) :
    s.Decided p ((followUp old ps cs s).point p) := by
  have decided := takeDecisions_decided ps due
  unfold State.point at decided ⊢
  rwa [followUp_points]

theorem followUp_recordsButWatch (old : State) (ps cs : List Nat) : RecordsButWatch s (followUp old ps cs s) := fun k => by
  cases hr : s.record k with
  | some r =>
    obtain ⟨w, hw, agrees⟩ := followUp_agrees old ps cs hr
    exact .inr ⟨r, w, rfl, hw, agrees⟩
  | none =>
    have numbers := followUp_numbers (s := s) old ps cs
    refine .inl ⟨rfl, ?_⟩
    cases hw : (followUp old ps cs s).record k with
    | none => rfl
    | some w =>
      have mem : k ∈ s.records.map Record.number := numbers ▸ List.mem_map.mpr ⟨w, record_mem _ hw, record_number _ hw⟩
      obtain ⟨r, hr', number⟩ := List.mem_map.mp mem
      exact absurd (List.find?_eq_none.mp hr r hr') (by simp [number])

end

end Sys2Proof.Machine
end

section
/-! The release of a listed cut with a track, and the obligation over it (R50, R52, R70, R72, R109, R114, R116, R119, R120, R122). -/

namespace Sys2Proof.Machine

/-! ### Unseen marks stay (R33) -/

/-- Each record marked unseen before is there and marked unseen after. -/
def UnseenStays (s t : State) : Prop := ∀ k r, s.record k = some r → r.unseen = true → ∃ w, t.record k = some w ∧ w.unseen = true

section
variable {s t u : State}

theorem UnseenStays.refl (s : State) : UnseenStays s s := fun _ r hr unseen => ⟨r, hr, unseen⟩

theorem UnseenStays.trans (h : UnseenStays s t) (k : UnseenStays t u) : UnseenStays s u := fun n r hr unseen => by
  obtain ⟨w, hw, unseen'⟩ := h n r hr unseen
  exact k n w hw unseen'

theorem UnseenStays.of_records (h : t.records = s.records) : UnseenStays s t := fun k r hr unseen =>
  ⟨r, (record_congr h k).trans hr, unseen⟩

theorem UnseenStays.foldl {β : Type} (f : State → β → State) (h : ∀ s b, UnseenStays s (f s b)) (l : List β) (s : State) :
    UnseenStays s (l.foldl f s) := by
  induction l generalizing s with
  | nil => exact .refl s
  | cons b l ih => exact (h s b).trans (ih _)

theorem changeRecord_unseen (s : State) (n : Nat) (f : Record → Record) (number : ∀ r, (f r).number = r.number)
    (kept : ∀ r, (f r).unseen = r.unseen) : UnseenStays s (changeRecord n f s) := fun k r hr unseen => by
  rw [record_changeRecord s n f number, hr]
  split
  · refine ⟨_, rfl, ?_⟩
    rw [Record.changed_eq]
    show (if (f r).shown = r.shown then (f r).unseen else true) = true
    rw [kept, unseen]
    exact ite_self _
  · exact ⟨r, rfl, unseen⟩

theorem addMarkIf_unseen (s : State) (b : Bool) (m : Mark) (n : Nat) : UnseenStays s (addMarkIf b m n s) := by
  cases b with
  | false => exact .refl s
  | true => exact changeRecord_unseen s n (withMark m) (fun _ => rfl) fun _ => rfl

theorem reassign_unseen (s : State) (n x : Nat) (why : AssignReason) : UnseenStays s (reassign n x why s) := by
  have set : UnseenStays s (setAssignment n { track := x, reason := why } s) :=
    .foldl (fun s k => changeRecord k (Record.assign { track := x, reason := why }) s)
      (fun s k => changeRecord_unseen s k _ (fun _ => rfl) fun _ => rfl) _ s
  unfold reassign
  split
  · exact set
  · exact ((set.trans (.of_records (releaseFrom_records _ _ _))).trans (.of_records (changeTrack_records ..))).trans (addMarkIf_unseen _ _ _ n)

theorem redoClaims_unseen (s : State) (n : Nat) : UnseenStays s (redoClaims n s) := by
  unfold redoClaims
  split
  · exact .refl s
  · split
    · exact .refl s
    · exact ((UnseenStays.of_records (withdrawAt_records s _ n).1).trans
        (changeRecord_unseen _ n (fun r => { r with unplannedBelow := none }) (fun _ => rfl) fun _ => rfl)).trans
        (.of_records (foldl_keeps_records _ _ (fun s pb => claimOnRoute_records s _ pb) _).1)

theorem chooseWatch_unseen (s : State) (n : Nat) : UnseenStays s (chooseWatch n s) := by
  unfold chooseWatch
  split
  · exact .refl s
  · split
    · rename_i r _ _
      refine (changeRecord_unseen s n (Record.watching s (s.watchPoint r)) (fun _ => ?_) fun _ => ?_).trans
        (.of_records (expireAtOnce_records _ n))
      · cases s.watchPoint r <;> rfl
      · cases s.watchPoint r <;> rfl
    · exact .refl s

theorem followUp_unseen (s old : State) (ps cs : List Nat) : UnseenStays s (followUp old ps cs s) :=
  (UnseenStays.of_records (takeDecisions_records s old ps).1).trans (.foldl _ chooseWatch_unseen _ _)

end

/-! ### The release (R52, R70) -/

section
variable {s : State} {n x : Nat} {r : Record}

/-- The record of a PENDING cut that has been released. -/
theorem released_changed (pending : r.state = .pending) : Record.changed (Record.released s) r = { Record.released s r with unseen := true } :=
  Record.changed_of_ne (withState_shown (by rw [pending]; exact nofun))

theorem released_latched (hr : s.record n = some r) (pending : r.state = .pending) : latched .cutChanged (released n s) = true :=
  latched_changeRecord (f := Record.released s) hr (withState_shown (by rw [pending]; exact nofun))

theorem released_assignedTrack (hr : s.record n = some r) (unassigned : r.assigned = none) : (released n s).assignedTrack n = none := by
  unfold State.assignedTrack
  rw [released_record hr, Record.changed_eq]
  show Option.map Assignment.track r.assigned = none
  rw [unassigned]
  rfl

/-- A cut without followers is as long at its release as it was declared (R24). -/
theorem released_groupLength (hr : s.record n = some r) (joined : r.joined = none) : (released n s).groupLength n = s.effective n := by
  have layout : (released n s).layout = s.layout := by
    rw [released_frame]
    rfl
  have alone : (Record.changed (Record.released s) r).followers = [] := by
    rw [Record.changed_eq]
    show (match r.joined with
      | some (.leader l) => l
      | _ => []) = []
    rw [joined]
  unfold State.groupLength State.joinedFollowers
  rw [released_record hr]
  dsimp only
  rw [alone]
  unfold State.effective
  simp only [List.filter_nil, List.map_cons, List.map_nil, List.sum_cons, List.sum_nil, Nat.add_zero]
  rw [released_record hr, hr, layout, Record.changed_eq]
  rfl

theorem released_ground (n : Nat) (s : State) : SameGround s (released n s) := by
  rw [released_frame]
  exact ⟨rfl, rfl, rfl, rfl, rfl, rfl, rfl⟩

theorem released_canTake (n : Nat) (s : State) (y len : Nat) : (released n s).canTake y len = s.canTake y len := by
  rw [released_frame]
  rfl

theorem released_choice (n : Nat) (s : State) (y len : Nat) : releaseChoice (released n s) y len = releaseChoice s y len := by
  have layout : (released n s).layout = s.layout := by
    rw [released_frame]
    rfl
  unfold releaseChoice
  rw [layout, released_canTake, alternateChain_congr (released_canTake n s) layout]

/-- A listed cut that asks for a track is released on the track that the release assignment gives it (R52, R70). -/
theorem releaseCut_listed (old : State) (hr : s.record n = some r) (room : s.inTree < 24) (listed : r.origin = .listed)
    (requested : r.requested = some x) (joined : r.joined = none) (unassigned : r.assigned = none) :
    releaseCut old n s = followCut old n (redoClaims n (reassign n (releaseChoice s x (s.effective n)).track
      (releaseChoice s x (s.effective n)).reason (released n s))) := by
  have none_ := released_assignedTrack hr unassigned
  rw [releaseCut_room old hr room, ← assignTrack_eq _ none_]
  unfold assignAtRelease releaseAssignment
  rw [listed, requested]
  dsimp only
  rw [released_groupLength hr joined, released_choice]

/-- The throw decision has been taken at a point where a cut's claim, made in a change of route, is the first in a queue that was empty (R120). -/
theorem GroupSent.decided {old : State} {why : AssignReason} {p : Nat} {b : Position}
    (sent : GroupSent n x why r s (followCut old n (redoClaims n (reassign n x why s)))) (ground : SameGround old s)
    (points : s.points = old.points) (claims : s.claims = old.claims) (once : ((s.tree.route x).map Prod.fst).Nodup)
    (on : (p, b) ∈ s.tree.route x) (below : s.atOrBelowHead r p = true) (empty : old.claimsAt p = []) :
    ({ old with
      records := (followCut old n (redoClaims n (reassign n x why s))).records
      claims := (followCut old n (redoClaims n (reassign n x why s))).claims } : State).Decided p
        ((followCut old n (redoClaims n (reassign n x why s))).point p) := by
  have new : s.claimOf p n = none := by
    unfold State.claimsAt at empty
    unfold State.claimOf State.claimsAt
    rw [claims, empty]
    rfl
  have claim := sent.claimed once p b on new below
  have moved := (reassign_replans s n x why).trans (redoClaims_replans _ n)
  have board := (reassign_board s n x why).trans (redoClaims_board _ n)
  unfold followCut at claim ⊢
  generalize redoClaims n (reassign n x why s) = m at *
  have after := (followUp_claims m old (m.headClaimPoints n) [n]).1
  have watches := followUp_recordsButWatch (s := m) old (m.headClaimPoints n) [n]
  have due : decisionDue old m p = true := by
    have head : old.headClaim p ≠ m.headClaim p := fun e => by
      unfold State.headClaim at e
      rw [empty] at e
      have gone : m.claimsAt p = [] := List.head?_eq_none_iff.mp (Option.map_eq_none_iff.mp e.symm)
      unfold State.claimsAt at gone
      unfold State.claimOf State.claimsAt at claim
      rw [after, gone] at claim
      cases claim
    unfold decisionDue
    rw [bne_iff_ne.mpr head]
    rfl
  have decided := followUp_decided (m.headClaimPoints n) [n] due
  generalize followUp old (m.headClaimPoints n) [n] m = t at *
  have same : SameGround old { old with records := t.records, claims := t.claims } := ⟨rfl, rfl, rfl, rfl, rfl, rfl, rfl⟩
  refine (SameGround.decided ((ground.trans moved.ground).symm.trans same) ?_ ?_ watches).mpr decided
  · exact congrArg (Table.read [] · p) after
  · unfold BoardFrame at board
    rw [board]
    exact congrArg (Table.read PointEntry.initial · p) points.symm

section
variable (old : State) (hr : s.record n = some r) (room : s.inTree < 24) (listed : r.origin = .listed) (requested : r.requested = some x)
  (joined : r.joined = none) (unassigned : r.assigned = none)
include hr room listed requested joined unassigned

/-- A released cut has been sent to the track of its release assignment (R52, R70, R116, R122). -/
theorem listed_sent : GroupSent n (releaseChoice s x (s.effective n)).track (releaseChoice s x (s.effective n)).reason
    (Record.changed (Record.released s) r) (released n s) (releaseCut old n s) := by
  rw [releaseCut_listed old hr room listed requested joined unassigned]
  refine groupSent old _ (released_record hr) ?_ ?_
  · rw [Record.changed_eq]
    rfl
  · rw [released_assignedTrack hr unassigned]
    exact nofun

/-- The record of a listed cut that has been released (R52, R72, R122). -/
theorem listed_record (pending : r.state = .pending) : ∃ u, (releaseCut old n s).record n = some u
    ∧ u = { Record.released s r with
        assigned := some (releaseChoice s x (s.effective n)), unseen := true, unplannedBelow := none
        marks := if s.canTake (releaseChoice s x (s.effective n)).track (s.effective n) = true then r.marks else r.marks ||| 0x100
        watch := u.watch, lastMoment := u.lastMoment, timer := u.timer }
    ∧ (releaseCut old n s).WatchChosen u := by
  have changed := released_changed (s := s) pending
  obtain ⟨u, hu, cut, chosen⟩ := (listed_sent old hr room listed requested joined unassigned).cut
  have unseen : u.unseen = true := by
    have stays : UnseenStays (released n s) (releaseCut old n s) := by
      rw [releaseCut_listed old hr room listed requested joined unassigned]
      exact ((reassign_unseen _ n _ _).trans (redoClaims_unseen _ n)).trans (followUp_unseen _ old _ _)
    obtain ⟨w, hw, unseen⟩ := stays n _ (released_record hr) (by rw [changed])
    rwa [Option.some.inj (hu.symm.trans hw)]
  rw [changed] at cut chosen
  rw [released_canTake, released_groupLength hr joined] at cut
  refine ⟨u, hu, ?_, chosen (.inl rfl)⟩
  rw [cut] at unseen ⊢
  rw [← unseen]
  rfl

/-- The length of a released cut is committed to its track, and to no other (R69). -/
theorem listed_track (y : Nat) : (releaseCut old n s).track y = { s.track y with
    committed := (s.track y).committed + if (releaseChoice s x (s.effective n)).track = y then s.effective n else 0 } := by
  have track := (listed_sent old hr room listed requested joined unassigned).track y
  have before : (released n s).track y = s.track y := by
    rw [released_frame]
    rfl
  rw [released_assignedTrack hr unassigned, released_groupLength hr joined, before] at track
  exact track

/-- A released cut claims a point of its route at its place by release sequence, and the throw decision is taken where it is the first there
(R114, R116, R120). -/
theorem listed_claims {p : Nat} {b : Position} (nohead : r.head = none) (unclaimed : s.claimOf p n = none) (ground : SameGround old s)
    (points : s.points = old.points) (claims : s.claims = old.claims)
    (once : ((s.tree.route (releaseChoice s x (s.effective n)).track).map Prod.fst).Nodup)
    (on : (p, b) ∈ s.tree.route (releaseChoice s x (s.effective n)).track) :
    (releaseCut old n s).claimOf p n = some { cut := n, position := b, spent := false }
      ∧ (releaseCut old n s).Placed Claim.cut { cut := n, position := b, spent := false } (s.claimsAt p) ((releaseCut old n s).claimsAt p)
      ∧ (s.claimsAt p = [] →
          ({ old with records := (releaseCut old n s).records, claims := (releaseCut old n s).claims } : State).Decided p
            ((releaseCut old n s).point p)) := by
  have sent := listed_sent old hr room listed requested joined unassigned
  have changed := Record.changed_eq (Record.released s) r
  have number : (Record.changed (Record.released s) r).number = n := by
    rw [changed]
    exact record_number s (r := r) hr
  have below : (released n s).atOrBelowHead (Record.changed (Record.released s) r) p = true := by
    have head : (Record.changed (Record.released s) r).head = none := by
      rw [changed]
      exact nohead
    unfold State.atOrBelowHead
    rw [head]
  have tree : (released n s).tree = s.tree := (released_ground n s).tree
  have kept : (released n s).claims = s.claims := by
    rw [released_frame]
  have still : (released n s).points = s.points := by
    rw [released_frame]
  have held : (released n s).claimsAt p = s.claimsAt p := congrArg (Table.read [] · p) kept
  have new : (released n s).claimOf p n = none := by
    unfold State.claimOf
    rw [held]
    exact unclaimed
  refine ⟨sent.claimed (tree ▸ once) p b (tree ▸ on) new below, ?_, fun empty => ?_⟩
  · have placed := (sent.claims.2 (tree ▸ once) p b (tree ▸ on)).2 (by rw [number]; exact new) below
    rwa [held, number] at placed
  · have eq := releaseCut_listed old hr room listed requested joined unassigned
    have empty' : old.claimsAt p = [] := (congrArg (Table.read [] · p) claims).symm.trans empty
    rw [eq] at sent ⊢
    exact sent.decided (ground.trans (released_ground n s)) (still.trans points) (kept.trans claims) (tree ▸ once) (tree ▸ on) below empty'

end

end

/-- Settles O45: the release is a group sent to its track (`listed_sent`); its record, its length and its claims are `listed_record`,
`listed_track` and `listed_claims`. -/
theorem firstAxleReleasesTheQueueHead : Obligations.FirstAxleReleasesTheQueueHead := by
  intro s n x rest r hs idle due hq hr listed requested joined unassigned pending nohead room unclaimed a once
  have exec_ := exec_firstAxle (s := s) (by rw [hs]; exact nofun) idle
  rw [firstAxle_listed (s := pulsed s) hs due hq] at exec_
  have sent := listed_sent (s := { pulsed s with queue := rest }) (pulsed s) hr room listed requested joined unassigned
  obtain ⟨u, hu, cut, chosen⟩ :=
    listed_record (s := { pulsed s with queue := rest }) (pulsed s) hr room listed requested joined unassigned pending
  have track := listed_track (s := { pulsed s with queue := rest }) (pulsed s) hr room listed requested joined unassigned
  have claims := fun p b on => listed_claims (s := { pulsed s with queue := rest }) (pulsed s) hr room listed requested joined unassigned
    (p := p) (b := b) nohead (unclaimed p) ⟨rfl, rfl, rfl, rfl, rfl, rfl, rfl⟩ rfl rfl once on
  have number := record_number s hr
  have before := released_frame n { pulsed s with queue := rest }
  have flag := sent.replans.latched (released_latched (s := { pulsed s with queue := rest }) hr pending)
  have off := sent.claims.1
  have others := sent.replans.others
  have frame := sent.replans.frame
  have choice : releaseChoice { pulsed s with queue := rest } x (State.effective { pulsed s with queue := rest } n) = a := rfl
  rw [Record.changed_eq] at off
  rw [choice] at cut track claims off
  rw [before] at frame off others
  generalize releaseCut (pulsed s) n { pulsed s with queue := rest } = t at *
  refine ⟨finish (startGroup (some n) t), u, exec_, hu, ⟨rfl, rfl, rfl, ?_⟩, ?_, ⟨?_, ?_⟩, ?_, ?_, ?_, ?_, fun y hy => ?_, claims, fun p hp => ?_,
    fun p m hm => others p m hm, chosen, flag, ?_⟩
  · show t.queue = rest
    rw [frame]
  · show t.separation = _
    rw [frame]
    rfl
  · show t.inTree = _
    rw [frame]
    rfl
  · show t.seqCounter = _
    rw [frame]
    rfl
  · rw [cut]
    exact ⟨rfl, rfl, rfl, rfl⟩
  · rw [cut]
    exact ⟨rfl, rfl, rfl, requested⟩
  · rw [cut]
    rfl
  · exact (congrArg TrackEntry.committed (track a.track)).trans (by simp; rfl)
  · exact (track y).trans (by simp [Ne.symm hy]; rfl)
  · subst number
    exact off p hp
  · rw [frame]
    rfl

end Sys2Proof.Machine
end

section
/-! Counting and separation: what a pulse while COUNTING makes of the target, and what the end of the group makes of the records
(R49, R54, R59, R60, R62, R64). -/

namespace Sys2Proof.Machine

section
variable {s : State} {n : Nat} {r : Record}

/-! ### Marks (R31) -/

theorem addMarkIf_record (b : Bool) (m : Mark) (hr : s.record n = some r) :
    ∃ v, (addMarkIf b m n s).record n = some v
      ∧ v = { r with marks := if b = true then r.marks ||| markBit m else r.marks, unseen := v.unseen } := by
  cases b with
  | false => exact ⟨r, hr, rfl⟩
  | true =>
    refine ⟨Record.changed (withMark m) r, ?_, ?_⟩
    · exact (record_changeRecord_same s n (withMark m) fun _ => rfl).trans (by rw [hr]; rfl)
    · rw [Record.changed_eq]
      rfl

theorem addMarkIf_other (b : Bool) (m : Mark) {k : Nat} (hk : k ≠ n) : (addMarkIf b m n s).record k = s.record k := by
  cases b with
  | false => rfl
  | true => exact record_changeRecord_other s (withMark m) (fun _ => rfl) hk

/-! ### Counting (R49, R54) -/

/-- A record has as many axles as were declared for it, or more; one with none declared never has. -/
def Record.full (r : Record) : Bool :=
  match r.declaredAxles with
  | none => false
  | some d => decide (d ≤ r.measuredAxles)

/-- A record with one axle more (R49). -/
def Record.axleMore (r : Record) : Record := { r with measuredAxles := min 255 (r.measuredAxles + 1) }

/-- No join is possible in STANDBY, with an empty queue, with no crest cut, or with 3 followers in its joined list (R54). -/
theorem joinPair_eq_none (h : s.runState = .standby ∨ s.queue = [] ∨ s.crestCut = none
    ∨ ∀ c l, s.crestCut = some c → s.record c = some l → 3 ≤ l.followers.length) : joinPair s = none := by
  cases pair : joinPair s with
  | none => rfl
  | some cn =>
    obtain ⟨crest, running, ⟨rest, hq⟩, l, hl, room⟩ := joinPair_some pair
    rcases h with e | e | e | e
    · rw [running] at e; cases e
    · rw [hq] at e; cases e
    · rw [crest] at e; cases e
    · exact absurd room (Nat.not_lt.mpr (e _ l crest hl))

/-- A pulse that joins no cut is counted on the target, with OVERCOUNT where that is full (R54). -/
theorem countPulse_counts (target : s.target = some n) (hr : s.record n = some r) (alone : r.full = true → joinPair s = none) :
    countPulse s = addMarkIf r.full .overcount n (changeRecord n Record.axleMore s) := by
  unfold countPulse
  rw [target]
  dsimp only
  rw [hr]
  dsimp only
  unfold Record.full at alone ⊢
  cases axles : r.declaredAxles with
  | none => rfl
  | some d =>
    rw [axles] at alone
    dsimp only at alone ⊢
    by_cases h : r.measuredAxles < d
    · rw [if_pos h, decide_eq_false (Nat.not_le.mpr h)]
      rfl
    · have reached := decide_eq_true (Nat.not_lt.mp h)
      rw [if_neg h, alone reached, reached]
      rfl

/-- A pulse while COUNTING (R49, R54). -/
theorem exec_countPulse (hs : s.runState ≠ .halted) (counting : s.crest = .counting) :
    exec .axlePulse s = .next (finish (countPulse (pulsed s))) := by
  rw [exec_pulse hs, counting]

theorem countPulse_untracked (target : s.target = none) : countPulse s = s := by
  unfold countPulse
  rw [target]

end

/-- Settles O47: `countPulse_counts`, with no join by `joinPair_eq_none`. -/
theorem pulsesAreCounted : Obligations.PulsesAreCounted := by
  refine ⟨fun s hs counting target => ?_, fun s n r hs counting target hr alone => ?_⟩
  · rw [exec_countPulse hs counting, countPulse_untracked (s := pulsed s) target]
    rfl
  · have single : r.full = true → joinPair (pulsed s) = none := fun full => by
      unfold Record.full at full
      rcases alone with e | ⟨d, e, below | h⟩
      · rw [e] at full; cases full
      · rw [e] at full
        exact absurd below (Nat.not_lt.mpr (of_decide_eq_true full))
      · exact joinPair_eq_none (s := pulsed s) h
    have exec_ := exec_countPulse hs counting
    rw [countPulse_counts (s := pulsed s) target hr single] at exec_
    have counted : (changeRecord n Record.axleMore (pulsed s)).record n = some (Record.changed Record.axleMore r) :=
      (record_changeRecord_same (pulsed s) n Record.axleMore fun _ => rfl).trans (congrArg _ hr)
    obtain ⟨u, hu, cut⟩ := addMarkIf_record r.full .overcount counted
    rw [Record.changed_eq] at cut
    have others := fun k (hk : k ≠ n) => (addMarkIf_other (s := changeRecord n Record.axleMore (pulsed s)) r.full .overcount hk).trans
      (record_changeRecord_other (pulsed s) Record.axleMore (fun _ => rfl) hk)
    have only := (changeRecord_only (pulsed s) n Record.axleMore).trans (addMarkIf_only _ r.full .overcount n)
    generalize addMarkIf r.full .overcount n (changeRecord n Record.axleMore (pulsed s)) = t at *
    refine ⟨finish t, u, exec_, hu, ?_, ?_, ?_, others, ?_⟩
    · rw [cut]
      rfl
    · rw [cut]
      rfl
    · rw [cut]
      unfold Record.full
      cases r.declaredAxles with
      | none => rfl
      | some d =>
        by_cases h : r.measuredAxles < d
        · simp [h, Record.axleMore]
        · simp [h, Record.axleMore, Nat.not_lt.mp h, markBit]
    · unfold RecordsOnly at only
      rw [only]
      rfl

/-! ### Separation (R59, R60) -/

/-- A RELEASING record becomes ROLLING (R60). -/
def Record.letGo (r : Record) : Record := if r.state = .releasing then { r with state := .rolling } else r

/-- What the end of a group makes of the record of a cut: SHORT where it is the target that fell short, and let go where it is the crest cut
(R59, R60). -/
def State.separated (s : State) (j : Nat) (r : Record) : Record :=
  let marked := if s.shortTarget = some j then Record.changed (withMark .short) r else r
  if s.crestCut = some j then Record.changed Record.letGo marked else marked

section
variable {s : State} {j n : Nat} {r k : Record}

theorem letGo_number (r : Record) : r.letGo.number = r.number := by
  unfold Record.letGo
  split <;> rfl

theorem letGo_state (r : Record) : (Record.changed Record.letGo r).state = if r.state = .releasing then .rolling else r.state := by
  rw [Record.changed_eq]
  unfold Record.letGo
  split <;> rfl

theorem letGo_marks (r : Record) : (Record.changed Record.letGo r).marks = r.marks := by
  rw [Record.changed_eq]
  unfold Record.letGo
  split <;> rfl

theorem shortTarget_none (h : s.target = none) : s.shortTarget = none := by
  unfold State.shortTarget
  rw [h]

theorem shortTarget_short {d : Nat} (target : s.target = some n) (hk : s.record n = some k) (axles : k.declaredAxles = some d)
    (short : k.measuredAxles < d) : s.shortTarget = some n := by
  unfold State.shortTarget
  rw [target]
  dsimp only
  rw [hk]
  dsimp only
  rw [axles]
  exact if_pos short

theorem shortTarget_full (target : s.target = some n) (hk : s.record n = some k)
    (full : k.declaredAxles = none ∨ ∃ d, k.declaredAxles = some d ∧ d ≤ k.measuredAxles) : s.shortTarget = none := by
  unfold State.shortTarget
  rw [target]
  dsimp only
  rw [hk]
  rcases full with e | ⟨d, e, h⟩
  · dsimp only
    rw [e]
  · dsimp only
    rw [e]
    exact if_neg (Nat.not_lt.mpr h)

/-- Only the target can be the one that fell short. -/
theorem shortTarget_target (h : s.shortTarget = some j) : s.target = some j := by
  unfold State.shortTarget at h
  split at h
  · cases h
  · rename_i n target
    split at h
    · cases h
    · split at h
      · cases h
      · split at h
        · rw [target, h]
        · cases h

theorem shortTest_short (h : s.shortTarget = some n) :
    shortTest s = latch .crest (addMark .short n { s with remnantDue := some n }) := by
  unfold shortTest
  rw [h]

theorem shortTest_none (h : s.shortTarget = none) : shortTest s = s := by
  unfold shortTest
  rw [h]

theorem shortTest_frame (s : State) : shortTest s = { s with
    records := (shortTest s).records, remnantDue := s.shortTarget.or s.remnantDue, flags := (shortTest s).flags } := by
  cases h : s.shortTarget with
  | none =>
    rw [shortTest_none h]
    rfl
  | some n =>
    have only := changeRecord_only { s with remnantDue := some n } n (withMark .short)
    unfold RecordsOnly at only
    rw [shortTest_short h, addMark, only]
    rfl

theorem shortTest_record (s : State) (j : Nat) : (shortTest s).record j
    = (s.record j).map fun r => if s.shortTarget = some j then Record.changed (withMark .short) r else r := by
  cases h : s.shortTarget with
  | none =>
    rw [shortTest_none h]
    simp
  | some n =>
    rw [shortTest_short h]
    refine (record_changeRecord { s with remnantDue := some n } n (withMark .short) (fun _ => rfl) j).trans ?_
    by_cases e : j = n
    · subst e
      simp [State.record]
    · simp [e, Ne.symm e, State.record]

theorem letGo_eq (s : State) : letGo s = match s.crestCut with
    | some c => changeRecord c Record.letGo s
    | none => s := rfl

theorem letGo_only (s : State) : RecordsOnly s (letGo s) := by
  rw [letGo_eq]
  split
  · exact changeRecord_only s _ _
  · exact rfl

theorem letGo_record (s : State) (j : Nat) : (letGo s).record j
    = (s.record j).map fun r => if s.crestCut = some j then Record.changed Record.letGo r else r := by
  rw [letGo_eq]
  cases h : s.crestCut with
  | none => simp
  | some c =>
    refine (record_changeRecord s c Record.letGo letGo_number j).trans ?_
    by_cases e : j = c
    · subst e
      simp
    · simp [e, Ne.symm e]

/-- What the end of a group touches of the board. -/
theorem separate_frame (s : State) : separate s = { s with
    records := (separate s).records, crest := .idle, crestCut := none, target := none, separation := none
    remnantDue := s.shortTarget.or s.remnantDue, flags := (separate s).flags } := by
  have only := letGo_only (shortTest s)
  unfold RecordsOnly at only
  unfold separate
  rw [only, shortTest_frame]

theorem separate_record (hr : s.record j = some r) : (separate s).record j = some (s.separated j r) := by
  have crest : (shortTest s).crestCut = s.crestCut := by rw [shortTest_frame]
  refine (letGo_record (shortTest s) j).trans ?_
  rw [shortTest_record, crest, hr]
  rfl

theorem separate_other (crest : s.crestCut ≠ some j) (short : s.shortTarget ≠ some j) : (separate s).record j = s.record j := by
  have cut : (shortTest s).crestCut = s.crestCut := by rw [shortTest_frame]
  refine (letGo_record (shortTest s) j).trans ?_
  rw [shortTest_record, cut]
  simp [crest, short]

theorem separated_state (s : State) (j : Nat) (r : Record) :
    (s.separated j r).state = if s.crestCut = some j ∧ r.state = .releasing then .rolling else r.state := by
  have marked : (if s.shortTarget = some j then Record.changed (withMark .short) r else r).state = r.state := by
    split
    · rw [Record.changed_eq]
      rfl
    · rfl
  unfold State.separated
  dsimp only
  by_cases crest : s.crestCut = some j
  · rw [if_pos crest, letGo_state, marked]
    simp only [crest, true_and]
  · rw [if_neg crest, marked]
    exact (if_neg fun h => crest h.1).symm

theorem separated_marks (s : State) (j : Nat) (r : Record) :
    (s.separated j r).marks = if s.shortTarget = some j then r.marks ||| 0x001 else r.marks := by
  have marked : (if s.shortTarget = some j then Record.changed (withMark .short) r else r).marks
      = if s.shortTarget = some j then r.marks ||| 0x001 else r.marks := by
    split
    · rw [Record.changed_eq]
      rfl
    · rfl
  unfold State.separated
  dsimp only
  split
  · rw [letGo_marks]
    exact marked
  · exact marked

/-- A target that fell short latches CREST (R59). -/
theorem separate_latched (h : s.shortTarget = some n) : latched .crest (separate s) = true := by
  have now : latched .crest (shortTest s) = true := by
    rw [shortTest_short h, latched_latch]
    exact Bool.or_true _
  show latched .crest (letGo (shortTest s)) = true
  rw [letGo_eq]
  split
  · exact (changeRecord_replans _ 0 _ Record.letGo).latched now
  · exact now

theorem exec_separated {l : Instant} (counting : s.crest = .counting) (timer : s.separation = some l) (due_ : after l s.clock = false) :
    exec .separation s = .next (finish (separate s)) := by
  have out : due s.clock l = true := by
    unfold due
    rw [due_]
    rfl
  show execSeparation s = _
  unfold execSeparation
  rw [timer]
  exact if_pos ⟨counting, out⟩

end

/-- Settles O49: the records by `separate_record`, the rest of the board by `separate_frame`. -/
theorem separationEndsTheGroup : Obligations.SeparationEndsTheGroup := by
  refine ⟨fun s l counting timer due_ target => ?_, fun s l n k counting timer due_ crest target hk => ?_,
    fun s l c n r k counting timer due_ crest hr target hk => ?_⟩
  · have exec_ := exec_separated counting timer due_
    have short := shortTarget_none target
    have frame := separate_frame s
    rw [short] at frame
    refine ⟨_, exec_, ⟨rfl, rfl, rfl, rfl⟩, ?_, fun c r crest hr => ⟨_, separate_record hr, ?_, ?_⟩, fun j hj => ?_, ?_⟩
    · show (separate s).remnantDue = _
      rw [frame]
      rfl
    · rw [separated_marks, short]
      exact if_neg nofun
    · rw [separated_state]
      simp only [crest, true_and]
    · exact separate_other hj (by rw [short]; exact nofun)
    · rw [frame]
      rfl
  · have exec_ := exec_separated counting timer due_
    have remnant : (separate s).remnantDue = s.shortTarget.or s.remnantDue := by rw [separate_frame]
    refine ⟨_, _, exec_, separate_record hk, ⟨rfl, rfl, rfl, rfl⟩, ?_, fun d axles below => ⟨?_, ?_⟩, fun full => ⟨?_, ?_⟩, fun j hj => ?_⟩
    · rw [separated_state, crest]
      exact if_neg fun h => absurd h.1 nofun
    · exact remnant.trans (by rw [shortTarget_short target hk axles below]; rfl)
    · rw [separated_marks, if_pos (shortTarget_short target hk axles below)]
    · exact remnant.trans (by rw [shortTarget_full target hk full]; rfl)
    · unfold State.separated
      rw [shortTarget_full target hk full, crest]
      rfl
    · refine separate_other (by rw [crest]; exact nofun) fun h => hj ?_
      exact Option.some.inj ((shortTarget_target h).symm.trans target)
  · have exec_ := exec_separated counting timer due_
    have frame := separate_frame s
    have remnant : (separate s).remnantDue = s.shortTarget.or s.remnantDue := by rw [frame]
    refine ⟨_, _, _, exec_, separate_record hr, separate_record hk, ⟨rfl, rfl, rfl, rfl⟩, ?_, fun d axles below => ⟨?_, ?_, ?_⟩,
      fun full => ⟨?_, ?_⟩, fun j hc hn => ?_, ?_⟩
    · rw [separated_state]
      simp only [crest, true_and]
    · exact remnant.trans (by rw [shortTarget_short target hk axles below]; rfl)
    · rw [separated_marks, if_pos (shortTarget_short target hk axles below)]
    · exact separate_latched (shortTarget_short target hk axles below)
    · exact remnant.trans (by rw [shortTarget_full target hk full]; rfl)
    · rw [separated_marks, shortTarget_full target hk full]
      exact if_neg nofun
    · refine separate_other (fun h => hc ?_) fun h => hn ?_
      · exact Option.some.inj (h.symm.trans crest)
      · exact Option.some.inj ((shortTarget_target h).symm.trans target)
    · rw [frame]
      rfl

end Sys2Proof.Machine
end

section
/-! The outputs agree with the state after every command and every tick (R65, R171). -/

namespace Sys2Proof.Machine

/-! ### How a command ends -/

/-- A command ends with the outputs taken afresh, has moved the link alone, or is not taken. -/
inductive Ends (s : State) : Host.Outcome State Fault Refusal → Prop where
  | finished (u : State) : Ends s (.next (finish u))
  | linked (receiver : Receiver) (inHand : Option Answer) (held : Option Byte) :
      Ends s (.next { s with receiver := receiver, inHand := inHand, held := held })
  | fault (f : Fault) : Ends s (.fault f)

section
variable {s t : State}

theorem Ends.unchanged (s : State) : Ends s (.next s) := .linked s.receiver s.inHand s.held

theorem Ends.ite {c : Prop} [Decidable c] {o p : Host.Outcome State Fault Refusal} (h : Ends s o) (k : Ends s p) :
    Ends s (if c then o else p) := by split <;> assumption

/-- The expiry of a cut's timer, for a cut with a record or without one. -/
theorem Ends.ofRecord (n : Nat) {f : Record → Host.Outcome State Fault Refusal} (h : ∀ r, Ends s (f r)) :
    Ends s (match s.record n with
      | none => .next s
      | some r => f r) := by
  split
  · exact .unchanged s
  · exact h _

theorem execSeparation_ends (s : State) : Ends s (execSeparation s) := by
  unfold execSeparation
  split
  · exact .unchanged s
  · exact .ite (.finished _) (.unchanged s)

theorem execCommitComplete_ends (b : Bool) (s : State) : Ends s (execCommitComplete b s) := by
  unfold execCommitComplete
  split
  · exact .unchanged s
  · exact .finished _

theorem execCommitTimerExpiry_ends (s : State) : Ends s (execCommitTimerExpiry s) := by
  unfold execCommitTimerExpiry
  split
  · exact .unchanged s
  · exact .ite (.finished _) (.unchanged s)

theorem execAnswerSent_ends (s : State) : Ends s (execAnswerSent s) := by
  unfold execAnswerSent sent
  split
  · exact .unchanged s
  · exact .linked s.receiver none s.held
  · exact .linked s.receiver _ none

/-- Every command ends so: a request and an event by taking the outputs afresh, the receiver and the end of an answer by moving the link. -/
theorem exec_ends (c : Instr) (s : State) : Ends s (exec c s) := by
  cases c with
  | enter | amend | withdraw | query | list | collect | abandon => exact .finished _
  | trackSet | trackRead | sectionRead | pointMode | pointThrow | pointReset | pointRead => exact .finished _
  | run | warmReset | layoutLoad | layoutWrite | layoutCommit | layoutSelect | layoutRead => exact .finished _
  | status | clearFlags | enableFlags | unknownCode | requestHeld => exact .finished _
  | interByteGap | startByte | badLengthByte | powerOn | resetLine => exact .finished _
  | frameBadCheck | badStopBit => exact .linked .hunting s.inHand s.held
  | answerSent => exact execAnswerSent_ends s
  | axlePulse => exact .ite (.finished _) (.unchanged s)
  | separation => exact execSeparation_ends s
  | sectionOccupied | detectionChange => exact .ite (.fault _) (.ite (.unchanged s) (.finished _))
  | sectionClear => exact .ite (.fault _) (.ite (.finished _) (.unchanged s))
  | provingTimerExpiry | throwLimitExpiry | settleTimerExpiry | idleTimerExpiry => exact .ite (.finished _) (.unchanged s)
  | stallDeadlineExpiry n => exact .ofRecord n fun _ => .ite (.finished _) (.unchanged s)
  | standTimerExpiry n => exact .ofRecord n fun _ => .ite (.finished _) (.unchanged s)
  | lastMomentExpiry n => exact .ofRecord n fun _ => .ite (.finished _) (.unchanged s)
  | commitComplete b => exact execCommitComplete_ends b s
  | commitTimerExpiry => exact execCommitTimerExpiry_ends s

/-- The outputs read nothing of the link. -/
theorem Ends.reckoned {o : Host.Outcome State Fault Refusal} (ends : Ends s o) (h : OutputsReckoned s) (next : o = .next t) :
    OutputsReckoned t := by
  cases ends with
  | finished u =>
    injection next with next
    exact next ▸ finish_reckoned u
  | linked =>
    injection next with next
    exact next ▸ h
  | fault => cases next

/-- The outputs read neither the clock nor the commands that wait. -/
theorem tick_reckoned (h : OutputsReckoned s) : OutputsReckoned (tick s) := by
  unfold tick
  split <;> exact h

theorem step_reckoned (h : OutputsReckoned s) (next : step s = .next t) : OutputsReckoned t := by
  unfold step at next
  split at next
  · injection next with next
    exact next ▸ tick_reckoned h
  · rename_i c rest _
    exact (exec_ends c { s with pending := rest }).reckoned h next

/-! ### HUMP PERMIT (R65) -/

theorem permitCondition_iff (s : State) : permitCondition s = true ↔ s.runState = .running ∧ s.inTree < permitLimit s.layout
    ∧ ∃ n rest r, s.queue = n :: rest ∧ s.record n = some r ∧ (r.requested = none → s.crest = .idle) := by
  unfold permitCondition
  cases hq : s.queue with
  | nil => simp
  | cons n rest =>
    cases hr : s.record n with
    | none => simp [hr]
    | some r =>
      have asks : (r.requested.isSome || s.crest == .idle) = true ↔ (r.requested = none → s.crest = .idle) := by
        cases r.requested <;> simp
      simp only [Bool.and_eq_true, beq_iff_eq, decide_eq_true_eq, asks, hr, List.cons.injEq]
      constructor
      · rintro ⟨⟨running, head⟩, room⟩
        exact ⟨running, room, n, rest, r, ⟨rfl, rfl⟩, hr, head⟩
      · rintro ⟨running, room, _, _, q, ⟨rfl, rfl⟩, hq, head⟩
        obtain rfl := Option.some.inj (hr.symm.trans hq)
        exact ⟨⟨running, head⟩, room⟩

end

/-- Settles O5: every command ends as `exec_ends` says, and HUMP PERMIT is then what `permitCondition_iff` reads. -/
theorem stepsKeepOutputsReckoned : Obligations.StepsKeepOutputsReckoned :=
  ⟨fun _ _ h next => step_reckoned h next, fun s h => h.1 ▸ permitCondition_iff s⟩

end Sys2Proof.Machine
end

section
/-! What each shared operation of the board leaves of the keyed tables: canonical ones stay canonical, whatever the records say (R66, R82, R114,
R133). -/

namespace Sys2Proof.Machine

/-- Canonical tables and images stay so from `s` to `t`. -/
def KeepsTables (s t : State) : Prop := Canonical s → Canonical t

section
variable {s t u : State}

theorem KeepsTables.refl (s : State) : KeepsTables s s := id

theorem KeepsTables.trans (h : KeepsTables s t) (k : KeepsTables t u) : KeepsTables s u := k ∘ h

theorem KeepsTables.ite {c : Prop} [Decidable c] (h : KeepsTables s t) (k : KeepsTables s u) : KeepsTables s (if c then t else u) := by
  split <;> assumption

theorem KeepsTables.foldl {β : Type} (f : State → β → State) (h : ∀ s b, KeepsTables s (f s b)) (l : List β) (s : State) :
    KeepsTables s (l.foldl f s) := by
  induction l generalizing s with
  | nil => exact .refl s
  | cons b l ih => exact (h s b).trans (ih _)

theorem CalmMove.keepsTables (h : CalmMove s t) : KeepsTables s t := h.canonical

theorem SameTables.keepsTables (h : SameTables s t) : KeepsTables s t := h.canonical

theorem RecordsOnly.keepsTables (h : RecordsOnly s t) : KeepsTables s t :=
  SameTables.canonical (by rw [h]; exact ⟨rfl, rfl, rfl, rfl, rfl, rfl, rfl, rfl, rfl, rfl⟩)

end

/-! ### Claims and routes (R114 to R118, R127) -/

section
variable (s : State) (n : Nat)

theorem setClaims_keepsTables (p : Nat) (l : List Claim) : KeepsTables s (setClaims p l s) := fun h =>
  ⟨h.tracks, h.channels, h.sections, Table.write_wf _ _ _ _ h.claims, h.detections, h.points, h.slots, h.working, h.active, h.slotImages,
    h.commitImage⟩

theorem changeSection_keepsTables (x : Nat) (f : SectionEntry → SectionEntry) : KeepsTables s (changeSection x f s) := fun h =>
  ⟨h.tracks, h.channels, Table.write_wf _ _ _ _ h.sections, h.claims, h.detections, h.points, h.slots, h.working, h.active, h.slotImages,
    h.commitImage⟩

theorem changeRecord_keepsTables (f : Record → Record) : KeepsTables s (changeRecord n f s) := (changeRecord_only s n f).keepsTables

theorem claimOnRoute_keepsTables (r : Record) (pb : Nat × Position) : KeepsTables s (claimOnRoute n r s pb) :=
  .ite (setClaims_keepsTables s _ _) (.ite (setClaims_keepsTables s _ _) (.refl s))

theorem redoClaims_keepsTables : KeepsTables s (redoClaims n s) := by
  unfold redoClaims
  split
  · exact .refl s
  · split
    · exact .refl s
    · exact ((withdrawAt_calm s _ n).keepsTables.trans (changeRecord_keepsTables _ n _)).trans
        (.foldl _ (fun s pb => claimOnRoute_keepsTables s n _ pb) _ _)

theorem replan_keepsTables (p : Nat) (b : Position) : KeepsTables s (replan n p b s) := by
  unfold replan
  split
  · exact redoClaims_keepsTables s n
  · exact KeepsTables.trans (reassign_moves s n _ _).canonical (redoClaims_keepsTables _ n)

/-- A group given a track has its claims redone, and what follows is taken (R52, R57, R75). -/
theorem assigned_keepsTables (old : State) (x : Nat) (why : AssignReason) :
    KeepsTables s (followCut old n (redoClaims n (assignTrack n x why s))) :=
  (KeepsTables.trans (assignTrack_moves s n x why).canonical (redoClaims_keepsTables _ n)).trans (followCut_calm _ old n).keepsTables

theorem lastMomentExpires_keepsTables (r : Record) : KeepsTables s (lastMomentExpires n r s) := by
  unfold lastMomentExpires
  split
  · exact assigned_keepsTables s n s _ _
  · rename_i p _ _
    unfold expireAt
    split
    · exact (followUp_calm s s _ _).keepsTables
    · split
      · have noted : ∀ f, KeepsTables s (noteAndRewrite n p f s) := fun f =>
          (noteDiversion_calm s n p).keepsTables.trans (setClaims_keepsTables _ p _)
        exact .ite ((setClaims_keepsTables s p _).trans (followUp_calm _ s _ _).keepsTables)
          (((noted _).trans (replan_keepsTables _ n p _)).trans (followCut_calm _ s n).keepsTables)
      · exact (divertUnknown_calm s n p).keepsTables.trans (followUp_calm _ s _ _).keepsTables
  · exact (followUp_calm s s _ _).keepsTables

/-! ### Departures (R28, R30, R78, R92, R96) -/

theorem loseCut_keepsTables (why : LostReason) : KeepsTables s (loseCut why n s) := by
  by_cases h : s.isInTree n = true
  · rw [loseCut_eq s why h]
    exact ((latch_calm s .lost).keepsTables.trans canonical_sendAway).trans (releaseFrom_moves _ _ _).canonical
  · rw [loseCut_out s why (by simpa using h)]
    exact .refl s

theorem loseCuts_keepsTables (why : LostReason) (l : List Nat) : KeepsTables s (loseCuts why l s) :=
  .foldl _ (fun s n => loseCut_keepsTables s n why) l s

theorem settleCut_keepsTables (p x : Nat) : KeepsTables s (settleCut p x n s) := by
  by_cases h : s.isInTree n = true
  · rw [settleCut_eq s p x h]
    exact ((markedMisroute_calm s p x n).keepsTables.trans canonical_sendAway).trans (settleLength_moves _ _ _ _).canonical
  · rw [settleCut_out s p x (by simpa using h)]
    exact .refl s

theorem halt_keepsTables : KeepsTables s (halt s) := fun h => by
  have lost := loseCuts_keepsTables s .halted s.inTreeCuts h
  exact ⟨lost.tracks, lost.channels, Table.update_wf _ _ _ lost.sections, lost.claims, lost.detections, Table.update_wf _ _ _ lost.points,
    lost.slots, lost.working, lost.active, lost.slotImages, lost.commitImage⟩

/-! ### Section inputs and proving timers (R84 to R94) -/

theorem wentOut_keepsTables (p : Nat) (b : Position) (why : DivertReason) (wrong unplanned : Bool) :
    KeepsTables s (wentOut n p b why wrong unplanned s) := by
  have noted : KeepsTables s (if wrong then addMisroute p why n s else s) := .ite (addMisroute_calm s p why n).keepsTables (.refl s)
  exact .ite (noted.trans (replan_keepsTables _ n p b)) noted

theorem enterSection_keepsTables (x : Nat) : KeepsTables s (enterSection x n s) := changeSection_keepsTables s x _

theorem creditHead_keepsTables (x : Nat) (held : Bool) (r : Record) : KeepsTables s (creditHead n x held r s) :=
  (((enterSection_keepsTables s n x).trans (leaveSections_calm _ _ n).keepsTables).trans (changeRecord_keepsTables _ n _)).trans
    (addMarkIf_calm _ _ _ n).keepsTables

theorem creditEntry_keepsTables (x : Nat) : KeepsTables s (creditEntry n x s) := by
  unfold creditEntry
  split
  · exact .refl s
  · split
    · exact (creditHead_keepsTables s n x _ _).trans (endHold_calm _ x).keepsTables
    · rename_i r _ _ u _
      dsimp only
      have credited := (creditHead_keepsTables s n x (s.shownState u == .unproven) r).trans (endHold_calm _ x).keepsTables
      refine KeepsTables.trans ?_ (withdrawAt_calm _ _ n).keepsTables
      rcases checkBranch_cases n u x (endHold x (creditHead n x (s.shownState u == .unproven) r s)) with ⟨-, same⟩ | ⟨p, b, -, -, went⟩
      · rw [same]
        exact credited
      · rw [went]
        exact credited.trans (wentOut_keepsTables _ n p b _ _ _)

theorem broughtUp_keepsTables (d : Nat) : KeepsTables s (broughtUp d n s) :=
  ((((enterSection_keepsTables s n d).trans (leaveSections_calm _ _ n).keepsTables).trans (changeRecord_keepsTables _ n _)).trans
    (addMark_calm _ _ n).keepsTables).trans (withdrawAt_calm _ _ n).keepsTables

theorem closeUp_keepsTables (u d : Nat) : KeepsTables s (closeUp u d s n) := by
  have up := broughtUp_keepsTables s n d
  refine .ite (loseCut_keepsTables s n _) ?_
  dsimp only
  split
  · exact up.trans (wentOut_keepsTables (broughtUp d n s) n _ _ .misroute _ _)
  · exact up

theorem dealWithHeld_keepsTables (u : Nat) (l : List Nat) : KeepsTables s (dealWithHeld u l s) := by
  have held : KeepsTables s (holdUnproven u s) := (holdUnproven_calm s u).keepsTables
  unfold dealWithHeld
  split
  · exact .ite (.foldl _ (fun s n => closeUp_keepsTables s n u _) l s) held
  · exact .foldl _ (fun s n => settleCut_keepsTables s n _ _) l s
  · split
    · exact .ite (loseCuts_keepsTables s _ l) held
    · exact held

theorem sectionLeft_keepsTables (old : State) (u : Nat) : KeepsTables s (sectionLeft old u s) := by
  have drawn : KeepsTables s (((s.section u).occupants.filter fun n => !s.headIn u n).foldl (drawOut u)
      (changeSection u (fun e => { e with unexplained := false }) s)) :=
    (changeSection_keepsTables s u _).trans (.foldl _ (fun s n => (drawOut_calm s u n).keepsTables) _ _)
  exact (KeepsTables.ite drawn (drawn.trans (dealWithHeld_keepsTables _ u _))).trans (followUp_calm _ old _ _).keepsTables

theorem sectionEntered_keepsTables (old : State) (x : Nat) : KeepsTables s (sectionEntered old x s) := by
  unfold sectionEntered
  split
  · exact (((unexplainedEntry_calm s x).trans (tellDrivers_calm _ x none)).trans (followUp_calm _ old _ _)).keepsTables
  · exact .ite
      ((loseCut_keepsTables s _ _).trans (((endHold_calm _ x).trans (tellDrivers_calm _ x none)).trans (followUp_calm _ old _ _)).keepsTables)
      ((creditEntry_keepsTables s _ x).trans ((tellDrivers_calm _ x _).trans (followCut_calm _ old _)).keepsTables)

theorem inputChanges_keepsTables (c : Nat) (b : Bool) : KeepsTables s (inputChanges c b s) := by
  have set : KeepsTables s (setChannel c b s) := (setChannel_calm s c b).keepsTables
  unfold inputChanges
  dsimp only
  split
  · exact .ite (.ite (set.trans (sectionEntered_keepsTables _ s _)) (set.trans (sectionLeft_keepsTables _ s _))) set
  · exact set

theorem provingExpires_keepsTables (x : Nat) : KeepsTables s (provingExpires x s) :=
  ((loseCuts_keepsTables s .unproven (s.section x).occupants).trans (changeSection_keepsTables _ x _)).trans
    ((latch_calm _ .sectionCause).trans (followUp_calm _ s _ _)).keepsTables

theorem stallPasses_keepsTables (r : Record) : KeepsTables s (stallPasses n r s) :=
  (changeRecord_keepsTables s n _).trans ((addMarkIf_calm _ _ .foul n).trans (latch_calm _ .stall)).keepsTables

/-! ### The crest (R48 to R60) -/

theorem assignAtRelease_keepsTables (r : Record) : KeepsTables s (assignAtRelease n r s) := by
  have given : ∀ x why, KeepsTables s (assignTrack n x why s) := fun x why => (assignTrack_moves s n x why).canonical
  unfold assignAtRelease
  split
  · split
    · exact given _ _
    · exact (latch_calm s .needsTrack).keepsTables
  all_goals exact given _ _

theorem released_keepsTables : KeepsTables s (released n s) :=
  (changeRecord_keepsTables s n _).trans (SameTables.keepsTables ⟨rfl, rfl, rfl, rfl, rfl, rfl, rfl, rfl, rfl, rfl⟩)

theorem releaseCut_keepsTables (old : State) : KeepsTables s (releaseCut old n s) := by
  unfold releaseCut
  split
  · exact .refl s
  · exact .ite
      ((((released_keepsTables s n).trans (assignAtRelease_keepsTables _ n _)).trans (redoClaims_keepsTables _ n)).trans
        (followCut_calm _ old n).keepsTables)
      ((changeRecord_keepsTables s n _).trans (SameTables.keepsTables ⟨rfl, rfl, rfl, rfl, rfl, rfl, rfl, rfl, rfl, rfl⟩))

theorem queue_keepsTables (l : List Nat) : KeepsTables s { s with queue := l } :=
  SameTables.keepsTables ⟨rfl, rfl, rfl, rfl, rfl, rfl, rfl, rfl, rfl, rfl⟩

theorem nextSequence_keepsTables : KeepsTables s (nextSequence s) :=
  SameTables.keepsTables ⟨rfl, rfl, rfl, rfl, rfl, rfl, rfl, rfl, rfl, rfl⟩

theorem startGroup_keepsTables (cut : Option Nat) : KeepsTables s (startGroup cut s) :=
  SameTables.keepsTables ⟨rfl, rfl, rfl, rfl, rfl, rfl, rfl, rfl, rfl, rfl⟩

theorem releaseUnlisted_keepsTables (old : State) (o : Origin) : KeepsTables s (releaseUnlisted old o s) := by
  have came : KeepsTables s (withUnlisted s.nextUnlisted o s) :=
    SameTables.keepsTables ⟨rfl, rfl, rfl, rfl, rfl, rfl, rfl, rfl, rfl, rfl⟩
  exact .ite ((latch_calm s .crest).keepsTables.trans (startGroup_keepsTables _ none))
    ((came.trans (releaseCut_keepsTables _ s.nextUnlisted old)).trans (startGroup_keepsTables _ (some s.nextUnlisted)))

theorem firstAxle_keepsTables : KeepsTables s (firstAxle s) := by
  have latched : KeepsTables s (latchIf (s.runState == .standby) .run s) := (latchIf_calm s _ .run).keepsTables
  unfold firstAxle
  generalize latchIf (s.runState == .standby) .run s = u at latched
  refine latched.trans ?_
  dsimp only
  split
  · exact (remnantDue_calm u none).keepsTables.trans (releaseUnlisted_keepsTables _ s _)
  · refine .ite (releaseUnlisted_keepsTables u s _) ?_
    split
    · exact releaseUnlisted_keepsTables u s _
    · rename_i n rest _
      exact ((queue_keepsTables u rest).trans (releaseCut_keepsTables _ n s)).trans (startGroup_keepsTables _ (some n))

theorem commitFollower_keepsTables (c x : Nat) : KeepsTables s (commitFollower c n x s) :=
  KeepsTables.trans (commitLength_moves s x _).canonical (addMarkIf_calm _ _ .overfill c).keepsTables

theorem rehumpGroup_keepsTables (c x : Nat) : KeepsTables s (rehumpGroup c n x s) := by
  rw [rehumpGroup_eq]
  exact ((KeepsTables.trans (setAssignment_moves s c _).canonical (releaseFrom_moves _ _ _).canonical).trans
    (commitLength_moves _ _ _).canonical).trans (addMarkIf_calm _ _ .overfill c).keepsTables

theorem joinPolicyTrack_keepsTables (old : State) (c : Nat) : KeepsTables s (joinPolicyTrack old c n s) := by
  unfold joinPolicyTrack
  split
  · exact .refl s
  · refine .ite ?_ ?_
    · split
      · exact assigned_keepsTables s c old _ _
      · exact .ite
          (((rehumpGroup_keepsTables s n c _).trans (redoClaims_keepsTables _ c)).trans (followCut_calm _ old c).keepsTables)
          (commitFollower_keepsTables s n c _)
    · split
      · exact .refl s
      · exact commitFollower_keepsTables s n c _

theorem joinOutcome_keepsTables (c : Nat) : KeepsTables s (joinOutcome c n s) := by
  unfold joinOutcome
  split
  · exact .refl s
  · split
    · exact (changeRecord_keepsTables s n _).trans (latch_calm _ .lost).keepsTables
    · exact changeRecord_keepsTables s n _
    all_goals exact .refl s

theorem joinCut_keepsTables (c : Nat) : KeepsTables s (joinCut c n s) := by
  have noted : KeepsTables s (latch .crest (changeRecord c (Record.withFollower n)
      (nextSequence (changeRecord n (Record.joinedTo s c) { s with queue := s.queue.drop 1, target := some n })))) :=
    (((((queue_keepsTables s (s.queue.drop 1)).trans (target_calm _ (some n)).keepsTables).trans
      (changeRecord_keepsTables _ n _)).trans (nextSequence_keepsTables _)).trans (changeRecord_keepsTables _ c _)).trans
      (latch_calm _ .crest).keepsTables
  exact .ite (noted.trans (joinPolicyTrack_keepsTables _ n s c)) (noted.trans (joinOutcome_keepsTables _ n c))

theorem countPulse_keepsTables : KeepsTables s (countPulse s) := by
  unfold countPulse
  split
  · exact .refl s
  · rename_i m _
    have counted : KeepsTables s (countAxle m s) := (countAxle_calm s m).keepsTables
    split
    · exact .refl s
    · split
      · exact counted
      · refine .ite counted ?_
        split
        · exact joinCut_keepsTables s _ _
        · exact counted.trans (addMark_calm _ .overcount m).keepsTables

theorem takePulse_keepsTables : KeepsTables s (takePulse s) := by
  have timed := (separation_calm s (some (later s.clock (separationGap s.layout)))).keepsTables
  unfold takePulse
  dsimp only
  split
  · exact timed.trans (firstAxle_keepsTables _)
  · exact timed.trans (countPulse_keepsTables _)

theorem separate_keepsTables : KeepsTables s (separate s) :=
  ((shortTest_calm s).trans (letGo_calm _)).keepsTables.trans (SameTables.keepsTables ⟨rfl, rfl, rfl, rfl, rfl, rfl, rfl, rfl, rfl, rfl⟩)

end

end Sys2Proof.Machine
end

section
/-! Every request, every event and every tick keeps the keyed tables and the layout images canonical (R66, R82, R114, R133, R155). -/

namespace Sys2Proof.Machine

/-! ### The requests (R36 to R47, R79, R144 to R146, R149, R154) -/

section
variable (s : State)

/-- The board after a request, where one of two owners answers it. -/
theorem KeepsTables.owned_ite {c : Prop} [Decidable c] {o p : Owned} (h : KeepsTables s o.1) (k : KeepsTables s p.1) :
    KeepsTables s (if c then o else p).1 := by split <;> assumption

theorem refuse_keepsTables (c : ReplyCode) : KeepsTables s (refuse c s).1 := .refl s

theorem enterRequest_keepsTables (q : EnterBody) : KeepsTables s (enterRequest q s).1 := by
  have listed : KeepsTables s (enterAccepted q s) := SameTables.keepsTables ⟨rfl, rfl, rfl, rfl, rfl, rfl, rfl, rfl, rfl, rfl⟩
  have refused := fun c => refuse_keepsTables s c
  exact .owned_ite s (refused _) (.owned_ite s (refused _) (.owned_ite s (refused _) (.owned_ite s (refused _) (.owned_ite s (refused _) listed))))

theorem setRequested_keepsTables (n x : Nat) : KeepsTables s (setRequested n x s) := (setRequested_calm s n x).keepsTables

theorem amendTrack_keepsTables (n x : Nat) : KeepsTables s (amendTrack n x s) :=
  (((setRequested_keepsTables s n x).trans (reassign_moves _ n x .requested).canonical).trans (redoClaims_keepsTables _ n)).trans
    (followCut_calm _ s n).keepsTables

theorem amendWaiting_keepsTables (n x : Nat) : KeepsTables s (amendWaiting n x s) :=
  (setRequested_keepsTables s n x).trans (assigned_keepsTables _ n s _ _)

theorem amendInTree_keepsTables (q : AmendBody) (r : Record) : KeepsTables s (amendInTree q r s).1 := by
  have refused := fun c => refuse_keepsTables s c
  refine .owned_ite s (refused _) ?_
  split
  · exact amendWaiting_keepsTables s q.cut q.track
  · exact .owned_ite s (setRequested_keepsTables s q.cut q.track) (.owned_ite s (refused _) (.owned_ite s (refused _)
      (amendTrack_keepsTables s q.cut q.track)))

theorem amendRequest_keepsTables (q : AmendBody) : KeepsTables s (amendRequest q s).1 := by
  have refused := fun c => refuse_keepsTables s c
  refine .owned_ite s (refused _) (.owned_ite s (refused _) ?_)
  split
  · exact refused _
  · split
    · exact changeRecord_keepsTables s q.cut (Record.amended q)
    · exact amendInTree_keepsTables s q _
    · exact amendInTree_keepsTables s q _
    · exact amendInTree_keepsTables s q _
    all_goals exact refused _

theorem withdrawRequest_keepsTables (n : Nat) : KeepsTables s (withdrawRequest n s).1 := by
  have refused := fun c => refuse_keepsTables s c
  have gone : KeepsTables s (withdrawn n s) := SameTables.keepsTables ⟨rfl, rfl, rfl, rfl, rfl, rfl, rfl, rfl, rfl, rfl⟩
  exact .owned_ite s (refused _) (.owned_ite s (refused _) (.owned_ite s (refused _) gone))

theorem queryRequest_keepsTables (n : Nat) : KeepsTables s (queryRequest n s).1 :=
  .owned_ite s (refuse_keepsTables s _) (.owned_ite s (refuse_keepsTables s _) (clearUnseen_calm s n).keepsTables)

theorem listRequest_keepsTables (q : ListBody) : KeepsTables s (listRequest q s).1 := .owned_ite s (refuse_keepsTables s _) (.refl s)

theorem collectRequest_keepsTables (n : Nat) : KeepsTables s (collectRequest n s).1 := by
  have refused := fun c => refuse_keepsTables s c
  have gone : KeepsTables s (collected n s) := SameTables.keepsTables ⟨rfl, rfl, rfl, rfl, rfl, rfl, rfl, rfl, rfl, rfl⟩
  exact .owned_ite s (refused _) (.owned_ite s (refused _) (.owned_ite s (refused _) gone))

theorem abandonRequest_keepsTables (n : Nat) : KeepsTables s (abandonRequest n s).1 := by
  have refused := fun c => refuse_keepsTables s c
  exact .owned_ite s (refused _) (.owned_ite s (refused _) (.owned_ite s (refused _)
    ((loseCut_keepsTables s n .abandoned).trans (followUp_calm _ s [] []).keepsTables)))

theorem trackSetRequest_keepsTables (q : TrackSetBody) : KeepsTables s (trackSetRequest q s).1 := by
  unfold trackSetRequest
  split
  · exact refuse_keepsTables s _
  · rename_i x _
    have written : KeepsTables s (trackWritten q.track q.fill x s) := (changeTrack_moves s q.track _).canonical
    exact .owned_ite s (refuse_keepsTables s _) written

theorem trackReadRequest_keepsTables (x : Nat) : KeepsTables s (trackReadRequest x s).1 := .owned_ite s (refuse_keepsTables s _) (.refl s)

theorem sectionReadRequest_keepsTables (x : Nat) : KeepsTables s (sectionReadRequest x s).1 := .owned_ite s (refuse_keepsTables s _) (.refl s)

theorem pointReadRequest_keepsTables (p : Nat) : KeepsTables s (pointReadRequest p s).1 := .owned_ite s (refuse_keepsTables s _) (.refl s)

theorem pointModeRequest_keepsTables (q : ItemValue) : KeepsTables s (pointModeRequest q s).1 := by
  refine .owned_ite s (refuse_keepsTables s _) ?_
  split
  · exact refuse_keepsTables s _
  · rename_i m _
    have set : KeepsTables s (changePoint q.item (fun e => { e with mode := m }) s) := (changePoint_calm s q.item _).keepsTables
    exact .owned_ite s (refuse_keepsTables s _) (.ite (set.trans (followUp_calm _ s _ _).keepsTables) set)

theorem pointThrowRequest_keepsTables (q : ItemValue) : KeepsTables s (pointThrowRequest q s).1 := by
  refine .owned_ite s (refuse_keepsTables s _) ?_
  split
  · exact refuse_keepsTables s _
  · rename_i x _
    have thrown : KeepsTables s (startThrow q.item x s) := (changePoint_calm s q.item _).keepsTables
    exact .owned_ite s (refuse_keepsTables s _) (.owned_ite s (refuse_keepsTables s _)
      (.ite (.refl s) (thrown.trans (followUp_calm _ s _ _).keepsTables)))

theorem pointResetRequest_keepsTables (p : Nat) : KeepsTables s (pointResetRequest p s).1 := by
  refine .owned_ite s (refuse_keepsTables s _) (.owned_ite s (refuse_keepsTables s _) ?_)
  split
  · exact refuse_keepsTables s _
  · exact .owned_ite s (refuse_keepsTables s _) ((startSettle_calm s p _).trans (followUp_calm _ s _ _)).keepsTables

theorem runState_keepsTables (y : RunState) (m : Tree) : KeepsTables s { s with runState := y, tree := m } :=
  SameTables.keepsTables ⟨rfl, rfl, rfl, rfl, rfl, rfl, rfl, rfl, rfl, rfl⟩

theorem enterStandby_keepsTables : KeepsTables s (enterStandby s) :=
  ((((runState_keepsTables s .standby (deriveTree s.layout)).trans (.foldl _ (fun s x => changeSection_keepsTables s x _) _ _)).trans
    (latchIf_calm _ _ .sectionCause).keepsTables).trans (.foldl _ (fun s p => (changePoint_calm s p _).keepsTables) _ _)).trans
    (latchIf_calm _ _ .pointFault).keepsTables

theorem runRequest_keepsTables (q : ItemValue) : KeepsTables s (runRequest q s).1 := by
  unfold runRequest
  split
  · exact refuse_keepsTables s _
  · refine .owned_ite s (refuse_keepsTables s _) (.owned_ite s (.refl s) ?_)
    split
    · exact refuse_keepsTables s _
    · split
      · exact (latch_calm s .run).keepsTables
      · exact enterStandby_keepsTables s
    · exact .owned_ite s (refuse_keepsTables s _) (halt_keepsTables s)
    · exact runState_keepsTables s _ s.tree

theorem resetRequest_keepsTables (u : Unit) : KeepsTables s (resetRequest u s).1 := fun h => by
  have halted := halt_keepsTables s h
  exact ⟨Table.update_wf _ _ _ halted.tracks, halted.channels, halted.sections, halted.claims, halted.detections, halted.points, halted.slots,
    halted.working, halted.active, halted.slotImages, halted.commitImage⟩

theorem statusRequest_keepsTables (u : Unit) : KeepsTables s (statusRequest u s).1 := .refl s

theorem clearFlagsRequest_keepsTables (m : Nat) : KeepsTables s (clearFlagsRequest m s).1 :=
  .owned_ite s (refuse_keepsTables s _) (flags_calm s _ s.enables).keepsTables

theorem enableFlagsRequest_keepsTables (m : Nat) : KeepsTables s (enableFlagsRequest m s).1 :=
  .owned_ite s (refuse_keepsTables s _) (flags_calm s s.flags _).keepsTables

/-! ### The layout requests (R156, R157, R159) -/

theorem layoutLoadRequest_keepsTables (u : Unit) : KeepsTables s (layoutLoadRequest u s).1 := by
  unfold layoutLoadRequest
  split
  · exact refuse_keepsTables s _
  · rename_i m active
    exact (working_calm m fun h => h.active m active).keepsTables

theorem layoutWriteRequest_keepsTables (q : WriteBody) : KeepsTables s (layoutWriteRequest q s).1 :=
  .owned_ite s (refuse_keepsTables s _) (.owned_ite s (refuse_keepsTables s _)
    (working_calm _ fun h => Image.writeBytes_wf _ _ _ h.working).keepsTables)

/-- What a commit programs is the working copy, and the slot it will go to is erased. -/
theorem layoutCommitRequest_keepsTables (q : CommitBody) : KeepsTables s (layoutCommitRequest q s).1 := by
  refine .owned_ite s (refuse_keepsTables s _) (.owned_ite s (refuse_keepsTables s _) (CalmMove.keepsTables ?_))
  exact store_calm s q.slot none (some _) s.lastCommit (fun _ _ => nofun) fun h k hk => Option.some.inj hk ▸ h.working

theorem selectSlot_keepsTables {x : Nat} {c : SlotContents} (held : s.slot x = some c) : KeepsTables s (selectSlot x c s) := fun h =>
  ⟨Table.update_wf _ _ _ h.tracks, h.channels, h.sections, h.claims, h.detections, h.points, h.slots, h.working,
    fun _ hi => Option.some.inj hi ▸ h.slotImages x c held, h.slotImages, h.commitImage⟩

theorem layoutSelectRequest_keepsTables (x : Nat) : KeepsTables s (layoutSelectRequest x s).1 := by
  refine .owned_ite s (refuse_keepsTables s _) (.owned_ite s (refuse_keepsTables s _) ?_)
  split
  · exact refuse_keepsTables s _
  · rename_i c held
    exact .owned_ite s (refuse_keepsTables s _) (selectSlot_keepsTables s held)

theorem layoutReadRequest_keepsTables (q : ReadBody) : KeepsTables s (layoutReadRequest q s).1 := by
  refine .owned_ite s (refuse_keepsTables s _) (.owned_ite s (.refl s) ?_)
  split
  · exact refuse_keepsTables s _
  · exact .refl s

/-! ### The receiver (R160 to R164) -/

variable {s} in
/-- Taking a frame keeps the tables canonical when its owner does (R162). -/
theorem takeRequest_keepsTables {α : Type} {code : Byte} {body : Option α} {owner : α → State → Owned}
    (h : ∀ s q, KeepsTables s (owner q s).1) : KeepsTables s (takeRequest code body owner s) := by
  have hunted : KeepsTables s (hunt s) := (hunt_calm s).keepsTables
  refine .ite (hunted.trans (holdFrame_calm _ code).keepsTables) (.ite (hunted.trans (answering_calm _ code _).keepsTables) ?_)
  cases body with
  | none => exact hunted.trans (answering_calm _ code _).keepsTables
  | some q => exact (hunted.trans (h _ q)).trans (answering_calm _ code _).keepsTables

theorem serveFrame_keepsTables (code : Byte) (body : List Byte) : KeepsTables s (serveFrame code body s) := by
  refine .ite (takeRequest_keepsTables enterRequest_keepsTables) ?_
  refine .ite (takeRequest_keepsTables amendRequest_keepsTables) ?_
  refine .ite (takeRequest_keepsTables withdrawRequest_keepsTables) ?_
  refine .ite (takeRequest_keepsTables queryRequest_keepsTables) ?_
  refine .ite (takeRequest_keepsTables listRequest_keepsTables) ?_
  refine .ite (takeRequest_keepsTables collectRequest_keepsTables) ?_
  refine .ite (takeRequest_keepsTables abandonRequest_keepsTables) ?_
  refine .ite (takeRequest_keepsTables trackSetRequest_keepsTables) ?_
  refine .ite (takeRequest_keepsTables trackReadRequest_keepsTables) ?_
  refine .ite (takeRequest_keepsTables sectionReadRequest_keepsTables) ?_
  refine .ite (takeRequest_keepsTables pointModeRequest_keepsTables) ?_
  refine .ite (takeRequest_keepsTables pointThrowRequest_keepsTables) ?_
  refine .ite (takeRequest_keepsTables pointResetRequest_keepsTables) ?_
  refine .ite (takeRequest_keepsTables pointReadRequest_keepsTables) ?_
  refine .ite (takeRequest_keepsTables runRequest_keepsTables) ?_
  refine .ite (takeRequest_keepsTables resetRequest_keepsTables) ?_
  refine .ite (takeRequest_keepsTables layoutLoadRequest_keepsTables) ?_
  refine .ite (takeRequest_keepsTables layoutWriteRequest_keepsTables) ?_
  refine .ite (takeRequest_keepsTables layoutCommitRequest_keepsTables) ?_
  refine .ite (takeRequest_keepsTables layoutSelectRequest_keepsTables) ?_
  refine .ite (takeRequest_keepsTables layoutReadRequest_keepsTables) ?_
  refine .ite (takeRequest_keepsTables statusRequest_keepsTables) ?_
  refine .ite (takeRequest_keepsTables clearFlagsRequest_keepsTables) ?_
  refine .ite (takeRequest_keepsTables enableFlagsRequest_keepsTables) ?_
  exact takeRequest_keepsTables fun s _ => refuse_keepsTables s _

theorem byteArrives_keepsTables (b : Byte) : KeepsTables s (byteArrives b s) := by
  have start : KeepsTables s (if s.gapPassed then hunt s else s) := .ite (hunt_calm s).keepsTables (.refl s)
  refine start.trans (t := if s.gapPassed then hunt s else s) ?_
  unfold byteArrives
  generalize (if s.gapPassed then hunt s else s) = u
  have hunted : KeepsTables u (hunt u) := (hunt_calm u).keepsTables
  have collected : ∀ l, KeepsTables u (collect l u) := fun l => (collect_calm u l).keepsTables
  unfold receiveByte
  split
  · exact .ite (collected _) (.refl u)
  · exact hunted
  · exact .ite hunted (collected _)
  · refine .ite (collected _) ?_
    unfold completeFrame
    split
    · exact .ite (hunted.trans (serveFrame_keepsTables _ _ _)) hunted
    · exact hunted

/-- Power-on and the reset line: the field lines and the slots stand, and the active slot's image is loaded (R153). -/
theorem restarted_keepsTables : KeepsTables s (restarted s) := fun h => by
  have image : ∀ c, loadable s = some c → Table.wf 0#8 c.image = true := fun c hc => by
    unfold loadable at hc
    dsimp only at hc
    split at hc
    · exact h.slotImages s.activeSlot c hc
    · cases hc
  unfold restarted
  generalize loadable s = l at image
  refine ⟨rfl, h.channels, rfl, rfl, h.detections, rfl, h.slots, ?_, fun i hi => ?_, h.slotImages, nofun⟩
  · cases l with
    | none => rfl
    | some c => exact image c rfl
  · obtain ⟨c, hc, rfl⟩ := Option.map_eq_some_iff.mp (show l.map SlotContents.image = some i from hi)
    exact image c hc

end

/-! ### Every command, and every step -/

/-- Whatever comes of a command, canonical tables stay so. -/
def LeavesCanonical (s : State) (o : Host.Outcome State Fault Refusal) : Prop := ∀ t, o = .next t → KeepsTables s t

section
variable {s t : State}

theorem LeavesCanonical.next (h : KeepsTables s t) : LeavesCanonical s (.next t) := fun _ e => by
  injection e with e
  exact e ▸ h

theorem LeavesCanonical.unchanged (s : State) : LeavesCanonical s (.next s) := .next (.refl s)

theorem LeavesCanonical.finished (h : KeepsTables s t) : LeavesCanonical s (.next (finish t)) := .next (h.trans (finish_calm t).keepsTables)

theorem LeavesCanonical.fault (f : Fault) : LeavesCanonical s (.fault f) := fun _ e => by cases e

theorem LeavesCanonical.ite {c : Prop} [Decidable c] {o p : Host.Outcome State Fault Refusal} (h : LeavesCanonical s o)
    (k : LeavesCanonical s p) : LeavesCanonical s (if c then o else p) := by split <;> assumption

/-- A command that takes effect under a condition, and otherwise leaves the board as it is. -/
theorem LeavesCanonical.guarded {c : Prop} [Decidable c] (h : KeepsTables s t) :
    LeavesCanonical s (if c then .next (finish t) else .next s) := .ite (.finished h) (.unchanged s)

/-- The expiry of a cut's timer, for a cut with a record or without one. -/
theorem LeavesCanonical.ofRecord (n : Nat) {f : Record → Host.Outcome State Fault Refusal} (h : ∀ r, LeavesCanonical s (f r)) :
    LeavesCanonical s (match s.record n with
      | none => .next s
      | some r => f r) := by
  split
  · exact .unchanged s
  · exact h _

end

section
variable (s : State)

theorem execSeparation_canonical : LeavesCanonical s (execSeparation s) := by
  unfold execSeparation
  split
  · exact .unchanged s
  · exact .guarded (separate_keepsTables s)

theorem execCommitComplete_canonical (b : Bool) : LeavesCanonical s (execCommitComplete b s) := by
  unfold execCommitComplete
  split
  · exact .unchanged s
  · rename_i k held
    exact .finished (completeCommit_calm held b).keepsTables

theorem execCommitTimerExpiry_canonical : LeavesCanonical s (execCommitTimerExpiry s) := by
  unfold execCommitTimerExpiry
  split
  · exact .unchanged s
  · exact .guarded (endCommit_calm s _).keepsTables

theorem exec_canonical (c : Instr) : LeavesCanonical s (exec c s) := by
  have hunted : KeepsTables s (hunt s) := (hunt_calm s).keepsTables
  cases c with
  | enter => exact .finished (takeRequest_keepsTables enterRequest_keepsTables)
  | amend => exact .finished (takeRequest_keepsTables amendRequest_keepsTables)
  | withdraw => exact .finished (takeRequest_keepsTables withdrawRequest_keepsTables)
  | query => exact .finished (takeRequest_keepsTables queryRequest_keepsTables)
  | list => exact .finished (takeRequest_keepsTables listRequest_keepsTables)
  | collect => exact .finished (takeRequest_keepsTables collectRequest_keepsTables)
  | abandon => exact .finished (takeRequest_keepsTables abandonRequest_keepsTables)
  | trackSet => exact .finished (takeRequest_keepsTables trackSetRequest_keepsTables)
  | trackRead => exact .finished (takeRequest_keepsTables trackReadRequest_keepsTables)
  | sectionRead => exact .finished (takeRequest_keepsTables sectionReadRequest_keepsTables)
  | pointMode => exact .finished (takeRequest_keepsTables pointModeRequest_keepsTables)
  | pointThrow => exact .finished (takeRequest_keepsTables pointThrowRequest_keepsTables)
  | pointReset => exact .finished (takeRequest_keepsTables pointResetRequest_keepsTables)
  | pointRead => exact .finished (takeRequest_keepsTables pointReadRequest_keepsTables)
  | run => exact .finished (takeRequest_keepsTables runRequest_keepsTables)
  | warmReset => exact .finished (takeRequest_keepsTables resetRequest_keepsTables)
  | layoutLoad => exact .finished (takeRequest_keepsTables layoutLoadRequest_keepsTables)
  | layoutWrite => exact .finished (takeRequest_keepsTables layoutWriteRequest_keepsTables)
  | layoutCommit => exact .finished (takeRequest_keepsTables layoutCommitRequest_keepsTables)
  | layoutSelect => exact .finished (takeRequest_keepsTables layoutSelectRequest_keepsTables)
  | layoutRead => exact .finished (takeRequest_keepsTables layoutReadRequest_keepsTables)
  | status => exact .finished (takeRequest_keepsTables statusRequest_keepsTables)
  | clearFlags => exact .finished (takeRequest_keepsTables clearFlagsRequest_keepsTables)
  | enableFlags => exact .finished (takeRequest_keepsTables enableFlagsRequest_keepsTables)
  | unknownCode code body => exact .finished (serveFrame_keepsTables s code body)
  | requestHeld code body => exact .finished (serveFrame_keepsTables s code body)
  | interByteGap b => exact .finished (byteArrives_keepsTables s b)
  | startByte b => exact .finished (byteArrives_keepsTables s b)
  | badLengthByte b => exact .finished (byteArrives_keepsTables s b)
  | frameBadCheck => exact .next hunted
  | badStopBit => exact .next hunted
  | answerSent => exact .next (sent_calm s).keepsTables
  | powerOn => exact .finished (restarted_keepsTables s)
  | resetLine => exact .finished (restarted_keepsTables s)
  | axlePulse => exact .guarded (takePulse_keepsTables s)
  | separation => exact execSeparation_canonical s
  | sectionOccupied n => exact .ite (.fault _) (.ite (.unchanged s) (.finished (inputChanges_keepsTables s n true)))
  | sectionClear n => exact .ite (.fault _) (.guarded (inputChanges_keepsTables s n false))
  | provingTimerExpiry x => exact .guarded (provingExpires_keepsTables s x)
  | stallDeadlineExpiry n => exact .ofRecord n fun r => .guarded (stallPasses_keepsTables s n r)
  | standTimerExpiry n => exact .ofRecord n fun _ => .guarded (standPasses_calm s n).keepsTables
  | lastMomentExpiry n => exact .ofRecord n fun r => .guarded (lastMomentExpires_keepsTables s n r)
  | detectionChange d i on => exact .ite (.fault _) (.ite (.unchanged s) (.finished (detectionChanges_calm s d i on).keepsTables))
  | throwLimitExpiry p => exact .guarded (limitPasses_calm s p).keepsTables
  | settleTimerExpiry p => exact .guarded ((changePoint_calm s p _).trans (followUp_calm _ s [] [])).keepsTables
  | idleTimerExpiry p => exact .guarded (idlePasses_calm s p).keepsTables
  | commitComplete b => exact execCommitComplete_canonical s b
  | commitTimerExpiry => exact execCommitTimerExpiry_canonical s

theorem step_canonical : LeavesCanonical s (step s) := by
  unfold step
  split
  · exact .next (tick_calm s).keepsTables
  · rename_i c rest _
    exact fun t h => (pending_calm s rest).keepsTables.trans (exec_canonical _ c t h)

end

/-- Settles O6: `exec_canonical` for the command at the front of the queue, and the tick, which changes no table. -/
theorem stepsKeepTablesCanonical : Obligations.StepsKeepTablesCanonical := fun s t h next => step_canonical s t next h

end Sys2Proof.Machine
end

section
/-! Tracks: their condition and room, the release assignment with its chain of alternates, TRACK SET, and LAYOUT SELECT (R66 to R71, R79, R159). -/

namespace Sys2Proof.Machine

/-! ### Condition and room (R67, R68) -/

section
variable (s : State) (x len : Nat)

theorem setting_ne_closed (e : TrackEntry) : ¬ e.setting = .closed ↔ e.setting = .opened := by cases e.setting <;> simp

theorem trackCondition_closed_iff : s.trackCondition x = .closed ↔ (s.track x).setting = .closed ∨ trackUsed s.layout x = false := by
  unfold State.trackCondition
  split
  · simpa
  · rename_i takes
    refine ⟨fun e => ?_, fun shut => absurd shut takes⟩
    split at e <;> cases e

theorem trackCondition_near_iff : s.trackCondition x = .near
    ↔ (s.track x).setting = .opened ∧ trackUsed s.layout x = true ∧ s.freeLength x < nearMargin s.layout x := by
  unfold State.trackCondition
  split
  · rename_i shut
    refine ⟨nofun, fun ⟨on, used, _⟩ => ?_⟩
    rw [on, used] at shut
    rcases shut with e | e <;> cases e
  · rename_i takes
    rw [not_or, setting_ne_closed, Bool.not_eq_false] at takes
    split <;> simp [*]

theorem freeLength_eq : (s.freeLength x : Int)
    = max 0 ((capacity s.layout x : Int) - (s.track x).fill - min (s.track x).committed 65535) := by
  unfold State.freeLength State.committedLength
  omega

theorem canTake_iff : s.canTake x len = true ↔ (s.track x).setting = .opened ∧ trackUsed s.layout x = true ∧ len ≤ s.freeLength x := by
  unfold State.canTake
  rw [Bool.and_eq_true, bne_iff_ne, decide_eq_true_eq, ne_eq, trackCondition_closed_iff, not_or, setting_ne_closed, Bool.not_eq_false, and_assoc]

end

/-! ### The release assignment (R70, R71) -/

section
variable {s : State} {x len hops a : Nat} {seen : List Nat}

/-- An alternate not looked at before that can take the length is chosen. -/
theorem alternateChain_takes (h : a = alternateTrack s.layout x) (some_ : a ≠ 0) (new : a ∉ seen) (takes : s.canTake a len = true) :
    alternateChain s len (hops + 1) x seen = some a := by
  subst h
  simp [alternateChain, some_, new, takes]

/-- From one that cannot take the length the chain goes on. -/
theorem alternateChain_goes_on (h : a = alternateTrack s.layout x) (some_ : a ≠ 0) (new : a ∉ seen) (full : s.canTake a len = false) :
    alternateChain s len (hops + 1) x seen = alternateChain s len hops a (a :: seen) := by
  subst h
  simp [alternateChain, some_, new, full]

/-- The chain ends where there is no alternate, or one looked at before. -/
theorem alternateChain_ends (h : a = alternateTrack s.layout x) (ends : a = 0 ∨ a ∈ seen) : alternateChain s len (hops + 1) x seen = none := by
  subst h
  simp [alternateChain, ends]

theorem releaseChoice_requested (used : trackUsed s.layout x = true) (takes : s.canTake x len = true) :
    releaseChoice s x len = { track := x, reason := .requested } := by
  simp [releaseChoice, used, takes]

theorem releaseChoice_unused (unused : trackUsed s.layout x = false) :
    releaseChoice s x len = { track := defaultTrack s.layout, reason := .defaultFull } := by
  simp [releaseChoice, unused]

theorem releaseChoice_alternate (used : trackUsed s.layout x = true) (full : s.canTake x len = false)
    (found : alternateChain s len 3 x [x] = some a) : releaseChoice s x len = { track := a, reason := .alternate } := by
  simp [releaseChoice, used, full, found]

theorem releaseChoice_default (used : trackUsed s.layout x = true) (full : s.canTake x len = false)
    (none_ : alternateChain s len 3 x [x] = none) : releaseChoice s x len = { track := defaultTrack s.layout, reason := .defaultFull } := by
  simp [releaseChoice, used, full, none_]

end

/-- Settles O32: the iffs on condition and room, and the chain followed one alternate at a time. -/
theorem tracksAndTheReleaseAssignment : Obligations.TracksAndTheReleaseAssignment := by
  refine ⟨fun s x len => ⟨trackCondition_closed_iff s x, trackCondition_near_iff s x, freeLength_eq s x, canTake_iff s x len⟩,
    fun s x len => ⟨releaseChoice_requested, releaseChoice_unused, fun used full a b c ha hb hc => ?_⟩⟩
  refine ⟨fun a0 ax takes => ?_, fun a0 ax fullA b0 bx ba takes => ?_, fun a0 ax fullA b0 bx ba fullB c0 cx ca cb takes => ?_, fun ends => ?_⟩
  · exact releaseChoice_alternate used full (alternateChain_takes ha a0 (by simp [ax]) takes)
  · refine releaseChoice_alternate used full ((alternateChain_goes_on ha a0 (by simp [ax]) fullA).trans ?_)
    exact alternateChain_takes hb b0 (by simp [ba, bx]) takes
  · refine releaseChoice_alternate used full ((alternateChain_goes_on ha a0 (by simp [ax]) fullA).trans ?_)
    refine (alternateChain_goes_on hb b0 (by simp [ba, bx]) fullB).trans ?_
    exact alternateChain_takes hc c0 (by simp [cb, ca, cx]) takes
  · refine releaseChoice_default used full ?_
    by_cases endA : a = 0 ∨ a = x
    · exact alternateChain_ends ha (by simpa using endA)
    obtain ⟨a0, ax⟩ := not_or.mp endA
    obtain ⟨fullA, ends⟩ := (ends.resolve_left a0).resolve_left ax
    rw [alternateChain_goes_on ha a0 (by simp [ax]) fullA]
    by_cases endB : b = 0 ∨ b = a ∨ b = x
    · exact alternateChain_ends hb (by simpa using endB)
    obtain ⟨b0, ba, bx⟩ : b ≠ 0 ∧ b ≠ a ∧ b ≠ x := by simpa using endB
    obtain ⟨fullB, ends⟩ := ((ends.resolve_left b0).resolve_left bx).resolve_left ba
    rw [alternateChain_goes_on hb b0 (by simp [ba, bx]) fullB]
    by_cases endC : c = 0 ∨ c = b ∨ c = a ∨ c = x
    · exact alternateChain_ends hc (by simpa using endC)
    obtain ⟨c0, cb, ca, cx⟩ : c ≠ 0 ∧ c ≠ b ∧ c ≠ a ∧ c ≠ x := by simpa using endC
    have fullC := (((ends.resolve_left c0).resolve_left cx).resolve_left ca).resolve_left cb
    exact alternateChain_goes_on hc c0 (by simp [cb, ca, cx]) fullC

/-! ### TRACK SET (R79) -/

section
variable {s : State} {x fill : Nat}

theorem parseTrackSet_bytes (hx : x < 256) (hi lo setting : Byte) :
    parseTrackSet (byte1 x ++ [hi, lo, setting]) = some { track := x, fill := numOf2 hi lo, setting := setting.toNat } := by
  simp only [parseTrackSet, byte1, List.cons_append, List.nil_append, toNat_byte hx]

theorem settingOf_none {n : Nat} (h : 1 < n) : settingOf n = none := by
  match n, h with
  | _ + 2, _ => rfl

theorem trackSetRequest_refused {q : TrackSetBody} (h : 1 < q.setting ∨ trackUsed s.layout q.track = false) :
    trackSetRequest q s = refuse .badValue s := by
  unfold trackSetRequest
  split
  · rfl
  · rename_i setting known
    rcases h with h | h
    · rw [settingOf_none h] at known
      cases known
    · exact if_pos h

/-- The setting of a switch. -/
theorem settingOf_byteBool (on : Bool) : settingOf (if on then 1#8 else 0#8 : Byte).toNat = some (if on then .opened else .closed) := by
  cases on <;> rfl

theorem trackSetRequest_accepted {q : TrackSetBody} {setting : TrackSetting} (known : settingOf q.setting = some setting)
    (used : trackUsed s.layout q.track = true) : trackSetRequest q s
      = accept (trackImage (trackWritten q.track q.fill setting s) q.track) (trackWritten q.track q.fill setting s) := by
  simp [trackSetRequest, known, used]

/-- TRACK_NEAR latches for a passage from OPEN to NEAR alone (R67). -/
theorem changeTrack_flags (f : TrackEntry → TrackEntry) : (changeTrack x f s).flags
    = if s.trackCondition x = .opened ∧ (changeTrack x f s).trackCondition x = .near then s.flags ||| 0x100 else s.flags := by
  have read : (changeTrack x f s).trackCondition x
      = ({ s with tracks := Table.write TrackEntry.initial s.tracks x (f (s.track x)) } : State).trackCondition x := by
    unfold changeTrack latchIf
    dsimp only
    split <;> rfl
  rw [read]
  unfold changeTrack
  rw [latchIf_flags]
  simp only [Bool.and_eq_true, beq_iff_eq]
  rfl

/-- A change of a track's entry touches the tracks and the flags. -/
theorem changeTrack_frame (x : Nat) (f : TrackEntry → TrackEntry) (s : State) :
    changeTrack x f s = { s with tracks := (changeTrack x f s).tracks, flags := (changeTrack x f s).flags } := by
  unfold changeTrack latchIf
  dsimp only
  split <;> rfl

/-- The board after an answer to a request that changed a track. -/
theorem answered_track {w : State} (only : w = { hunt s with tracks := w.tracks, flags := w.flags }) (code : Byte) (body : List Byte) :
    finish (answering code body w) = { s with
      receiver := .hunting, inHand := (finish (answering code body w)).inHand, tracks := (finish (answering code body w)).tracks
      flags := (finish (answering code body w)).flags, humpPermit := (finish (answering code body w)).humpPermit
      attentionLine := (finish (answering code body w)).attentionLine } := by
  obtain ⟨tracks, flags, rfl⟩ : ∃ tracks flags, w = { hunt s with tracks := tracks, flags := flags } := ⟨_, _, only⟩
  rfl

end

/-- Settles O31: the two ways of `trackSetRequest`, and what a change of a track's entry makes of the entries and the flags. -/
theorem trackSetWritesFillAndSetting : Obligations.TrackSetWritesFillAndSetting := by
  have served : ∀ (s : State) {x : Nat} (hi lo setting : Byte), x < 256 → exec (.trackSet (byte1 x ++ [hi, lo, setting])) s
      = .next (finish (takeRequest 0x20#8 (some { track := x, fill := numOf2 hi lo, setting := setting.toNat }) trackSetRequest s)) :=
    fun s x hi lo setting hx => by rw [← parseTrackSet_bytes hx hi lo setting]; rfl
  refine ⟨fun s x hi lo setting ready hx wrong => ?_, fun s x fill on ready used hf => ?_⟩
  · rw [served s hi lo setting hx, take_refused ready (by decide) (c := .badValue) (trackSetRequest_refused (s := hunt s) wrong)]
    rfl
  · have accepted := trackSetRequest_accepted (s := hunt s)
      (q := { track := x, fill := fill, setting := (if on then 1#8 else 0#8 : Byte).toNat }) (settingOf_byteBool on) used
    have entry := track_changeTrack (hunt s) x fun e => { e with fill := fill, setting := if on then .opened else .closed }
    have body : exec (.trackSet (byte1 x ++ byte2 fill ++ byteBool on)) s = _ :=
      served s (BitVec.ofNat 8 (fill / 256)) (BitVec.ofNat 8 fill) (if on then 1#8 else 0#8) (track_lt (.inr used))
    rw [numOf2_byte2 hf, take_accepted ready accepted] at body
    refine ⟨_, body, (entry x).trans (if_pos rfl), fun y hy => (entry y).trans (if_neg hy), ?_, rfl, answered_track (changeTrack_frame x _ (hunt s)) _ _⟩
    exact changeTrack_flags (s := hunt s) (x := x) _

/-! ### LAYOUT SELECT (R159) -/

theorem parseItem_byte1 {x : Nat} (hx : x < 256) : parseItem (byte1 x) = some x := congrArg some (toNat_byte hx)

section
variable {s : State} {x : Nat}

theorem layoutSelectRequest_running (running : s.runState ≠ .halted) : layoutSelectRequest x s = refuse .runState s := if_pos running

theorem layoutSelectRequest_beyond (halted : s.runState = .halted) (beyond : 2 < x) : layoutSelectRequest x s = refuse .badValue s := by
  simp [layoutSelectRequest, halted, beyond]

theorem layoutSelectRequest_failed (halted : s.runState = .halted) (hx : x ≤ 2) (fails : headerCheck (s.slot x) = false) :
    layoutSelectRequest x s = refuse .notFound s := by
  unfold layoutSelectRequest
  rw [if_neg (by simp [halted]), if_neg (Nat.not_lt.mpr hx)]
  split
  · rfl
  · rename_i c held
    rw [held] at fails
    exact if_pos fails

theorem layoutSelectRequest_accepted {c : SlotContents} (halted : s.runState = .halted) (hx : x ≤ 2) (held : s.slot x = some c)
    (passes : headerCheck (some c) = true) :
    layoutSelectRequest x s = accept (byte1 x ++ byte2 c.generation.toNat ++ c.name) (selectSlot x c s) := by
  simp [layoutSelectRequest, halted, Nat.not_lt.mpr hx, held, passes]

/-- Every track is CLOSED with nothing committed, its fill kept (R66). -/
theorem selectSlot_track (x : Nat) (c : SlotContents) (canonical : Canonical s) (y : Nat) :
    (selectSlot x c s).track y = { fill := (s.track y).fill, committed := 0, setting := .closed } := by
  have rising := ((Bool.and_eq_true _ _).mp canonical.tracks).1
  exact Table.read_update TrackEntry.initial TrackEntry.closeForSelect (by rfl) s.tracks rising y

end

/-- Settles O43: each way of `layoutSelectRequest`, through the link. -/
theorem layoutSelectActivates : Obligations.LayoutSelectActivates := by
  have served : ∀ (s : State) {x : Nat}, x < 256 → exec (.layoutSelect (byte1 x)) s
      = .next (finish (takeRequest 0x53#8 (some x) layoutSelectRequest s)) := fun s x hx => by rw [← parseItem_byte1 hx]; rfl
  refine ⟨fun s x ready hx => ⟨fun running => ?_, fun halted beyond => ?_, fun halted low fails => ?_⟩,
    fun s x c ready canonical halted low held passes => ?_⟩
  · rw [served s hx, take_refused ready (by decide) (layoutSelectRequest_running (s := hunt s) running)]
    rfl
  · rw [served s hx, take_refused ready (by decide) (layoutSelectRequest_beyond (s := hunt s) halted beyond)]
    rfl
  · rw [served s hx, take_refused ready (by decide) (layoutSelectRequest_failed (s := hunt s) halted low fails)]
    rfl
  · have body := served s (Nat.lt_of_le_of_lt low (by decide))
    rw [take_accepted ready (layoutSelectRequest_accepted (s := hunt s) halted low held passes)] at body
    exact ⟨_, body, rfl, rfl, rfl, selectSlot_track (s := hunt s) x c ((hunt_calm s).canonical canonical), rfl, rfl⟩

end Sys2Proof.Machine
end

section
/-! The reading requests: STATUS, TRACK READ, SECTION READ, POINT READ and LAYOUT READ (R80, R102, R147, R156, R173). -/

namespace Sys2Proof.Machine

/-! ### Reads (R162, R163) -/

section
variable {α : Type} {s : State} {code : Byte} {owner : α → State → Owned}

/-- A request that is accepted and changes nothing is answered, and that is all. -/
theorem take_read (ready : Ready s) (hc : code.toNat < 0x80) {q : α} {body : List Byte} (accepted : owner q (hunt s) = accept body (hunt s)) :
    takeRequest code (some q) owner s = answeredBy code (0x00#8 :: body) s :=
  (take_accepted ready accepted).trans (answering_hunt hc _)

/-- STATUS is answered while the store is COMMITTING too (R158). -/
theorem take_status (free : s.inHand = none) :
    takeRequest statusCode (some ()) statusRequest s = answeredBy statusCode (0x00#8 :: statusImage s) s :=
  (takeRequest_status s statusRequest () free).trans (answering_hunt (by decide) _)

end

section
variable {s : State} {n : Nat}

theorem trackReadRequest_beyond (h : n = 0 ∨ 64 < n) : trackReadRequest n s = refuse .badValue s := if_pos (by omega)

theorem trackReadRequest_in (low : 1 ≤ n) (high : n ≤ 64) : trackReadRequest n s = accept (trackImage s n) s := if_neg (by omega)

theorem sectionReadRequest_beyond (h : n = 0 ∨ 128 < n) : sectionReadRequest n s = refuse .badValue s := if_pos (by omega)

theorem sectionReadRequest_in (low : 1 ≤ n) (high : n ≤ 128) : sectionReadRequest n s = accept (sectionImage s n) s := if_neg (by omega)

theorem pointReadRequest_beyond (h : n = 0 ∨ 63 < n) : pointReadRequest n s = refuse .badValue s := if_pos (by omega)

theorem pointReadRequest_in (low : 1 ≤ n) (high : n ≤ 63) : pointReadRequest n s = accept (pointImage s n) s := if_neg (by omega)

end

/-! ### LAYOUT READ (R156, R166) -/

section
variable {s : State} {source page half : Nat}

theorem parseRead_bytes (hs : source < 256) (hp : page < 256) (hh : half < 256) :
    parseRead (byte1 source ++ byte1 page ++ byte1 half) = some { source := source, page := page, half := half } := by
  simp only [parseRead, byte1, List.cons_append, List.nil_append, toNat_byte hs, toNat_byte hp, toNat_byte hh]

theorem halfOk_iff : halfOk page half = true ↔ page ≤ 8 ∧ half ≤ 1 := by simp [halfOk]

theorem layoutReadRequest_beyond (h : 1 < source ∨ 8 < page ∨ 1 < half) :
    layoutReadRequest { source := source, page := page, half := half } s = refuse .badValue s := by
  refine if_pos ?_
  rw [← Bool.not_eq_true, halfOk_iff]
  show source > 1 ∨ ¬(page ≤ 8 ∧ half ≤ 1)
  omega

/-- A half page of the image is answered, from either source. -/
theorem layoutReadRequest_in (hs : source ≤ 1) (hp : page ≤ 8) (hh : half ≤ 1) :
    layoutReadRequest { source := source, page := page, half := half } s
      = if source = 1 then accept (halfBytes { source := source, page := page, half := half } s.working) s
        else match s.active with
          | none => refuse .notFound s
          | some m => accept (halfBytes { source := source, page := page, half := half } m) s :=
  if_neg (by simp [halfOk_iff.mpr ⟨hp, hh⟩, Nat.not_lt.mpr hs])

theorem layoutReadRequest_working (hp : page ≤ 8) (hh : half ≤ 1) :
    layoutReadRequest { source := 1, page := page, half := half } s
      = accept (byte1 page ++ byte1 half ++ Image.readBytes s.working (page * 256 + half * 128) 128) s :=
  (layoutReadRequest_in (Nat.le_refl 1) hp hh).trans (if_pos rfl)

theorem layoutReadRequest_active (hp : page ≤ 8) (hh : half ≤ 1) {m : Image} (active : s.active = some m) :
    layoutReadRequest { source := 0, page := page, half := half } s
      = accept (byte1 page ++ byte1 half ++ Image.readBytes m (page * 256 + half * 128) 128) s := by
  rw [layoutReadRequest_in (Nat.zero_le 1) hp hh, active]
  rfl

theorem layoutReadRequest_none (hp : page ≤ 8) (hh : half ≤ 1) (none_ : s.active = none) :
    layoutReadRequest { source := 0, page := page, half := half } s = refuse .notFound s := by
  rw [layoutReadRequest_in (Nat.zero_le 1) hp hh, none_]
  rfl

end

/-- Settles O20: each reading request in range and beyond it, through the link. -/
theorem readsChangeNothing : Obligations.ReadsChangeNothing := by
  have track : ∀ (s : State) {n : Nat}, n < 256 →
      exec (.trackRead (byte1 n)) s = .next (finish (takeRequest 0x21#8 (some n) trackReadRequest s)) :=
    fun s n hn => by rw [← parseItem_byte1 hn]; rfl
  have sect : ∀ (s : State) {n : Nat}, n < 256 →
      exec (.sectionRead (byte1 n)) s = .next (finish (takeRequest 0x28#8 (some n) sectionReadRequest s)) :=
    fun s n hn => by rw [← parseItem_byte1 hn]; rfl
  have point : ∀ (s : State) {n : Nat}, n < 256 →
      exec (.pointRead (byte1 n)) s = .next (finish (takeRequest 0x33#8 (some n) pointReadRequest s)) :=
    fun s n hn => by rw [← parseItem_byte1 hn]; rfl
  have layout : ∀ (s : State) {source page half : Nat}, source < 256 → page < 256 → half < 256 →
      exec (.layoutRead (byte1 source ++ byte1 page ++ byte1 half)) s
        = .next (finish (takeRequest 0x54#8 (some { source := source, page := page, half := half }) layoutReadRequest s)) :=
    fun s source page half hs hp hh => by rw [← parseRead_bytes hs hp hh]; rfl
  refine ⟨fun s n source page half ready hn hs hp hh => ⟨fun h => ?_, fun h => ?_, fun h => ?_, fun h => ?_, fun h p1 h1 none_ => ?_⟩,
    fun s free => ⟨?_, fun idle n low => ⟨fun high => ?_, fun high => ?_, fun high => ?_⟩, fun idle page half hp hh => ⟨?_, fun m active => ?_⟩⟩⟩
  · rw [track s hn, take_refused ready (by decide) (trackReadRequest_beyond h)]
    rfl
  · rw [sect s hn, take_refused ready (by decide) (sectionReadRequest_beyond h)]
    rfl
  · rw [point s hn, take_refused ready (by decide) (pointReadRequest_beyond h)]
    rfl
  · rw [layout s hs hp hh, take_refused ready (by decide) (layoutReadRequest_beyond h)]
    rfl
  · subst h
    rw [layout s hs hp hh, take_refused ready (by decide) (layoutReadRequest_none (s := hunt s) p1 h1 none_)]
    rfl
  · exact congrArg (fun u => Host.Outcome.next (finish u)) (take_status free)
  · rw [track s (by omega), take_read ⟨free, idle⟩ (by decide) (trackReadRequest_in low high)]
    rfl
  · rw [sect s (by omega), take_read ⟨free, idle⟩ (by decide) (sectionReadRequest_in low high)]
    rfl
  · rw [point s (by omega), take_read ⟨free, idle⟩ (by decide) (pointReadRequest_in low high)]
    rfl
  · rw [layout s (by decide) (by omega) (by omega), take_read ⟨free, idle⟩ (by decide) (layoutReadRequest_working hp hh)]
    rfl
  · rw [layout s (by decide) (by omega) (by omega), take_read ⟨free, idle⟩ (by decide) (layoutReadRequest_active (s := hunt s) hp hh active)]
    rfl

end Sys2Proof.Machine
end

section
/-! A last-moment expiry that concedes, and that of a cut waiting for its track (R72, R75, R119, R122, R124, R130). -/

namespace Sys2Proof.Machine

/-! ### The expected position (R124) -/

section
variable {s : State} {p n : Nat} {ahead behind : List Claim} {c : Claim} {x : Position}

/-- The claims ahead of a cut are those in front of its own (R114). -/
theorem claimsAhead_eq (queue : s.claimsAt p = ahead ++ c :: behind) (own : c.cut = n) (others : ∀ d ∈ ahead, d.cut ≠ n) :
    s.claimsAhead p n = ahead := by
  unfold State.claimsAhead
  rw [queue, List.takeWhile_append_of_pos fun d hd => by simpa using others d hd, List.takeWhile_cons_of_neg (by simp [own]), List.append_nil]

theorem expectedPosition_ahead {front : List Claim} {d : Claim} (ahead : s.claimsAhead p n = front ++ [d]) :
    s.expectedPosition p n = some d.position := by
  simp [State.expectedPosition, ahead]

theorem expectedPosition_moving (none_ : s.claimsAhead p n = []) (moving : (s.point p).state = .throwing ∨ (s.point p).state = .settling) :
    s.expectedPosition p n = (s.point p).target := by
  simp [State.expectedPosition, none_, moving]

theorem expectedPosition_still (none_ : s.claimsAhead p n = []) (throwing : (s.point p).state ≠ .throwing)
    (settling : (s.point p).state ≠ .settling) : s.expectedPosition p n = s.detection p := by
  simp [State.expectedPosition, none_, throwing, settling]

theorem detection_at (lies : s.detected p = .at x) : s.detection p = some x := by simp [State.detection, lies]

theorem detection_unknown (lies : s.detected p = .none ∨ s.detected p = .both) : s.detection p = none := by
  rcases lies with e | e <;> simp [State.detection, e]

end

/-! ### A concession (R124) -/

section
variable (s : State) {n p : Nat} {r : Record}

/-- With no throw decision due, none named by the event, no point changes. -/
theorem followUp_points_still {old : State} (cs : List Nat) (still : ∀ q, decisionDue old s q = false) :
    (followUp old [] cs s).points = s.points := by
  rw [followUp_points]
  unfold takeDecisions
  rw [List.filter_eq_nil_iff.mpr fun q _ => by simp [still q]]
  rfl

/-- A claim rewritten in its place, with its position, leaves the head claim as throw decisions read it. -/
theorem headClaim_rewriteClaim (f : Claim → Claim) (cut : ∀ c, (f c).cut = c.cut) (position : ∀ c, (f c).position = c.position) (q : Nat) :
    (rewriteClaim p n f s).headClaim q = s.headClaim q := by
  unfold State.headClaim rewriteClaim
  rw [claimsAt_setClaims]
  split
  · rename_i here
    subst here
    cases s.claimsAt q with
    | nil => rfl
    | cons c l =>
      simp only [List.map_cons, List.head?_cons, Option.map_some]
      split <;> simp [cut, position]
  · rfl

/-- A concession calls for no throw decision. -/
theorem decisionDue_concede (q : Nat) : decisionDue s (concede n p s) q = false := by
  have head : (concede n p s).headClaim q = s.headClaim q :=
    headClaim_rewriteClaim s (fun c => { c with spent := true }) (fun _ => rfl) (fun _ => rfl) q
  have locked : (concede n p s).locked q = s.locked q := rfl
  have point : (concede n p s).point q = s.point q := rfl
  unfold decisionDue
  rw [head, locked, point]
  simp

theorem concede_replans : Replans n s (concede n p s) := rewriteClaim_replans s n p (fun c => { c with spent := true }) fun _ => rfl

theorem concede_claimsAt {q : Nat} (ne : q ≠ p) : (concede n p s).claimsAt q = s.claimsAt q :=
  (claimsAt_setClaims s p _ q).trans (if_neg ne)

theorem concede_claimOf {c : Claim} (held : s.claimOf p n = some c) : (concede n p s).claimOf p n = some { c with spent := true } := by
  unfold concede
  rw [claimOf_rewriteClaim s p n (fun c => { c with spent := true }) (fun _ => rfl), if_pos ⟨rfl, rfl⟩, held]
  rfl

theorem lastMomentExpires_concedes {a : Assignment} {c : Claim} (ha : r.assigned = some a) (hw : r.watch = some p) (hc : s.claimOf p n = some c)
    (he : s.expectedPosition p n = some c.position) : lastMomentExpires n r s = followUp s [] [n] (concede n p s) := by
  simp [lastMomentExpires, ha, hw, expireAt, hc, he]

/-! ### A cut waiting for its track (R75, R130) -/

/-- The group of a cut that waits is sent to the default track. -/
theorem lastMomentExpires_waiting (hr : s.record n = some r) (ht : r.state.inTree = true) (waiting : r.assigned = none) :
    GroupSent n (defaultTrack s.layout) .defaultNoTrack r s (lastMomentExpires n r s) := by
  have none_ : s.assignedTrack n = none := by simp [State.assignedTrack, hr, waiting]
  have expires : lastMomentExpires n r s = expireWaiting n s := by simp [lastMomentExpires, waiting]
  rw [expires, expireWaiting, assignTrack_eq s none_]
  exact groupSent s .defaultNoTrack hr ht (by rw [none_]; nofun)

end

/-- Settles O58: the four items of R124, the concession, and the group sent to the default track. -/
theorem concessionsAndWaitingCuts : Obligations.ConcessionsAndWaitingCuts := by
  refine ⟨fun s p n ahead c behind queue own others => ?_, fun s n p r l c a hr ht running due_ ha hw hc he => ?_,
    fun s n r l hr ht running due_ waiting => ?_⟩
  · have front := claimsAhead_eq queue own others
    refine ⟨fun _ _ e => expectedPosition_ahead (front.trans e), fun e => expectedPosition_moving (front.trans e),
      fun e throwing settling => ⟨fun x lies => ?_, fun lies => ?_⟩⟩
    · exact (expectedPosition_still (front.trans e) throwing settling).trans (detection_at lies)
    · exact (expectedPosition_still (front.trans e) throwing settling).trans (detection_unknown lies)
  · obtain ⟨t, w, run, record, agrees, chosen, claims, tracks, -, -, frame⟩ := followed_spec (concede_replans s (p := p)) (q := r) hr []
    have points : t.points = s.points := by
      rw [← run]
      exact followUp_points_still (concede n p s) [n] fun q => decisionDue_concede s q
    have claim : ∀ q m, t.claimOf q m = (concede n p s).claimOf q m := fun q m => congrArg (List.find? _) (claims q)
    refine ⟨t, w, ?_, record, (claim p n).trans (concede_claimOf s hc), fun q ne => (claims q).trans (concede_claimsAt s ne),
      fun m ne => (claim p m).trans ((concede_replans s).others p m ne), ?_, tracks, points, fun moving => ⟨?_, chosen moving⟩, ?_⟩
    · rw [exec_lastMomentExpiry s hr ht running due_, lastMomentExpires_concedes s ha hw hc he, run]
    · rw [agrees]
      exact ⟨rfl, rfl, rfl⟩
    · rw [agrees]
    · rwa [tracks, points] at frame
  · have sent := lastMomentExpires_waiting s hr ht waiting
    obtain ⟨v, hv, cut, chosen⟩ := sent.cut
    have none_ : s.assignedTrack n = none := by simp [State.assignedTrack, hr, waiting]
    have track := sent.track
    simp only [none_] at track
    refine ⟨_, v, exec_lastMomentExpiry s hr ht running due_, hv, ?_, ?_, ?_, ?_, fun y ne => ?_, fun m hm => ?_, sent.claims,
      fun moving => ⟨?_, chosen moving⟩, finish_replans_frame s n sent.replans⟩
    · rw [cut]
    · rw [cut]
    · rw [cut]
    · have read := track (defaultTrack s.layout)
      rw [if_pos rfl] at read
      exact congrArg TrackEntry.committed read
    · exact (track y).trans (by simp [Ne.symm ne])
    · obtain ⟨f, hf, assigned, -⟩ := sent.followers m hm
      exact ⟨f, hf, by rw [assigned, cut]⟩
    · rw [cut]

end Sys2Proof.Machine
end

section
/-! The halt (R152): what it makes of the records one loss after another, of the tracks, and of the section and point entries. -/

namespace Sys2Proof.Machine

/-! ### Cuts LOST one after another -/

section
variable {s : State} {n m : Nat} {why : LostReason} {r : Record}

/-- A record that is neither in the tree nor JOINED is none that the loss of a cut changes. -/
theorem loseCut_record_of_out (hr : s.record m = some r) (out : r.state.inTree = false) (apart : r.state ≠ .joined) :
    (loseCut why n s).record m = some r := by
  by_cases inside : s.isInTree n = true
  · have other : r.number ≠ n := fun e => by
      obtain ⟨q, hq, ht⟩ := (isInTree_iff s).mp inside
      rw [← e, record_number s hr, hr] at hq
      cases hq
      rw [out] at ht
      cases ht
    have follower : r.number ∉ s.joinedFollowers n := fun hm => by
      obtain ⟨q, hq, hj⟩ := (isIn_iff s).mp (mem_joinedFollowers.mp hm).1
      rw [record_number s hr, hr] at hq
      cases hq
      exact apart hj
    rw [(loseCut_departed why inside).record, hr, Option.map_some, Record.depart, if_neg other, if_neg follower]
  · rw [loseCut_out s why (Bool.not_eq_true _ ▸ inside)]
    exact hr

/-- The loss of a cut leaves the record of another one in the tree. -/
theorem loseCut_record_of_other (hr : s.record m = some r) (ht : r.state.inTree = true) (other : m ≠ n) :
    (loseCut why n s).record m = some r := by
  by_cases inside : s.isInTree n = true
  · have number := record_number s hr
    have follower : m ∉ s.joinedFollowers n := not_mem_joinedFollowers ((isInTree_iff s).mpr ⟨r, hr, ht⟩)
    rw [(loseCut_departed why inside).record, hr, Option.map_some, Record.depart, if_neg (number ▸ other), if_neg (number ▸ follower)]
  · rw [loseCut_out s why (Bool.not_eq_true _ ▸ inside)]
    exact hr

/-- A JOINED record stays as it is through the loss of a cut, or is LOST for its leader. -/
theorem loseCut_record_of_joined (hr : s.record m = some r) (joined : r.state = .joined) :
    (loseCut why n s).record m = some r ∨ (loseCut why n s).record m = some (Record.changed (Record.lose .leaderLost) r) := by
  by_cases inside : s.isInTree n = true
  · have other : r.number ≠ n := fun e => by
      obtain ⟨q, hq, ht⟩ := (isInTree_iff s).mp inside
      rw [← e, record_number s hr, hr] at hq
      cases hq
      rw [joined] at ht
      cases ht
    rw [(loseCut_departed why inside).record, hr, Option.map_some, Record.depart, if_neg other]
    split
    · exact .inr rfl
    · exact .inl rfl
  · rw [loseCut_out s why (Bool.not_eq_true _ ▸ inside)]
    exact .inl hr

theorem loseCuts_cons (l : List Nat) : loseCuts why (n :: l) s = loseCuts why l (loseCut why n s) := rfl

theorem loseCuts_record_of_out (l : List Nat) (hr : s.record m = some r) (out : r.state.inTree = false) (apart : r.state ≠ .joined) :
    (loseCuts why l s).record m = some r := by
  induction l generalizing s with
  | nil => exact hr
  | cons n l ih => exact ih (loseCut_record_of_out hr out apart)

/-- A LOST record stays as it is. -/
theorem loseCuts_record_of_lost (l : List Nat) {w : LostReason} (hr : s.record m = some (Record.changed (Record.lose w) r)) :
    (loseCuts why l s).record m = some (Record.changed (Record.lose w) r) :=
  loseCuts_record_of_out l hr (by rw [(lose_state w r).1]; rfl) (by rw [(lose_state w r).1]; nofun)

/-- Each in-tree cut of the list ends LOST. -/
theorem loseCuts_record_of_mem {l : List Nat} (hr : s.record m = some r) (ht : r.state.inTree = true) (hm : m ∈ l) :
    (loseCuts why l s).record m = some (Record.changed (Record.lose why) r) := by
  induction l generalizing s with
  | nil => cases hm
  | cons n l ih =>
    rw [loseCuts_cons]
    by_cases e : m = n
    · subst e
      exact loseCuts_record_of_lost l ((loseCut_departed why ((isInTree_iff s).mpr ⟨r, hr, ht⟩)).of_cut hr)
    · exact ih (loseCut_record_of_other hr ht e) ((List.mem_cons.mp hm).resolve_left e)

/-- So does each JOINED follower of such a cut, for its leader. -/
theorem loseCuts_record_of_follower {l : List Nat} {q : Record} (hr : s.record n = some r) (ht : r.state.inTree = true) (hn : n ∈ l)
    (hq : s.record m = some q) (joined : q.state = .joined) (follows : m ∈ r.followers) :
    (loseCuts why l s).record m = some (Record.changed (Record.lose .leaderLost) q) := by
  induction l generalizing s with
  | nil => cases hn
  | cons k l ih =>
    rw [loseCuts_cons]
    by_cases e : n = k
    · subst e
      have inside : s.isInTree n = true := (isInTree_iff s).mpr ⟨r, hr, ht⟩
      obtain ⟨f, hf, lost⟩ := (loseCut_departed why inside).of_follower inside
        (mem_joinedFollowers.mpr ⟨(isIn_iff s).mpr ⟨q, hq, joined⟩, r, hr, follows⟩)
      obtain rfl := Option.some.inj (hq.symm.trans hf)
      exact loseCuts_record_of_lost l lost
    · rcases loseCut_record_of_joined (why := why) (n := k) hq joined with same | lost
      · exact ih (loseCut_record_of_other hr ht e) ((List.mem_cons.mp hn).resolve_left e) same
      · exact loseCuts_record_of_lost l lost

/-- Losses take lengths off tracks, and no more (R78). -/
theorem loseCuts_track (l : List Nat) (x : Nat) :
    ((loseCuts why l s).track x).fill = (s.track x).fill ∧ ((loseCuts why l s).track x).setting = (s.track x).setting := by
  induction l generalizing s with
  | nil => exact ⟨rfl, rfl⟩
  | cons n l ih =>
    have first : ((loseCut why n s).track x).fill = (s.track x).fill ∧ ((loseCut why n s).track x).setting = (s.track x).setting := by
      by_cases inside : s.isInTree n = true
      · rw [loseCut_track why inside]
        exact ⟨rfl, rfl⟩
      · rw [loseCut_out s why (Bool.not_eq_true _ ▸ inside)]
        exact ⟨rfl, rfl⟩
    rw [loseCuts_cons]
    exact ⟨ih.1.trans first.1, ih.2.trans first.2⟩

/-- What the loss of a cut cannot touch. -/
theorem loseCut_frame (why : LostReason) (n : Nat) (s : State) : loseCut why n s = { s with
    records := (loseCut why n s).records, inTree := (loseCut why n s).inTree, tracks := (loseCut why n s).tracks
    sections := (loseCut why n s).sections, claims := (loseCut why n s).claims, flags := (loseCut why n s).flags } := by
  by_cases inside : s.isInTree n = true
  · rw [loseCut_eq s why inside]
    have away := sendAway_frame (Record.lose why) (Record.lose .leaderLost) n (latch .lost s)
    cases s.assignedTrack n with
    | none =>
      rw [releaseFrom, away]
      rfl
    | some x =>
      rw [releaseFrom, releaseLength, changeTrack_frame, away]
      rfl
  · rw [loseCut_out s why (Bool.not_eq_true _ ▸ inside)]

theorem loseCuts_frame (why : LostReason) (l : List Nat) (s : State) : loseCuts why l s = { s with
    records := (loseCuts why l s).records, inTree := (loseCuts why l s).inTree, tracks := (loseCuts why l s).tracks
    sections := (loseCuts why l s).sections, claims := (loseCuts why l s).claims, flags := (loseCuts why l s).flags } := by
  induction l generalizing s with
  | nil => rfl
  | cons n l ih =>
    rw [loseCuts_cons, ih, loseCut_frame why n s]

end

/-! ### The halt -/

section
variable {s : State}

theorem mem_inTreeCuts {n : Nat} {r : Record} (hr : s.record n = some r) (ht : r.state.inTree = true) : n ∈ s.inTreeCuts :=
  List.mem_map.mpr ⟨r, List.mem_filter.mpr ⟨record_mem s hr, ht⟩, record_number s hr⟩

theorem halt_cut {n : Nat} {r : Record} (hr : s.record n = some r) (ht : r.state.inTree = true) :
    (halt s).record n = some (Record.changed (Record.lose .halted) r) := loseCuts_record_of_mem hr ht (mem_inTreeCuts hr ht)

theorem halt_follower {n m : Nat} {r : Record} (hr : s.record n = some r) (ht : r.state.inTree = true) (hm : m ∈ s.joinedFollowers n) :
    ∃ f, (halt s).record m = some f ∧ f.state = .lost ∧ f.lostReason = some .leaderLost := by
  obtain ⟨joined, w, hw, follows⟩ := mem_joinedFollowers.mp hm
  obtain rfl := Option.some.inj (hr.symm.trans hw)
  obtain ⟨q, hq, hj⟩ := (isIn_iff s).mp joined
  exact ⟨_, loseCuts_record_of_follower hr ht (mem_inTreeCuts hr ht) hq hj follows, lose_state .leaderLost q⟩

theorem halt_kept {n : Nat} {r : Record} (hr : s.record n = some r) (kept : r.state = .pending ∨ r.state = .settled ∨ r.state = .lost) :
    (halt s).record n = some r := by
  refine loseCuts_record_of_out _ hr ?_ ?_
  · rcases kept with e | e | e <;> rw [e] <;> rfl
  · rcases kept with e | e | e <;> rw [e] <;> nofun

theorem halt_track (x : Nat) : ((halt s).track x).fill = (s.track x).fill ∧ ((halt s).track x).setting = (s.track x).setting :=
  loseCuts_track s.inTreeCuts x

/-- Every point is left as R134 has it, its mode and last-settled time kept (R152). -/
theorem halt_point (canonical : Canonical s) (p : Nat) : (halt s).point p = (s.point p).unsupervise := by
  have points : (loseCuts .halted s.inTreeCuts s).points = s.points := by rw [loseCuts_frame]
  have rising := ((Bool.and_eq_true _ _).mp canonical.points).1
  show Table.read _ (Table.update _ _ (loseCuts .halted s.inTreeCuts s).points) p = _
  rw [points]
  exact Table.read_update PointEntry.initial PointEntry.unsupervise (by rfl) s.points rising p

theorem halt_section_quiet (canonical : Canonical s) (x : Nat) :
    (halt s).section x = ((loseCuts .halted s.inTreeCuts s).section x).quiet := by
  have rising := ((Bool.and_eq_true _ _).mp (loseCuts_keepsTables s .halted s.inTreeCuts canonical).sections).1
  exact Table.read_update SectionEntry.initial SectionEntry.quiet (by rfl) _ rising x

/-- With no cut in the tree no occupant list holds one and no claim stands (R152). -/
theorem Followed.lists_empty (k : Followed s) (none_ : ∀ m, s.isInTree m = false) :
    (∀ x, (s.section x).occupants = []) ∧ ∀ p, s.claimsAt p = [] := by
  refine ⟨fun x => List.eq_nil_iff_forall_not_mem.mpr fun m hm => ?_, fun p => List.eq_nil_iff_forall_not_mem.mpr fun c hc => ?_⟩
  · have := k.occupants x m hm
    rw [none_] at this
    cases this
  · have := k.claims p c hc
    rw [none_] at this
    cases this

/-- The committed lengths that were accounted for are all 0 after the halt (R69, R152). -/
theorem halt_committed (k : Followed s) (accounted : Accounted s) (x : Nat) : ((halt s).track x).committed = 0 := by
  obtain ⟨sound, -, zero⟩ := halt_sound (a := True) ⟨k, fun _ => accounted⟩
  rw [(sound.2 trivial).totals, groupsOn_of_empty sound.1.ledger zero]

theorem runRequest_halts {q : ItemValue} (up : s.runState ≠ .halted) (item : q.item = 0) (value : q.value ≤ 1)
    (may : 0 < s.inTree → q.value ≠ 0) : runRequest q s = accept [0x00#8] (halt s) := by
  have blocked : ¬ (s.inTree > 0 ∧ q.value = 0) := fun ⟨some_, plain⟩ => may some_ plain
  unfold runRequest
  rw [item]
  simp only [runTargetOf, runValuesOk, item]
  cases e : s.runState with
  | halted => exact absurd e up
  | standby => simp [value, blocked, runAccepted]; rfl
  | running => simp [value, blocked, runAccepted]; rfl

/-- The board after a halt and its answer. -/
theorem answered_halt (zero : (halt (hunt s)).inTree = 0) (body : List Byte) :
    finish (answering 0x40#8 body (halt (hunt s))) = { s with
      receiver := .hunting, inHand := (finish (answering 0x40#8 body (halt (hunt s)))).inHand
      records := (finish (answering 0x40#8 body (halt (hunt s)))).records, inTree := 0
      tracks := (finish (answering 0x40#8 body (halt (hunt s)))).tracks, sections := (finish (answering 0x40#8 body (halt (hunt s)))).sections
      claims := (finish (answering 0x40#8 body (halt (hunt s)))).claims, points := (finish (answering 0x40#8 body (halt (hunt s)))).points
      flags := (finish (answering 0x40#8 body (halt (hunt s)))).flags, runState := .halted, humpPermit := false
      crest := .idle, crestCut := none, target := none, separation := none, remnantDue := none
      attentionLine := (finish (answering 0x40#8 body (halt (hunt s)))).attentionLine } := by
  unfold halt at zero ⊢
  have frame := loseCuts_frame .halted (hunt s).inTreeCuts (hunt s)
  generalize loseCuts .halted (hunt s).inTreeCuts (hunt s) = u at zero frame ⊢
  generalize u.records = a, u.inTree = b, u.tracks = c, u.sections = d, u.claims = e, u.flags = f at *
  subst frame
  obtain rfl : b = 0 := zero
  rfl

end

/-- Settles O40: `runRequest_halts`, then what `halt` makes of each part. -/
theorem runHalts : Obligations.RunHalts := by
  intro s force ready followed up may
  have served : exec (.run (byte1 0 ++ byteBool force)) s
      = .next (finish (takeRequest 0x40#8 (some { item := 0, value := if force then 1 else 0 }) runRequest s)) := by
    cases force <;> rfl
  have accepted : runRequest { item := 0, value := if force then 1 else 0 } (hunt s) = accept [0x00#8] (halt (hunt s)) :=
    runRequest_halts (s := hunt s) up rfl (by dsimp only; split <;> decide) fun some_ => by
      rcases may with rfl | zero
      · nofun
      · exact absurd zero (Nat.ne_of_gt some_)
  rw [take_accepted ready accepted] at served
  have sound := (hunt_calm s).keeps.sound (a := False) ⟨followed, nofun⟩
  obtain ⟨⟨after, -⟩, none_, zero⟩ := halt_sound sound
  obtain ⟨occupants, claims⟩ := after.lists_empty none_
  have canonical := sound.1.canonical
  refine ⟨_, served, rfl, zero, rfl, rfl, fun n r hr ht => ?_, fun n r hr kept => halt_kept (s := hunt s) hr kept, ?_, claims, fun x => ?_,
    fun p => ?_, ⟨rfl, rfl, rfl, rfl, rfl⟩, halt_track (s := hunt s), fun accounted x => ?_, answered_halt zero _⟩
  · refine ⟨_, halt_cut (s := hunt s) hr ht, (lose_state .halted r).1, (lose_state .halted r).2, ?_, ?_, fun m hm =>
      halt_follower (s := hunt s) hr ht hm⟩
    all_goals rw [Record.changed_eq]; rfl
  · rw [answered_halt zero]
  · have quiet := halt_section_quiet canonical x
    refine ⟨occupants x, ?_⟩
    show ((halt (hunt s)).section x).unexplained = false ∧ ((halt (hunt s)).section x).unproven = false
      ∧ ((halt (hunt s)).section x).proving = none
    rw [quiet]
    exact ⟨rfl, rfl, rfl⟩
  · have still := halt_point canonical p
    show ((halt (hunt s)).point p).Quiet ∧ ((halt (hunt s)).point p).mode = _ ∧ ((halt (hunt s)).point p).lastSettled = _
    rw [still]
    exact ⟨⟨rfl, rfl, rfl, rfl, rfl, rfl⟩, rfl, rfl⟩
  · exact halt_committed (s := hunt s) sound.1 ((hunt_calm s).keeps.sound (a := True) ⟨followed, fun _ => accounted⟩ |>.2 trivial) x

end Sys2Proof.Machine
end

section
/-! Images read at their offsets (R167, R168): the fields of an image are the parts it is put together from, each found behind the lengths of
those before it. -/

namespace Sys2Proof.Machine

/-! ### The fields of a body and their lengths (R165) -/

section
variable (n : Nat) (x : Option Nat) (i : Instant) (at_ : Option Instant) (b : Bool)

@[simp] theorem byte1_length : (byte1 n).length = 1 := by simp [byte1]
@[simp] theorem byte2_length : (byte2 n).length = 2 := by simp [byte2]
@[simp] theorem byte4_length : (byte4 i).length = 4 := by simp [byte4]
@[simp] theorem byteBool_length : (byteBool b).length = 1 := by simp [byteBool]
@[simp] theorem byteOpt_length : (byteOpt x).length = 1 := by simp [byteOpt]
@[simp] theorem byteInstant_length : (byteInstant at_).length = 4 := by simp [byteInstant]

end

/-! ### Reading a part -/

section
variable {a b l : List Byte} {offset n : Nat}

/-- What stands before an offset is passed over. -/
theorem fieldAt_skip (h : a.length ≤ offset) : fieldAt (a ++ b) offset n = fieldAt b (offset - a.length) n := by
  unfold fieldAt
  rw [List.drop_append, List.drop_of_length_le h, List.nil_append]

/-- The part that stands at the offset. -/
theorem fieldAt_first (h : a.length = n) : fieldAt (a ++ b) 0 n = a := by
  subst h
  exact List.take_left

/-- The last part. -/
theorem fieldAt_only (h : a.length = n) : fieldAt a 0 n = a := by
  subst h
  exact List.take_length

/-- The `k`-th of some entries of one width each. -/
theorem fieldAt_entry {α : Type} {f : α → List Byte} {w : Nat} (width : ∀ a, (f a).length = w) {entries : List α} {k : Nat} {e : α}
    (he : entries[k]? = some e) : fieldAt (entries.flatMap f) (w * k) w = f e := by
  induction entries generalizing k with
  | nil => cases he
  | cons d entries ih =>
    rw [List.flatMap_cons]
    cases k with
    | zero =>
      obtain rfl : d = e := by simpa using he
      exact fieldAt_first (width d)
    | succ k =>
      rw [fieldAt_skip (by rw [width, Nat.mul_succ]; omega), width, Nat.mul_succ, Nat.add_sub_cancel]
      exact ih (by simpa using he)

theorem entries_length {α β : Type} {f : α → List β} {w : Nat} (width : ∀ a, (f a).length = w) (entries : List α) :
    (entries.flatMap f).length = w * entries.length := by
  induction entries with
  | nil => rfl
  | cons d entries ih =>
    rw [List.flatMap_cons, List.length_append, width, ih, List.length_cons, Nat.mul_succ, Nat.add_comm]

end

/-- A field and the one behind it. -/
theorem fieldAt_add {l : List Byte} (offset m n : Nat) : fieldAt l offset (m + n) = fieldAt l offset m ++ fieldAt l (offset + m) n := by
  unfold fieldAt
  rw [List.take_add, List.drop_drop]

/-- A field within a longer one. -/
theorem fieldAt_inside {l : List Byte} (offset : Nat) {j m n : Nat} (h : j + n ≤ m) :
    fieldAt l (offset + j) n = fieldAt (fieldAt l offset m) j n := by
  unfold fieldAt
  rw [List.drop_take, List.take_take, List.drop_drop, Nat.min_eq_left (by omega)]

/-! ### The record image (R167) -/

section
variable {l : List Nat} {m k : Nat}

theorem padTo_length (h : l.length ≤ m) : (padTo m l).length = m := by
  rw [padTo, List.length_append, List.length_replicate]
  omega

theorem padTo_get (h : k < m) : (padTo m l)[k]? = some (l[k]?.getD 0) := by
  unfold padTo
  by_cases within : k < l.length
  · rw [List.getElem?_append_left within, List.getElem?_eq_getElem within]
    rfl
  · have beyond := Nat.not_lt.mp within
    rw [List.getElem?_append_right beyond, List.getElem?_eq_none beyond, List.getElem?_replicate, if_pos (by omega)]
    rfl

/-- The two numbers of the `k`-th of some pairs. -/
theorem pairs_get {α : Type} (f g : α → Nat) (ds : List α) (k : Nat) :
    (ds.flatMap (fun d => [f d, g d]))[2 * k]? = ds[k]?.map f ∧ (ds.flatMap (fun d => [f d, g d]))[2 * k + 1]? = ds[k]?.map g := by
  induction ds generalizing k with
  | nil => exact ⟨rfl, rfl⟩
  | cons d ds ih =>
    cases k with
    | zero => exact ⟨rfl, rfl⟩
    | succ k => exact ih k

end

/-- The numbers that a joined list names. -/
def joinedNumbers : Option JoinedList → List Nat
  | none => []
  | some (.leader l) => l
  | some (.follower n) => [n]

def joinedRole : Option JoinedList → Nat
  | none => 0
  | some (.leader _) => 1
  | some (.follower _) => 2

section
variable {r : Record} (u : Bool) (place : Nat)

theorem joinedBytes_eq (j : Option JoinedList) :
    joinedBytes j = byte1 (joinedRole j) ++ byte1 (joinedNumbers j).length ++ (padTo 3 (joinedNumbers j)).flatMap byte2 := by
  match j with
  | none | some (.leader _) | some (.follower _) => rfl

theorem joinedNumbers_length (bounded : r.Bounded) : (joinedNumbers r.joined).length ≤ 3 := by
  have followers := bounded.followers
  unfold Record.followers at followers
  match e : r.joined with
  | none => exact Nat.zero_le 3
  | some (.follower _) => exact Nat.one_le_ofNat
  | some (.leader l) =>
    rw [e] at followers
    exact followers

theorem joinedBytes_length (bounded : r.Bounded) : (joinedBytes r.joined).length = 8 := by
  rw [joinedBytes_eq, List.length_append, entries_length byte2_length, padTo_length (joinedNumbers_length bounded)]
  rfl

theorem diversionBytes_length (bounded : r.Bounded) : (diversionBytes r).length = 9 := by
  have short : (r.diversions.flatMap (fun d => [d.point, divertReasonCode d.reason])).length ≤ 8 := by
    have four : r.diversions.length ≤ 4 := bounded.diversions
    rw [entries_length (w := 2) fun _ => rfl]
    omega
  rw [diversionBytes, List.length_append, entries_length byte1_length, padTo_length short]
  rfl

theorem diversionBytes_number {j : Nat} (h : j < 8) : fieldAt (diversionBytes r) (1 + j) 1
    = byte1 ((r.diversions.flatMap (fun d => [d.point, divertReasonCode d.reason]))[j]?.getD 0) := by
  have entry := fieldAt_entry byte1_length (padTo_get (l := r.diversions.flatMap (fun d => [d.point, divertReasonCode d.reason])) h)
  rw [Nat.one_mul] at entry
  rw [diversionBytes, fieldAt_skip (by simp), byte1_length, Nat.add_sub_cancel_left]
  exact entry

/-- The `k`-th diversion of a record, or zeros where there is none. -/
theorem diversionBytes_entry {k : Nat} (h : k < 4) : fieldAt (diversionBytes r) (1 + 2 * k) 2
    = byte1 ((r.diversions[k]?.map Diversion.point).getD 0) ++ byte1 ((r.diversions[k]?.map (fun d => divertReasonCode d.reason)).getD 0) := by
  obtain ⟨point, reason⟩ := pairs_get Diversion.point (fun d => divertReasonCode d.reason) r.diversions k
  rw [fieldAt_add _ 1 1, diversionBytes_number (by omega), Nat.add_assoc, diversionBytes_number (by omega), point, reason]

/-- The count of the joined numbers, and the `k`-th of them or zero. -/
theorem joinedBytes_at (j : Option JoinedList) : fieldAt (joinedBytes j) 0 1 = byte1 (joinedRole j)
    ∧ fieldAt (joinedBytes j) 1 1 = byte1 (joinedNumbers j).length
    ∧ ∀ k, k < 3 → fieldAt (joinedBytes j) (2 + 2 * k) 2 = byte2 ((joinedNumbers j)[k]?.getD 0) := by
  rw [joinedBytes_eq, List.append_assoc]
  refine ⟨fieldAt_first (byte1_length _), ?_, fun k hk => ?_⟩
  · rw [fieldAt_skip (by simp)]
    exact fieldAt_first (byte1_length _)
  · rw [fieldAt_skip (by rw [byte1_length]; omega), fieldAt_skip (by simp only [byte1_length]; omega)]
    have entry := fieldAt_entry byte2_length (padTo_get (l := joinedNumbers j) hk)
    rwa [show 2 + 2 * k - (byte1 (joinedRole j)).length - (byte1 (joinedNumbers j).length).length = 2 * k by simp only [byte1_length]; omega]

theorem presence_eq (r : Record) : presence r = (if r.releaseSeq.isSome = true then 1 else 0) + (if r.headEntry.isSome = true then 2 else 0)
    + (if r.lastMoment.isSome = true then 4 else 0) + (if r.stallDeadline.isSome = true then 8 else 0) := by
  unfold presence
  generalize r.releaseSeq.isSome = a, r.headEntry.isSome = b, r.lastMoment.isSome = c, r.stallDeadline.isSome = d
  revert a b c d
  decide

/-- The parts of a record image up to its presence byte. -/
theorem recordImage_identity :
    let i := recordImage r u place
    (fieldAt i 0 2 = byte2 r.number ∧ fieldAt i 2 1 = byte1 (stateCode r.state) ∧ fieldAt i 3 1 = byte1 (originCode r.origin)
        ∧ fieldAt i 4 2 = byte2 (originParent r.origin))
      ∧ (fieldAt i 6 1 = byteOpt r.requested ∧ fieldAt i 7 1 = byteOpt (r.assigned.map Assignment.track)
        ∧ fieldAt i 8 1 = byteOpt (r.assigned.map (fun a => assignReasonCode a.reason)))
      ∧ (fieldAt i 9 2 = byte2 r.declaredLength ∧ fieldAt i 11 1 = byteOpt r.declaredAxles ∧ fieldAt i 12 1 = byte1 r.measuredAxles
        ∧ fieldAt i 13 1 = byte1 (presence r)) := by
  unfold recordImage
  simp [fieldAt_skip, fieldAt_first]

/-- Its parts on the cut's way through the tree. -/
theorem recordImage_motion :
    let i := recordImage r u place
    (fieldAt i 14 2 = byte2 (r.releaseSeq.getD 0).toNat ∧ fieldAt i 16 1 = byteOpt r.head ∧ fieldAt i 17 1 = byteOpt r.tail)
      ∧ (fieldAt i 18 4 = byteInstant r.headEntry ∧ fieldAt i 22 2 = byte2 (r.speed.getD 0) ∧ fieldAt i 24 1 = byteOpt r.watch
        ∧ fieldAt i 25 4 = byteInstant r.lastMoment ∧ fieldAt i 29 4 = byteInstant r.stallDeadline) := by
  unfold recordImage
  simp [fieldAt_skip, fieldAt_first]

/-- Its length, and its parts from the marks on. -/
theorem recordImage_rest (bounded : r.Bounded) :
    let i := recordImage r u place
    i.length = 56
      ∧ (fieldAt i 33 2 = byte2 r.marks.toNat ∧ fieldAt i 35 9 = diversionBytes r ∧ fieldAt i 44 8 = joinedBytes r.joined)
      ∧ (fieldAt i 52 1 = byteOpt r.outcome ∧ fieldAt i 53 1 = byteOpt (r.lostReason.map lostReasonCode))
      ∧ (fieldAt i 54 1 = byteBool u ∧ fieldAt i 55 1 = byte1 place) := by
  unfold recordImage
  simp [fieldAt_skip, fieldAt_first, fieldAt_only, joinedBytes_length bounded, diversionBytes_length bounded]

/-- The diversion count of a record image, and its four entries. -/
theorem recordImage_diversions (bounded : r.Bounded) :
    fieldAt (recordImage r u place) 35 1 = byte1 (r.diversions.length + if r.more = true then 0x80 else 0)
      ∧ ∀ k, k < 4 → fieldAt (recordImage r u place) (36 + 2 * k) 2 = byte1 ((r.diversions[k]?.map Diversion.point).getD 0)
        ++ byte1 ((r.diversions[k]?.map (fun d => divertReasonCode d.reason)).getD 0) := by
  obtain ⟨-, ⟨-, diversions, -⟩, -⟩ := recordImage_rest u place bounded
  refine ⟨?_, fun k hk => ?_⟩
  · rw [fieldAt_inside 35 (j := 0) (m := 9) (by decide), diversions]
    exact fieldAt_first (byte1_length _)
  · rw [show 36 + 2 * k = 35 + (1 + 2 * k) by omega, fieldAt_inside 35 (m := 9) (by omega), diversions, diversionBytes_entry hk]

/-- The joined role of a record image, and the count and the numbers joined. -/
theorem recordImage_joined (bounded : r.Bounded) :
    fieldAt (recordImage r u place) 44 1 = byte1 (joinedRole r.joined)
      ∧ fieldAt (recordImage r u place) 45 1 = byte1 (joinedNumbers r.joined).length
      ∧ ∀ k, k < 3 → fieldAt (recordImage r u place) (46 + 2 * k) 2 = byte2 ((joinedNumbers r.joined)[k]?.getD 0) := by
  obtain ⟨-, ⟨-, -, joined⟩, -⟩ := recordImage_rest u place bounded
  obtain ⟨role, count, numbers⟩ := joinedBytes_at r.joined
  refine ⟨?_, ?_, fun k hk => ?_⟩
  · rw [fieldAt_inside 44 (j := 0) (m := 8) (by decide), joined, role]
  · rw [fieldAt_inside 44 (j := 1) (m := 8) (by decide), joined, count]
  · rw [show 46 + 2 * k = 44 + (2 + 2 * k) by omega, fieldAt_inside 44 (m := 8) (by omega), joined, numbers k hk]

end

/-! ### The status image (R173) -/

section
variable (s : State)

theorem commitResultBytes_length (now : Instant) (c : CommitResult) : (commitResultBytes now c).length = 2 := by cases c <;> rfl

theorem generationBytes_length (now : Instant) (g : Option (BitVec 16)) : (generationBytes now g).length = 3 := by cases g <;> rfl

/-- The parts of a status image. -/
theorem statusImage_parts :
    let i := statusImage s
    i.length = 25
      ∧ (fieldAt i 0 2 = byte2 s.flags.toNat ∧ fieldAt i 2 2 = byte2 s.enables.toNat)
      ∧ (fieldAt i 4 1 = byte1 (runStateCode s.runState) ∧ fieldAt i 5 1 = byte1 (if s.crest = .counting then 1 else 0))
      ∧ (fieldAt i 6 1 = byte1 (s.countIn .pending) ∧ fieldAt i 7 1 = byte1 s.inTree ∧ fieldAt i 8 1 = byte1 (s.countIn .lost)
        ∧ fieldAt i 9 1 = byte1 (s.countIn .settled))
      ∧ (fieldAt i 10 1 = byte1 s.countFault ∧ fieldAt i 11 1 = byte1 (s.countShown .unexplained)
        ∧ fieldAt i 12 1 = byte1 (s.countShown .unproven) ∧ fieldAt i 13 1 = byte1 s.countNear)
      ∧ (fieldAt i 14 1 = byteBool s.commit.isSome ∧ fieldAt i 15 2 = commitResultBytes s.clock s.lastCommit
        ∧ fieldAt i 17 1 = byte1 s.activeSlot ∧ fieldAt i 18 3 = generationBytes s.clock s.activeGeneration ∧ fieldAt i 21 4 = byte4 s.clock) := by
  unfold statusImage flagBytes
  simp [fieldAt_skip, fieldAt_first, fieldAt_only, commitResultBytes_length, generationBytes_length]

end

/-! ### The point image (R147) -/

section
variable (s : State) (p : Nat)

/-- The claims of which a point image tells. -/
def State.claimsShown (s : State) (p : Nat) : List Claim := if pointUsed s.layout p then s.claimsAt p else []

theorem claimBytes_length (c : Claim) : (claimBytes c).length = 3 := rfl

/-- A point image is 26 bytes and its claims. -/
theorem pointImage_split : ∃ front, front.length = 26 ∧ pointImage s p = front ++ (s.claimsShown p).flatMap claimBytes :=
  ⟨_, by simp, rfl⟩

theorem pointImage_length : (pointImage s p).length = 26 + 3 * (s.claimsShown p).length := by
  obtain ⟨front, length, image⟩ := pointImage_split s p
  rw [image, List.length_append, length, entries_length claimBytes_length]

theorem pointImage_claim {k : Nat} {c : Claim} (h : (s.claimsShown p)[k]? = some c) : fieldAt (pointImage s p) (26 + 3 * k) 3 = claimBytes c := by
  obtain ⟨front, length, image⟩ := pointImage_split s p
  rw [image, fieldAt_skip (by omega), length, Nat.add_sub_cancel_left]
  exact fieldAt_entry claimBytes_length h

/-- The parts of the 26 bytes. -/
theorem pointImage_parts :
    let i := pointImage s p
    let used := pointUsed s.layout p
    let e := s.point p
    (fieldAt i 0 1 = byte1 p ∧ fieldAt i 1 1 = byteBool used ∧ fieldAt i 2 1 = byte1 (if used then switchSection s.layout p else 0)
        ∧ fieldAt i 3 1 = byte1 (if used then pointStateCode e.state else 0) ∧ fieldAt i 4 1 = byte1 (if e.mode = .manual then 1 else 0))
      ∧ (fieldAt i 5 1 = byte1 (detectedCode (s.detected p)) ∧ fieldAt i 6 1 = byteOpt (e.target.map positionCode)
        ∧ fieldAt i 7 1 = byteOpt ((if used then e.drive else none).map positionCode))
      ∧ (fieldAt i 8 1 = byte1 (e.throwLimit.isSome.toNat + 2 * e.settleTimer.isSome.toNat)
        ∧ fieldAt i 9 4 = byteInstant e.throwLimit ∧ fieldAt i 13 4 = byteInstant e.settleTimer ∧ fieldAt i 17 4 = byte4 e.lastSettled)
      ∧ (fieldAt i 21 1 = byteBool (s.hasStood p) ∧ fieldAt i 22 2 = byte2 (s.budgetShown p) ∧ fieldAt i 24 1 = byteBool (s.locked p))
      ∧ fieldAt i 25 1 = byte1 (s.claimsShown p).length := by
  unfold pointImage State.claimsShown
  simp [fieldAt_skip, fieldAt_first]

theorem drive_shown (e : PointEntry) (used : Bool) :
    byteOpt ((if used then e.drive else none).map positionCode) = byte1 (if used = true then (e.drive.map positionCode).getD 0 else 0) := by
  cases used <;> rfl

theorem timers_shown (e : PointEntry) : e.throwLimit.isSome.toNat + 2 * e.settleTimer.isSome.toNat
    = (if e.throwLimit.isSome = true then 1 else 0) + (if e.settleTimer.isSome = true then 2 else 0) := by
  cases e.throwLimit <;> cases e.settleTimer <;> rfl

theorem detected_unused {p : Nat} (h : pointUsed s.layout p = false) : s.detected p = .none := if_neg (by simp [h])

end

/-! ### The section image (R102) -/

section
variable (s : State) (x : Nat)

/-- The occupants of which a section image tells. -/
def State.occupantsShown (s : State) (x : Nat) : List Nat := (if sectionUsed s.layout x then s.section x else SectionEntry.initial).occupants

/-- The proving deadline of which a section image tells: a held section's. -/
def State.provingShown (s : State) (x : Nat) : Option Instant :=
  if s.shownState x = .unproven then (if sectionUsed s.layout x then s.section x else SectionEntry.initial).proving else none

/-- A section image is 12 bytes and its occupants. -/
theorem sectionImage_split : ∃ front, front.length = 12 ∧ sectionImage s x = front ++ (s.occupantsShown x).flatMap byte2 :=
  ⟨_, by simp, rfl⟩

theorem sectionImage_length : (sectionImage s x).length = 12 + 2 * (s.occupantsShown x).length := by
  obtain ⟨front, length, image⟩ := sectionImage_split s x
  rw [image, List.length_append, length, entries_length byte2_length]

theorem sectionImage_occupant {k n : Nat} (h : (s.occupantsShown x)[k]? = some n) : fieldAt (sectionImage s x) (12 + 2 * k) 2 = byte2 n := by
  obtain ⟨front, length, image⟩ := sectionImage_split s x
  rw [image, fieldAt_skip (by omega), length, Nat.add_sub_cancel_left]
  exact fieldAt_entry byte2_length h

/-- The parts of the 12 bytes. -/
theorem sectionImage_parts :
    let i := sectionImage s x
    (fieldAt i 0 1 = byte1 x ∧ fieldAt i 1 1 = byteBool (sectionUsed s.layout x) ∧ fieldAt i 2 1 = byteBool (s.inputShown x)
        ∧ fieldAt i 3 1 = byte1 (shownCode (s.shownState x)))
      ∧ (fieldAt i 4 1 = byteOpt (pointOfSection s.layout x)
        ∧ fieldAt i 5 1 = byteBool ((pointOfSection s.layout x).isSome && s.shownState x != .clear))
      ∧ (fieldAt i 6 1 = byteBool (s.provingShown x).isSome ∧ fieldAt i 7 4 = byteInstant (s.provingShown x))
      ∧ fieldAt i 11 1 = byte1 (s.occupantsShown x).length := by
  unfold sectionImage State.occupantsShown State.provingShown
  simp [fieldAt_skip, fieldAt_first]

theorem inputShown_used (h : sectionUsed s.layout x = true) : s.inputShown x = s.channel (sectionChannel s.layout x) := by
  simp [State.inputShown, State.sectionInput, h]

/-- No section in use names the channel of that number (R102). -/
theorem inputShown_free (h : sectionUsed s.layout x = false) (free : ∀ y, sectionUsed s.layout y = true → sectionChannel s.layout y ≠ x) :
    s.inputShown x = s.channel x := by
  have none_ : sectionOfChannel s.layout x = none := List.find?_eq_none.mpr fun y _ => by simpa using free y
  simp [State.inputShown, h, none_]

/-- A section in use names the channel of that number (R102). -/
theorem inputShown_taken {y : Nat} (h : sectionUsed s.layout x = false) (used : sectionUsed s.layout y = true)
    (names : sectionChannel s.layout y = x) : s.inputShown x = false := by
  have some_ : (sectionOfChannel s.layout x).isSome = true :=
    List.find?_isSome.mpr ⟨y, (List.mem_filter.mp (mem_usedSections.mpr used)).1, by simp [used, names]⟩
  rw [State.inputShown, if_neg (by simp [h]), ← Option.not_isSome, some_]
  rfl

theorem shownState_unused (h : sectionUsed s.layout x = false) : s.shownState x = .clear := if_neg (by simp [h])

theorem used_of_unproven (h : s.shownState x = .unproven) : sectionUsed s.layout x = true := by
  cases used : sectionUsed s.layout x with
  | true => rfl
  | false =>
    rw [shownState_unused s x used] at h
    cases h

theorem provingShown_unproven (h : s.shownState x = .unproven) : s.provingShown x = (s.section x).proving := by
  rw [State.provingShown, if_pos h, if_pos (used_of_unproven s x h)]

theorem provingShown_none (h : ¬ (s.shownState x = .unproven ∧ (s.section x).proving.isSome = true)) : s.provingShown x = none := by
  by_cases unproven : s.shownState x = .unproven
  · rw [provingShown_unproven s x unproven]
    simpa [unproven] using h
  · exact if_neg unproven

end

/-! ### The track image (R80) -/

section
variable (s : State) (x : Nat)

theorem trackImage_parts :
    let i := trackImage s x
    i.length = 15
      ∧ (fieldAt i 0 1 = byte1 x ∧ fieldAt i 1 1 = byteBool (trackUsed s.layout x))
      ∧ (fieldAt i 2 2 = byte2 (capacity s.layout x) ∧ fieldAt i 4 2 = byte2 (nearMargin s.layout x)
          ∧ fieldAt i 6 1 = byte1 (alternateTrack s.layout x))
      ∧ (fieldAt i 7 2 = byte2 (s.track x).fill ∧ fieldAt i 9 2 = byte2 (s.committedLength x))
      ∧ (fieldAt i 11 1 = byteBool ((s.track x).setting == .opened) ∧ fieldAt i 12 2 = byte2 (s.freeLength x)
          ∧ fieldAt i 14 1 = byte1 (conditionCode (s.trackCondition x))) := by
  unfold trackImage
  simp [fieldAt_skip, fieldAt_first, fieldAt_only]

end

section
variable (m : Image) (x : Nat)

theorem track_unused (h : trackUsed m x = false) : capacity m x = 0 ∧ nearMargin m x = 0 ∧ alternateTrack m x = 0 := by
  simp [capacity, nearMargin, alternateTrack, h]

end

/-- Settles O21: the codings, then each image from the parts it is put together from. -/
theorem imageLayouts : Obligations.ImageLayouts := by
  refine ⟨⟨rfl, rfl, rfl, rfl, rfl, rfl, rfl, rfl, rfl, rfl⟩, fun r u place bounded => ?_, fun s => ?_, fun s p => ?_, fun s x => ?_,
    fun s x => ?_⟩
  case refine_1 =>
    obtain ⟨⟨number, state, origin, parent⟩, ⟨requested, track, why⟩, length, axles, measured, present⟩ := recordImage_identity (r := r) u place
    obtain ⟨⟨seq, head, tail⟩, entry, speed, watch, moment, stall⟩ := recordImage_motion (r := r) u place
    obtain ⟨whole, ⟨marks, -, -⟩, ⟨outcome, lost⟩, unseen, place_⟩ := recordImage_rest u place bounded
    obtain ⟨listed, diverted⟩ := recordImage_diversions u place bounded
    obtain ⟨role, count, numbers⟩ := recordImage_joined u place bounded
    refine ⟨whole, ⟨number, state, origin⟩, parent, ⟨requested, track, why⟩, ⟨length, axles, measured⟩, present.trans ?_, ⟨seq, head, tail⟩,
      ⟨entry, speed, watch, moment, stall⟩, ⟨marks, listed⟩, fun k hk => (diverted k hk).trans ?_, role, ⟨count, numbers⟩, ⟨outcome, lost⟩,
      unseen, place_⟩
    · rw [presence_eq]
    · cases r.diversions[k]? <;> rfl
  case refine_2 =>
    obtain ⟨whole, flags, run, records, ⟨fault, unexplained, unproven, near⟩, commit, result, slot, generation, clock⟩ := statusImage_parts s
    refine ⟨whole, flags, run, records, fault, ⟨unexplained, unproven⟩, near, commit, fun h => ?_,
      fun x => ⟨fun h => by rw [result, h]; rfl, fun h => by rw [result, h]; rfl⟩, slot, fun h => ?_, fun g h => by rw [generation, h]; rfl, clock⟩
    · rw [fieldAt_inside 15 (j := 0) (m := 2) (by decide), result, h]
      exact fieldAt_first (byte1_length _)
    · rw [fieldAt_inside 18 (j := 0) (m := 3) (by decide), generation, h]
      exact fieldAt_first (byte1_length _)
  case refine_3 =>
    obtain ⟨⟨number, used, switch, state, mode⟩, ⟨detected, target, drive⟩, ⟨timers, limit, settle, last⟩, ⟨stood, budget, locked⟩, count⟩ :=
      pointImage_parts s p
    refine ⟨⟨number, used, mode⟩, detected, ⟨target, drive.trans (drive_shown _ _)⟩, ?_, ⟨limit, settle, last⟩, ⟨stood, locked⟩,
      fun on => ?_, fun off => ?_⟩
    · rw [timers, timers_shown]
    · have claims : s.claimsShown p = s.claimsAt p := if_pos on
      rw [← claims]
      refine ⟨pointImage_length s p, ?_, ?_, ?_, count, fun k c h => pointImage_claim s p h⟩
      · rw [switch, if_pos on]
      · rw [state, if_pos on]
      · rw [budget, State.budgetShown, if_pos on]
    · have off' : ¬ pointUsed s.layout p = true := by simp [off]
      have claims : s.claimsShown p = [] := if_neg off'
      refine ⟨?_, ?_, ?_, detected_unused s off⟩
      · rw [pointImage_length, claims]
        rfl
      · rw [fieldAt_add 2 1 1, switch, state, if_neg off', if_neg off']
        rfl
      · rw [count, claims]
        rfl
  case refine_4 =>
    obtain ⟨⟨number, used, input, shown⟩, ⟨point, locks⟩, ⟨held, deadline⟩, count⟩ := sectionImage_parts s x
    refine ⟨⟨number, used, shown⟩, fun on => ?_, fun off => ⟨fun free => ?_, fun y on names => ?_⟩, fun p at_ => ⟨?_, ?_⟩, fun at_ => ?_,
      fun h => ?_, fun h => ?_, fun on => ?_, fun off => ?_⟩
    · rw [input, inputShown_used s x on]
    · rw [input, inputShown_free s x off free]
    · rw [input, inputShown_taken s x off on names]
    · rw [point, at_]
      rfl
    · rw [locks, at_, Option.isSome_some, Bool.true_and]
      congr 1
      cases s.shownState x <;> rfl
    · rw [fieldAt_add 4 1 1, point, locks, at_]
      rfl
    · rw [fieldAt_add 6 1 4, held, deadline, provingShown_unproven s x h.1, h.2]
      rfl
    · rw [fieldAt_add 6 1 4, held, deadline, provingShown_none s x h]
      rfl
    · have occupants : s.occupantsShown x = (s.section x).occupants := by rw [State.occupantsShown, if_pos on]
      rw [← occupants]
      exact ⟨sectionImage_length s x, count, fun k n h => sectionImage_occupant s x h⟩
    · have occupants : s.occupantsShown x = [] := by rw [State.occupantsShown, if_neg (by simp [off])]; rfl
      refine ⟨?_, ?_, shownState_unused s x off⟩
      · rw [sectionImage_length, occupants]
        rfl
      · rw [count, occupants]
        rfl
  case refine_5 =>
    obtain ⟨whole, number, ⟨cap, near, alternate⟩, lengths, setting, free⟩ := trackImage_parts s x
    refine ⟨whole, number, ⟨cap, near, alternate⟩, lengths, ⟨setting.trans ?_, free⟩, fun off => ?_⟩
    · cases (s.track x).setting <;> rfl
    · obtain ⟨noCap, noNear, noAlternate⟩ := track_unused s.layout x off
      rw [fieldAt_add 2 2 3, fieldAt_add 4 2 1, cap, near, alternate, noCap, noNear, noAlternate]
      rfl

end Sys2Proof.Machine
end

section
/-! An occupant list and the span of a cut: what leaving some lists makes of a section entry, the sections of a span (R83), and the nearest of them
below a section (R90). -/

namespace Sys2Proof.Machine

/-! ### Leaving lists (R82, R93, R96) -/

section
variable {s : State} {n : Nat}

/-- A section whose list a cut leaves empty is held no more. -/
theorem SectionEntry.without_emptied {e : SectionEntry} (h : e.occupants.filter (fun m => m != n) = []) (held : e.unproven = true) :
    e.without n = { e with occupants := [], unproven := false, proving := none } := by
  unfold SectionEntry.without
  rw [h, held]
  rfl

/-- A section whose list holds another cut, or that is not held, loses the cut from its list alone. -/
theorem SectionEntry.without_kept {e : SectionEntry} (h : e.occupants.filter (fun m => m != n) ≠ [] ∨ e.unproven = false) :
    e.without n = { e with occupants := e.occupants.filter (fun m => m != n) } := by
  unfold SectionEntry.without
  dsimp only
  refine if_neg fun both => ?_
  obtain ⟨held, empty⟩ := (Bool.and_eq_true _ _).mp both
  rcases h with h | h
  · exact h (List.isEmpty_iff.mp empty)
  · rw [h] at held
    cases held

theorem SectionEntry.without_unexplained (n : Nat) (e : SectionEntry) : (e.without n).unexplained = e.unexplained := by
  unfold SectionEntry.without
  dsimp only
  split <;> rfl

/-- A section with no list but this cut's is not held after the cut has left it. -/
theorem SectionEntry.without_unproven {e : SectionEntry} (h : e.occupants.filter (fun m => m != n) = []) : (e.without n).unproven = false := by
  cases held : e.unproven with
  | true => rw [SectionEntry.without_emptied h held]
  | false => rw [SectionEntry.without_kept (.inr held), held]

theorem SectionEntry.without_without (n : Nat) (e : SectionEntry) : (e.without n).without n = e.without n := by
  have twice : (e.without n).occupants.filter (fun m => m != n) = (e.without n).occupants := by
    rw [SectionEntry.without_occupants, List.filter_filter]
    simp
  by_cases h : (e.without n).occupants = []
  · rw [SectionEntry.without_kept (.inr (SectionEntry.without_unproven (SectionEntry.without_occupants n e ▸ h))), twice]
  · rw [SectionEntry.without_kept (.inl (by rw [twice]; exact h)), twice]

theorem section_leaveSections (l : List Nat) (y : Nat) :
    (leaveSections l n s).section y = if y ∈ l then (s.section y).without n else s.section y := by
  unfold leaveSections
  induction l generalizing s with
  | nil => rfl
  | cons x l ih =>
    rw [List.foldl_cons, ih, section_changeSection]
    by_cases hy : y = x
    · subst hy
      by_cases hl : y ∈ l <;> simp [hl, SectionEntry.without_without]
    · by_cases hl : y ∈ l <;> simp [hy, hl]

end

/-! ### The span (R83) -/

/-- A listed number of a canonical table reads as its entry. -/
theorem Table.read_of_mem {α : Type} (d : α) {t : Table α} (rising : Table.rising t = true) {e : Nat × α} (h : e ∈ t) :
    Table.read d t e.1 = e.2 := by
  induction t with
  | nil => cases h
  | cons c t ih =>
    obtain ⟨above, rest⟩ := (Bool.and_eq_true _ _).mp rising
    rcases List.mem_cons.mp h with rfl | h
    · exact if_pos rfl
    · have less : c.1 < e.1 := of_decide_eq_true (List.all_eq_true.mp above e h)
      exact (if_neg (Nat.ne_of_lt less)).trans (ih rest h)

section
variable {s : State} {n u : Nat}

theorem mem_spanOf_iff (canonical : Table.wf SectionEntry.initial s.sections = true) {x : Nat} :
    x ∈ s.spanOf n ↔ n ∈ (s.section x).occupants := by
  refine ⟨fun h => ?_, mem_spanOf s⟩
  obtain ⟨e, he, rfl⟩ := List.mem_map.mp h
  obtain ⟨listed, on⟩ := List.mem_filter.mp he
  have reads := Table.read_of_mem SectionEntry.initial ((Bool.and_eq_true _ _).mp canonical).1 listed
  rw [State.section, reads]
  exact List.contains_iff_mem.mp on

/-! ### The nearest section of a span below a section (R90) -/

/-- Of the nearest section so far, if there is one, and another section the one with the shorter path. -/
def State.nearer (s : State) (best : Option Nat) (y : Nat) : Option Nat :=
  match best with
  | none => some y
  | some z => if (s.tree.sectionPath y).length < (s.tree.sectionPath z).length then some y else some z

theorem nextOfSpan_eq : s.nextOfSpan n u = ((s.spanOf n).filter fun y => y != u && s.tree.sectionBelow y u).foldl s.nearer none := rfl

theorem nearest_of_some (l : List Nat) (z : Nat) : ∃ y, l.foldl s.nearer (some z) = some y ∧ (y = z ∨ y ∈ l)
    ∧ ∀ x, x = z ∨ x ∈ l → (s.tree.sectionPath y).length ≤ (s.tree.sectionPath x).length := by
  induction l generalizing z with
  | nil => exact ⟨z, rfl, .inl rfl, fun x hx => by rw [hx.resolve_right List.not_mem_nil]⟩
  | cons k l ih =>
    by_cases closer : (s.tree.sectionPath k).length < (s.tree.sectionPath z).length
    · have step : s.nearer (some z) k = some k := if_pos closer
      obtain ⟨y, fold, which, least⟩ := ih k
      refine ⟨y, by rw [List.foldl_cons, step, fold], .inr (List.mem_cons.mpr which), fun x hx => ?_⟩
      rcases hx with rfl | hx
      · exact (least k (.inl rfl)).trans closer.le
      · exact least x (List.mem_cons.mp hx)
    · have step : s.nearer (some z) k = some z := if_neg closer
      obtain ⟨y, fold, which, least⟩ := ih z
      refine ⟨y, by rw [List.foldl_cons, step, fold], which.imp_right (List.mem_cons_of_mem k), fun x hx => ?_⟩
      rcases hx with rfl | hx
      · exact least x (.inl rfl)
      · rcases List.mem_cons.mp hx with rfl | hx
        · exact (least z (.inl rfl)).trans (Nat.not_lt.mp closer)
        · exact least x (.inr hx)

/-- The nearest of some sections is one of them, and none of them has a shorter path. -/
theorem nearest_of_mem {l : List Nat} {h : Nat} (hh : h ∈ l) : ∃ y, l.foldl s.nearer none = some y ∧ y ∈ l
    ∧ ∀ x ∈ l, (s.tree.sectionPath y).length ≤ (s.tree.sectionPath x).length := by
  cases l with
  | nil => cases hh
  | cons z l =>
    obtain ⟨y, fold, which, least⟩ := nearest_of_some (s := s) l z
    exact ⟨y, fold, List.mem_cons.mpr which, fun x hx => least x (List.mem_cons.mp hx)⟩

/-- A section of a cut's span that lies below another. -/
theorem mem_below {x : Nat} : x ∈ (s.spanOf n).filter (fun y => y != u && s.tree.sectionBelow y u)
    ↔ x ∈ s.spanOf n ∧ x ≠ u ∧ s.tree.sectionBelow x u = true := by
  rw [List.mem_filter, Bool.and_eq_true, bne_iff_ne]

/-- A cut that stands below a section has a nearest section of its span below it. -/
theorem nextOfSpan_of_mem {h : Nat} (on : h ∈ s.spanOf n) (ne : h ≠ u) (below : s.tree.sectionBelow h u = true) :
    ∃ y, s.nextOfSpan n u = some y ∧ y ∈ s.spanOf n ∧ y ≠ u ∧ s.tree.sectionBelow y u = true
      ∧ ∀ z, z ≠ u → z ∈ s.spanOf n → s.tree.sectionBelow z u = true →
          (s.tree.sectionPath y).length ≤ (s.tree.sectionPath z).length := by
  obtain ⟨y, next, which, least⟩ := nearest_of_mem (s := s) (mem_below.mpr ⟨on, ne, below⟩)
  obtain ⟨onY, neY, belowY⟩ := mem_below.mp which
  exact ⟨y, nextOfSpan_eq.trans next, onY, neY, belowY, fun z hz hs hb => least z (mem_below.mpr ⟨hs, hz, hb⟩)⟩

theorem mem_leftBehind {y z : Nat} (next : s.nextOfSpan n u = some y) :
    z ∈ s.leftBehind n u ↔ z = u ∨ z ∈ s.spanOf n ∧ z ≠ y ∧ s.tree.sectionBelow z y = false := by
  unfold State.leftBehind
  rw [next]
  simp only [List.mem_cons, List.mem_filter, Bool.and_eq_true, bne_iff_ne, Bool.not_eq_true']
  by_cases e : z = u <;> simp [e]

end

end Sys2Proof.Machine
end

section
/-! A cut whose head has gone on leaves a clearing section: its tail, its lists and its claims (R82, R83, R90, R117), and the throw decision at the
point of the section (R101, R120). -/

namespace Sys2Proof.Machine

/-! ### The cut is drawn out (R90, R117) -/

section
variable {s : State} {c n u : Nat} {r : Record}

/-- A record with another tail section. -/
def Record.tailed (y : Option Nat) (r : Record) : Record := { r with tail := y }

theorem drawOut_eq : drawOut u s n = withdrawAt (s.pointsIn (s.leftBehind n u)) n
    (changeRecord n (Record.tailed (s.nextOfSpan n u)) (leaveSections (s.leftBehind n u) n s)) := rfl

theorem drawOut_section (y : Nat) :
    (drawOut u s n).section y = if y ∈ s.leftBehind n u then (s.section y).without n else s.section y := by
  rw [drawOut_eq, withdrawAt_section, changeRecord_section, section_leaveSections]

/-- The lists in which the cut stands still (log 28). -/
theorem mem_drawOut {y : Nat} : n ∈ ((drawOut u s n).section y).occupants ↔ n ∈ (s.section y).occupants ∧ y ∉ s.leftBehind n u := by
  rw [drawOut_section]
  split
  · rename_i behind
    rw [SectionEntry.without_occupants]
    exact ⟨fun h => absurd rfl (bne_iff_ne.mp (List.mem_filter.mp h).2), fun h => absurd behind h.2⟩
  · rename_i ahead
    exact ⟨fun h => ⟨h, ahead⟩, fun h => h.1⟩

theorem drawOut_frame : drawOut u s n = { s with
    records := (drawOut u s n).records, sections := (drawOut u s n).sections, claims := (drawOut u s n).claims, flags := (drawOut u s n).flags } := by
  have only := changeRecord_only (leaveSections (s.leftBehind n u) n s) n (Record.tailed (s.nextOfSpan n u))
  unfold RecordsOnly at only
  rw [drawOut_eq, withdrawAt_frame, only, leaveSections_frame]

theorem drawOut_claimsAt (q : Nat) : (drawOut u s n).claimsAt q
    = if q ∈ s.pointsIn (s.leftBehind n u) then (s.claimsAt q).filter (fun k => k.cut != n) else s.claimsAt q := by
  have same : (changeRecord n (Record.tailed (s.nextOfSpan n u)) (leaveSections (s.leftBehind n u) n s)).claimsAt q = s.claimsAt q := by
    unfold State.claimsAt
    rw [changeRecord_claims, leaveSections_frame]
  rw [drawOut_eq, claimsAt_withdrawAt, same]

theorem drawOut_claimOf (q : Nat) : (drawOut u s n).claimOf q n = if q ∈ s.pointsIn (s.leftBehind n u) then none else s.claimOf q n := by
  unfold State.claimOf
  rw [drawOut_claimsAt]
  split
  · rw [find_withdrawn, if_pos rfl]
  · rfl

theorem drawOut_records :
    (drawOut u s n).records = (changeRecord n (Record.tailed (s.nextOfSpan n u)) s).records := by
  rw [drawOut_eq, (withdrawAt_records _ _ n).1, changeRecord_records, changeRecord_records, leaveSections_frame]

theorem drawOut_record (hr : s.record n = some r) :
    (drawOut u s n).record n = some (Record.changed (Record.tailed (s.nextOfSpan n u)) r) := by
  rw [record_congr drawOut_records, record_changeRecord_same s n (Record.tailed _) fun _ => rfl, hr]
  rfl

theorem drawOut_other {m : Nat} (other : m ≠ n) : (drawOut u s n).record m = s.record m := by
  rw [record_congr drawOut_records]
  exact record_changeRecord_other s (Record.tailed _) (fun _ => rfl) other

theorem mem_pointsIn {l : List Nat} {p : Nat} : p ∈ s.pointsIn l ↔ ∃ x ∈ l, pointOfSection s.layout x = some p := List.mem_filterMap

/-! ### The clearing (R90) -/

/-- The board after a section with one cut, whose head has gone on, has come clear. -/
def vacated (c u n : Nat) (s : State) : State := drawOut u (cleared c u s) n

theorem vacated_frame : vacated c u n s = { s with
    channels := (setChannel c false s).channels, records := (vacated c u n s).records, sections := (vacated c u n s).sections
    claims := (vacated c u n s).claims, flags := (vacated c u n s).flags } := drawOut_frame

/-- A section of one cut, whose head is elsewhere, clears: the cut is drawn out, and the follow-up is taken. -/
theorem exec_clear_gone {h : Nat} (h1 : 1 ≤ c) (h2 : c ≤ 128) (hs : s.runState ≠ .halted) (on : s.channel c = true)
    (sec : sectionOfChannel s.layout c = some u) (alone : (s.section u).occupants = [n]) (hr : s.record n = some r) (head : r.head = some h)
    (ne : h ≠ u) : exec (.sectionClear c) s = .next (finish (followUp s [] [] (vacated c u n s))) := by
  have inside : ((setChannel c false s).section u).occupants = [n] := alone
  have there : (setChannel c false s).headIn u n = false := by
    show ((s.record n).bind Record.head == some u) = false
    rw [hr]
    exact beq_eq_false_iff_ne.mpr fun e => ne (Option.some.inj (head.symm.trans e))
  have left : sectionLeft s u (setChannel c false s) = followUp s [] [] (vacated c u n s) := by
    unfold sectionLeft
    rw [inside]
    simp only [List.filter_cons, List.filter_nil, there, Bool.not_false, if_true, Bool.false_eq_true, if_false, List.isEmpty_nil]
    rfl
  rw [exec_sectionClear s (channelNumber_iff.mpr ⟨h1, h2⟩), on, if_pos rfl]
  unfold inputChanges
  simp only [sec, supervised_of_ne hs, if_true, Bool.false_eq_true, if_false, left]

theorem mem_spanOf_cleared (canonical : Canonical s) {x : Nat} : x ∈ (cleared c u s).spanOf n ↔ n ∈ (s.section x).occupants := by
  rw [mem_spanOf_iff (Table.write_wf _ _ _ _ canonical.sections), cleared_occupants]

/-- The section the tail passes to (R90). -/
theorem vacated_next {h : Nat} (canonical : Canonical s) (on : n ∈ (s.section h).occupants) (ne : h ≠ u)
    (below : s.tree.sectionBelow h u = true) :
    ∃ y, (cleared c u s).nextOfSpan n u = some y ∧ n ∈ (s.section y).occupants ∧ y ≠ u ∧ s.tree.sectionBelow y u = true
      ∧ ∀ z, z ≠ u → n ∈ (s.section z).occupants → s.tree.sectionBelow z u = true →
          (s.tree.sectionPath y).length ≤ (s.tree.sectionPath z).length := by
  obtain ⟨y, next, onY, neY, belowY, least⟩ := nextOfSpan_of_mem (s := cleared c u s) ((mem_spanOf_cleared canonical).mpr on) ne below
  exact ⟨y, next, (mem_spanOf_cleared canonical).mp onY, neY, belowY, fun z hz hn => least z hz ((mem_spanOf_cleared canonical).mpr hn)⟩

/-- The sections the cut leaves: the clearing one, and those of its span that do not lie below its new tail (log 28). -/
theorem mem_left {y z : Nat} (canonical : Canonical s) (next : (cleared c u s).nextOfSpan n u = some y) :
    z ∈ (cleared c u s).leftBehind n u ↔ z = u ∨ n ∈ (s.section z).occupants ∧ z ≠ y ∧ s.tree.sectionBelow z y = false := by
  rw [mem_leftBehind next, mem_spanOf_cleared canonical]
  rfl

/-- What the follow-up leaves of the record of the cut: its new tail, and no other change but of its watch. -/
theorem vacated_record {y : Nat} (hr : s.record n = some r) (next : (cleared c u s).nextOfSpan n u = some y) :
    ∃ w, (followUp s [] [] (vacated c u n s)).record n = some w
      ∧ w.tail = some y ∧ w.head = r.head ∧ w.state = r.state ∧ w.speed = r.speed := by
  obtain ⟨w, hw, agrees⟩ := followUp_agrees s [] [] (drawOut_record (s := cleared c u s) (u := u) hr)
  refine ⟨w, hw, ?_⟩
  unfold Record.AgreesButWatch at agrees
  rw [agrees, Record.changed_eq, next]
  exact ⟨rfl, rfl, rfl, rfl⟩

theorem mem_vacated {y z : Nat} (canonical : Canonical s) (next : (cleared c u s).nextOfSpan n u = some y) :
    n ∈ ((vacated c u n s).section z).occupants ↔ z ≠ u ∧ n ∈ (s.section z).occupants ∧ (z = y ∨ s.tree.sectionBelow z y = true) := by
  unfold vacated
  rw [mem_drawOut, cleared_occupants, mem_left canonical next, not_or, ← Bool.not_eq_true]
  tauto

/-- The claims at the points of the sections the cut has left are withdrawn (R117). -/
theorem vacated_claimOf_left {z p : Nat} (on : n ∈ (s.section z).occupants) (off : n ∉ ((vacated c u n s).section z).occupants)
    (at_ : pointOfSection s.layout z = some p) :
    (vacated c u n s).claimOf p n = none := by
  have behind : z ∈ (cleared c u s).leftBehind n u := by
    by_contra ahead
    exact off (mem_drawOut.mpr ⟨by rw [cleared_occupants]; exact on, ahead⟩)
  exact (drawOut_claimOf p).trans (if_pos (mem_pointsIn.mpr ⟨z, behind, at_⟩))

end

/-! ### A span of two sections -/

section
variable {s : State} {c n u h : Nat}

/-- A cut in the clearing section and its head section alone leaves the one for the other. -/
theorem left_two (canonical : Canonical s) (on : n ∈ (s.section h).occupants) (ne : h ≠ u) (below : s.tree.sectionBelow h u = true)
    (span : ∀ y, n ∈ (s.section y).occupants → y = u ∨ y = h) :
    (cleared c u s).nextOfSpan n u = some h ∧ ∀ z, z ∈ (cleared c u s).leftBehind n u ↔ z = u := by
  obtain ⟨y, next, onY, neY, -⟩ := vacated_next (c := c) canonical on ne below
  obtain rfl := (span y onY).resolve_left neY
  refine ⟨next, fun z => (mem_left canonical next).trans ⟨fun left => ?_, .inl⟩⟩
  rcases left with e | ⟨onZ, neZ, -⟩
  · exact e
  · exact (span z onZ).resolve_right neZ

section
variable (left : ∀ z, z ∈ (cleared c u s).leftBehind n u ↔ z = u)
include left

theorem vacated_section_own : (vacated c u n s).section u = { s.section u with unexplained := false }.without n := by
  refine (drawOut_section u).trans ?_
  rw [if_pos ((left u).mpr rfl), cleared_section, if_pos rfl]

theorem vacated_section_other {y : Nat} (ne : y ≠ u) : (vacated c u n s).section y = s.section y := by
  refine (drawOut_section y).trans ?_
  rw [if_neg (mt (left y).mp ne), cleared_section, if_neg ne]

theorem mem_points_left {p : Nat} : p ∈ (cleared c u s).pointsIn ((cleared c u s).leftBehind n u) ↔ pointOfSection s.layout u = some p := by
  refine mem_pointsIn.trans ⟨?_, fun at_ => ⟨u, (left u).mpr rfl, at_⟩⟩
  rintro ⟨x, behind, at_⟩
  obtain rfl := (left x).mp behind
  exact at_

theorem vacated_claimOf (p : Nat) : (vacated c u n s).claimOf p n = if pointOfSection s.layout u = some p then none else s.claimOf p n := by
  refine (drawOut_claimOf p).trans ?_
  simp only [mem_points_left left]
  rfl

/-- The clearing section of one cut is CLEAR, so its point is locked no more (R82). -/
theorem vacated_unlocked {p : Nat} (sec : sectionOfChannel s.layout c = some u) (alone : (s.section u).occupants = [n])
    (switch : switchSection s.layout p = u) : (vacated c u n s).locked p = false := by
  obtain ⟨used, channel⟩ := used_of_channel sec
  have layout : (vacated c u n s).layout = s.layout := by rw [vacated_frame]; rfl
  have off : (vacated c u n s).sectionInput u = false := by
    have clear := channel_cleared (s := s) (c := c) (u := u) c
    rw [if_pos rfl] at clear
    unfold State.sectionInput
    rw [layout, channel, used, vacated_frame]
    exact clear
  have proven : ((vacated c u n s).section u).unproven = false := by
    rw [vacated_section_own left]
    exact SectionEntry.without_unproven (by show (s.section u).occupants.filter _ = []; rw [alone]; simp)
  unfold State.locked State.shownState
  rw [layout, switch, off, proven, used]
  simp

end

/-! ### The throw decision (R120) -/

/-- A throw decision is the same one, read from a board where the claims at the point and the records of their cuts are the same. -/
theorem SameGround.decided_of_claimants {t : State} {p : Nat} (ground : SameGround s t) (claims : t.claimsAt p = s.claimsAt p)
    (point : t.point p = s.point p) (records : ∀ k ∈ t.claimsAt p, t.record k.cut = s.record k.cut) {e : PointEntry} :
    t.Decided p e ↔ s.Decided p e := by
  have same : SameGround s { t with records := s.records } :=
    ⟨ground.runState, ground.clock, ground.channels, ground.sections, ground.detections, ground.active, ground.tree⟩
  have lent : ({ t with records := s.records } : State).Decided p e ↔ s.Decided p e := same.decided claims point (.of_records rfl)
  have heads : ∀ k rest, t.claimsAt p = k :: rest → ({ t with records := s.records } : State).record k.cut = t.record k.cut :=
    fun k rest hk => (records k (hk ▸ List.mem_cons_self ..)).symm
  rw [← lent]
  constructor
  · rintro ⟨thrown, kept⟩
    exact ⟨fun k rest r hk hr => thrown k rest r hk ((heads k rest hk).symm.trans hr),
      fun none_ => kept fun k rest r hk hr => none_ k rest r hk ((heads k rest hk).trans hr)⟩
  · rintro ⟨thrown, kept⟩
    exact ⟨fun k rest r hk hr => thrown k rest r hk ((heads k rest hk).trans hr),
      fun none_ => kept fun k rest r hk hr => none_ k rest r hk ((heads k rest hk).symm.trans hr)⟩

/-- The point of the clearing section comes to be unlocked, so its throw decision is taken (R101, R120). -/
theorem vacated_due {p : Nat} (left : ∀ z, z ∈ (cleared c u s).leftBehind n u ↔ z = u) (on : s.channel c = true)
    (sec : sectionOfChannel s.layout c = some u) (alone : (s.section u).occupants = [n]) (at_ : pointOfSection s.layout u = some p)
    (switch : switchSection s.layout p = u) : decisionDue s (vacated c u n s) p = true := by
  have before : s.locked p = true := locked_of_on at_ switch (by rw [(used_of_channel sec).2]; exact on)
  unfold decisionDue
  rw [before, vacated_unlocked left sec alone switch]
  simp

/-- The throw decision at the point of the clearing section, read from before the change but for the field lines, the lists and the claims. -/
theorem vacated_decided {p : Nat} (left : ∀ z, z ∈ (cleared c u s).leftBehind n u ↔ z = u) (on : s.channel c = true)
    (sec : sectionOfChannel s.layout c = some u) (alone : (s.section u).occupants = [n]) (at_ : pointOfSection s.layout u = some p)
    (switch : switchSection s.layout p = u) :
    ({ s with
        channels := (vacated c u n s).channels, sections := (vacated c u n s).sections, claims := (vacated c u n s).claims } : State).Decided p
      ((followUp s [] [] (vacated c u n s)).point p) := by
  have claimants : ∀ k ∈ (vacated c u n s).claimsAt p, (vacated c u n s).record k.cut = s.record k.cut := fun k hk => by
    have queue : (vacated c u n s).claimsAt p = _ := drawOut_claimsAt p
    rw [queue, if_pos ((mem_points_left left).mpr at_)] at hk
    exact drawOut_other (s := cleared c u s) (bne_iff_ne.mp (List.mem_filter.mp hk).2)
  have decided := followUp_decided [] [] (vacated_due left on sec alone at_ switch)
  have ground : SameGround { s with
      channels := (vacated c u n s).channels, sections := (vacated c u n s).sections, claims := (vacated c u n s).claims } (vacated c u n s) := by
    rw [vacated_frame]
    exact ⟨rfl, rfl, rfl, rfl, rfl, rfl, rfl⟩
  have point : (vacated c u n s).point p = s.point p := by
    rw [vacated_frame]
    rfl
  exact (ground.decided_of_claimants rfl point claimants).mp decided

end

/-- Settles O52: the board that `vacated` gives, which the follow-up leaves but for watches and points, and `vacated_decided` at the point. -/
theorem tailLeavesTheSection : Obligations.TailLeavesTheSection := by
  constructor
  · intro s c u h n r canonical h1 h2 hs on sec alone hr head ne onHead below
    obtain ⟨y, next, onY, neY, belowY, least⟩ := vacated_next (c := c) canonical onHead ne below
    obtain ⟨w, hw, tail, -⟩ := vacated_record (c := c) hr next
    have lists : ∀ z, (followUp s [] [] (vacated c u n s)).section z = (vacated c u n s).section z := followUp_section s [] []
    refine ⟨_, w, y, exec_clear_gone h1 h2 hs on sec alone hr head ne, hw, tail, neY, onY, belowY, least, fun z => ?_, fun z p onZ offZ at_ => ?_⟩
    · show n ∈ ((followUp s [] [] (vacated c u n s)).section z).occupants ↔ _
      rw [lists, mem_vacated canonical next]
    · change n ∉ ((followUp s [] [] (vacated c u n s)).section z).occupants at offZ
      rw [lists] at offZ
      exact (followUp_claimOf s [] [] p n).trans (vacated_claimOf_left onZ offZ at_)
  · intro s c u h n r canonical h1 h2 hs on sec alone hr head ne onHead below span
    obtain ⟨next, left⟩ := left_two (c := c) canonical onHead ne below span
    obtain ⟨w, hw, tail, headW, state, speed⟩ := vacated_record (c := c) hr next
    have own := vacated_section_own left
    have decided := fun p => vacated_decided (p := p) left on sec alone
    have lists : ∀ z, (followUp s [] [] (vacated c u n s)).section z = (vacated c u n s).section z := followUp_section s [] []
    have claimOf : ∀ p, (followUp s [] [] (vacated c u n s)).claimOf p n = _ := fun p =>
      (followUp_claimOf s [] [] p n).trans (vacated_claimOf left p)
    obtain ⟨claims, tracks⟩ := followUp_claims (vacated c u n s) s [] []
    have sections := followUp_sections (s := vacated c u n s) s [] []
    have channels := (followUp_replans (vacated c u n s) 0 s [] []).ground.channels
    have inTree := followUp_inTree (s := vacated c u n s) s [] []
    rw [← channels, ← sections, ← claims] at decided
    refine ⟨_, w, exec_clear_gone h1 h2 hs on sec alone hr head ne, hw, ?_, ?_, fun y hy => (lists y).trans (vacated_section_other left hy),
      tail, headW, state, speed, fun p at_ => (claimOf p).trans (if_pos at_), fun p off => (claimOf p).trans (if_neg off), decided, ?_, ?_⟩
    · refine (congrArg SectionEntry.occupants ((lists u).trans own)).trans ((SectionEntry.without_occupants n _).trans ?_)
      show (s.section u).occupants.filter _ = []
      rw [alone]
      simp
    · exact (congrArg SectionEntry.unexplained ((lists u).trans own)).trans (SectionEntry.without_unexplained n _)
    · exact tracks.trans (by rw [vacated_frame])
    · exact inTree.trans (by rw [vacated_frame])

end Sys2Proof.Machine
end

section
/-! The proving timer of an UNPROVEN section runs out: its cuts are LOST, and the section is as after power-on (R94, R96). -/

namespace Sys2Proof.Machine

/-! ### The lists and the count after losses (R28, R96) -/

section
variable {s : State} {n m x : Nat} {why : LostReason}

theorem loseCut_inTree_of_other (hm : s.isInTree m = true) (other : m ≠ n) : (loseCut why n s).isInTree m = true := by
  obtain ⟨r, hr, ht⟩ := (isInTree_iff s).mp hm
  exact (isInTree_iff _).mpr ⟨r, loseCut_record_of_other hr ht other, ht⟩

theorem loseCut_rest_inTree {k : Nat} {l : List Nat} (inside : ∀ j ∈ k :: l, s.isInTree j = true) (fresh : k ∉ l) :
    ∀ j ∈ l, (loseCut why k s).isInTree j = true := fun j hj =>
  loseCut_inTree_of_other (inside j (List.mem_cons_of_mem k hj)) fun e => fresh (e ▸ hj)

/-- A cut that stands in a list after the loss of another stood there before; the cut lost stands in none. -/
theorem loseCut_occupant (h : m ∈ ((loseCut why n s).section x).occupants) :
    m ∈ (s.section x).occupants ∧ (s.isInTree n = true → m ≠ n) := by
  by_cases inside : s.isInTree n = true
  · rw [(loseCut_departed why inside).occupants] at h
    obtain ⟨on, ne⟩ := List.mem_filter.mp h
    exact ⟨on, fun _ => bne_iff_ne.mp ne⟩
  · rw [loseCut_out s why (Bool.not_eq_true _ ▸ inside)] at h
    exact ⟨h, fun e => absurd e inside⟩

theorem loseCuts_occupant {l : List Nat} (inside : ∀ k ∈ l, s.isInTree k = true) (once : l.Nodup)
    (h : m ∈ ((loseCuts why l s).section x).occupants) : m ∈ (s.section x).occupants ∧ m ∉ l := by
  induction l generalizing s with
  | nil => exact ⟨h, List.not_mem_nil⟩
  | cons k l ih =>
    obtain ⟨fresh, once⟩ := List.nodup_cons.mp once
    have still := loseCut_rest_inTree (why := why) inside fresh
    obtain ⟨on, off⟩ := ih still once h
    obtain ⟨on, ne⟩ := loseCut_occupant on
    exact ⟨on, List.not_mem_cons_of_ne_of_not_mem (ne (inside k (List.mem_cons_self ..))) off⟩

theorem loseCuts_inTree {l : List Nat} (inside : ∀ k ∈ l, s.isInTree k = true) (once : l.Nodup) :
    (loseCuts why l s).inTree = s.inTree - l.length := by
  induction l generalizing s with
  | nil => rfl
  | cons k l ih =>
    obtain ⟨fresh, once⟩ := List.nodup_cons.mp once
    have still := loseCut_rest_inTree (why := why) inside fresh
    rw [loseCuts_cons, ih still once, (loseCut_departed why (inside k (List.mem_cons_self ..))).inTree, List.length_cons, Nat.sub_sub, Nat.add_comm]

theorem releaseFrom_sections (y : Option Nat) (len : Nat) : (releaseFrom y len s).sections = s.sections := by
  cases y with
  | none => rfl
  | some y => exact changeTrack_sections ..

theorem RecordsOnly.section_eq {t : State} (h : RecordsOnly s t) (y : Nat) : t.section y = s.section y := by
  unfold RecordsOnly at h
  rw [h]
  rfl

theorem sendAway_unexplained (f g : Record → Record) : ((sendAway f g n s).section x).unexplained = (s.section x).unexplained := by
  have records := changeRecords_only (leaveTree (changeRecord n f s)) (s.joinedFollowers n) g
  have before : (changeRecords (s.joinedFollowers n) g (leaveTree (changeRecord n f s))).section x = s.section x :=
    (records.section_eq x).trans (changeRecord_section n f x)
  unfold sendAway withdrawAll
  dsimp only
  rw [section_leaveSections, withdrawAt_section, before]
  split
  · exact SectionEntry.without_unexplained n _
  · rfl

theorem loseCut_unexplained : ((loseCut why n s).section x).unexplained = (s.section x).unexplained := by
  by_cases inside : s.isInTree n = true
  · rw [loseCut_eq s why inside, State.section, releaseFrom_sections]
    exact sendAway_unexplained _ _
  · rw [loseCut_out s why (Bool.not_eq_true _ ▸ inside)]

theorem loseCuts_unexplained (l : List Nat) : ((loseCuts why l s).section x).unexplained = (s.section x).unexplained := by
  induction l generalizing s with
  | nil => rfl
  | cons k l ih => rw [loseCuts_cons, ih, loseCut_unexplained]

end

/-! ### The expiry (R94) -/

section
variable {s : State} {x : Nat} {l : Instant}

theorem exec_provingTimerExpiry (held : (s.section x).unproven = true) (timer : (s.section x).proving = some l) (past : after l s.clock = false) :
    exec (.provingTimerExpiry x) s = .next (finish (provingExpires x s)) := by
  show execProvingTimerExpiry x s = _
  simp [execProvingTimerExpiry, provingDue, timer, held, due, past]

/-- The board once the cuts of a held section are LOST and its hold has ended, before the follow-up. -/
def unheld (x : Nat) (s : State) : State :=
  latch .sectionCause (changeSection x (fun e => { e with unproven := false, proving := none }) (loseCuts .unproven (s.section x).occupants s))

theorem provingExpires_eq : provingExpires x s = followUp s [] [] (unheld x s) := rfl

theorem unheld_section (k : Followed s) (explained : (s.section x).unexplained = false) : (unheld x s).section x = SectionEntry.initial := by
  have nobody : ((loseCuts .unproven (s.section x).occupants s).section x).occupants = [] :=
    List.eq_nil_iff_forall_not_mem.mpr fun m hm => by
      obtain ⟨on, off⟩ := loseCuts_occupant (k.occupants x) (k.listedOnce x) hm
      exact off on
  have plain : ((loseCuts .unproven (s.section x).occupants s).section x).unexplained = false := (loseCuts_unexplained _).trans explained
  refine ((section_changeSection _ x (fun e => { e with unproven := false, proving := none }) x).trans (if_pos rfl)).trans ?_
  show SectionEntry.mk _ _ _ _ = _
  rw [nobody, plain]
  rfl

theorem provingExpires_lost (k : Followed s) {n : Nat} (hn : n ∈ (s.section x).occupants) :
    ∃ w, (provingExpires x s).record n = some w ∧ w.state = .lost ∧ w.lostReason = some .unproven := by
  obtain ⟨r, hr, ht⟩ := (isInTree_iff s).mp (k.occupants x n hn)
  obtain ⟨state, reason⟩ := lose_state .unproven r
  have lost : (unheld x s).record n = some (Record.changed (Record.lose .unproven) r) := loseCuts_record_of_mem hr ht hn
  refine ⟨_, followUp_still s [] [] lost ?_, state, reason⟩
  rw [state]
  rintro (e | e) <;> cases e

theorem provingExpires_inTree (k : Followed s) : (provingExpires x s).inTree = s.inTree - (s.section x).occupants.length :=
  (followUp_inTree s [] []).trans (loseCuts_inTree (k.occupants x) (k.listedOnce x))

theorem provingExpires_latched : latched .sectionCause (provingExpires x s) = true := by
  have now : latched .sectionCause (unheld x s) = true := by
    unfold unheld
    rw [latched_latch]
    simp
  exact followUp_flagsStay s [] [] _ now

theorem provingExpires_only : provingExpires x s = { s with
    pending := (provingExpires x s).pending, records := (provingExpires x s).records, inTree := (provingExpires x s).inTree
    tracks := (provingExpires x s).tracks, sections := (provingExpires x s).sections, claims := (provingExpires x s).claims
    points := (provingExpires x s).points, flags := (provingExpires x s).flags } := by
  obtain ⟨l, frame⟩ := provingExpires_hump s x
  rw [frame]

end

end Sys2Proof.Machine
end

section
/-! A cut held in an UNPROVEN section enters the section below: its span is cut back to that section, its claims behind are withdrawn, and the hold
ends where no other cut is held there (R86, R93, R96, R117). -/

namespace Sys2Proof.Machine

/-! ### Shown states (R82) -/

section
variable {s : State} {c n x u : Nat} {r : Record}

theorem shownState_unproven_iff : s.shownState u = .unproven
    ↔ sectionUsed s.layout u = true ∧ s.sectionInput u = false ∧ (s.section u).unproven = true := by
  unfold State.shownState
  cases sectionUsed s.layout u <;> cases s.sectionInput u <;> cases (s.section u).unproven <;> cases (s.section u).unexplained <;> simp

theorem shownState_setChannel (b : Bool) (ne : sectionChannel s.layout u ≠ c) : (setChannel c b s).shownState u = s.shownState u := by
  have input : (setChannel c b s).sectionInput u = s.sectionInput u := by
    unfold State.sectionInput
    rw [channel_setChannel, if_neg (by exact ne)]
    rfl
  unfold State.shownState
  rw [input]
  rfl

/-! ### The credit of a held cut (R86) -/

/-- The sections of a cut's span but one. -/
def State.spanBut (s : State) (n x : Nat) : List Nat := (s.spanOf n).filter fun y => y != x

theorem mem_spanBut {y : Nat} (on : n ∈ (s.section y).occupants) (ne : y ≠ x) : y ∈ s.spanBut n x := mem_back.mpr ⟨mem_spanOf s on, ne⟩

theorem creditEntry_held (hr : s.record n = some r) (head : r.head = some u) (held : s.shownState u = .unproven) :
    creditEntry n x s = withdrawAt (s.pointsIn (s.spanBut n x)) n (checkBranch n u x (endHold x (creditHead n x true r s))) := by
  unfold creditEntry
  rw [hr]
  dsimp only
  rw [head]
  dsimp only
  rw [held]
  rfl

theorem checkBranch_sections (n u x : Nat) (s : State) : (checkBranch n u x s).sections = s.sections := by
  rcases checkBranch_cases n u x s with ⟨-, plain⟩ | ⟨p, b, -, -, went⟩
  · rw [plain]
  · rw [went, wentOut_replans.frame]

/-- A branch compared leaves the tail of the cut. -/
theorem checkBranch_tail (hr : s.record n = some r) (u : Nat) : ∃ w, (checkBranch n u x s).record n = some w ∧ w.tail = r.tail := by
  rcases checkBranch_cases n u x s with ⟨-, plain⟩ | ⟨p, b, -, by_, went⟩
  · exact ⟨r, by rw [plain]; exact hr, rfl⟩
  · obtain ⟨w, hw, out⟩ := wentOut_record (why := s.strayReason p) (wrong := s.misrouted p n b) (unplanned := s.unplannedAt p n) hr
      (branchTarget_of_branchTo by_)
    exact ⟨w, by rw [went]; exact hw, by rw [out.agrees]⟩

theorem creditEntry_held_tail (hr : s.record n = some r) (head : r.head = some u) (held : s.shownState u = .unproven) :
    ∃ w, (creditEntry n x s).record n = some w ∧ w.tail = some x := by
  obtain ⟨v, hv, -, tail⟩ := creditHead_record (x := x) (held := true) hr
  have ended : (endHold x (creditHead n x true r s)).record n = some v := hv
  obtain ⟨w, hw, same⟩ := checkBranch_tail (x := x) ended u
  rw [creditEntry_held hr head held, record_congr (withdrawAt_records _ _ n).1]
  exact ⟨w, hw, same.trans tail⟩

theorem creditEntry_held_section (hr : s.record n = some r) (head : r.head = some u) (held : s.shownState u = .unproven) {y : Nat} (ne : y ≠ x) :
    (creditEntry n x s).section y = if y ∈ s.spanBut n x then (s.section y).without n else s.section y := by
  have only := addMarkIf_only (changeRecord n (Record.credit s x x (s.entrySpeed r).1 true)
    (leaveSections (s.spanBut n x) n (enterSection x n s))) (s.entrySpeed r).2 .speedClamped n
  have credit : (creditHead n x true r s).section y = (leaveSections (s.spanBut n x) n (enterSection x n s)).section y :=
    (only.section_eq y).trans (changeRecord_section n (Record.credit s x x (s.entrySpeed r).1 true) y)
  have branch : (checkBranch n u x (endHold x (creditHead n x true r s))).section y = (endHold x (creditHead n x true r s)).section y := by
    rw [State.section, checkBranch_sections]
    rfl
  have entered : (enterSection x n s).section y = s.section y := (section_changeSection s x _ y).trans (if_neg ne)
  rw [creditEntry_held hr head held, withdrawAt_section, branch, endHold, section_changeSection, if_neg ne, credit, section_leaveSections, entered]

theorem creditEntry_held_claimOf (hr : s.record n = some r) (head : r.head = some u) (held : s.shownState u = .unproven) {y p : Nat} (ne : y ≠ x)
    (on : n ∈ (s.section y).occupants) (at_ : pointOfSection s.layout y = some p) : (creditEntry n x s).claimOf p n = none := by
  rw [creditEntry_held hr head held, claimOf_withdrawAt, if_pos ⟨mem_pointsIn.mpr ⟨y, mem_spanBut on ne, at_⟩, rfl⟩]

end

/-! ### The entry (R86, R93, R96) -/

section
variable {s t : State} {c n x u : Nat} {r v w z : Record}

/-- The sections other than the one entered, after the entry of a held cut. -/
theorem Entered.section_of_held (h : Entered c x n s t r v w z) (hr : s.record n = some r) (head : r.head = some u)
    (other : sectionChannel s.layout u ≠ c) (held : s.shownState u = .unproven) {y : Nat} (ne : y ≠ x) :
    t.section y = if y ∈ s.spanBut n x then (s.section y).without n else s.section y := by
  rw [State.section, h.sections]
  exact creditEntry_held_section (s := setChannel c true s) hr head ((shownState_setChannel true other).trans held) ne

theorem Entered.tail_of_held (h : Entered c x n s t r v w z) (hr : s.record n = some r) (head : r.head = some u)
    (other : sectionChannel s.layout u ≠ c) (held : s.shownState u = .unproven) : z.tail = some x := by
  obtain ⟨k, hk, tail⟩ := creditEntry_held_tail (s := setChannel c true s) (x := x) hr head ((shownState_setChannel true other).trans held)
  obtain rfl := Option.some.inj (h.entrance.record.symm.trans hk)
  rw [h.agrees]
  exact tail

theorem Entered.claimOf_of_held (h : Entered c x n s t r v w z) (hr : s.record n = some r) (head : r.head = some u)
    (other : sectionChannel s.layout u ≠ c) (held : s.shownState u = .unproven) {y p : Nat} (ne : y ≠ x) (on : n ∈ (s.section y).occupants)
    (at_ : pointOfSection s.layout y = some p) : t.claimOf p n = none := by
  have gone := creditEntry_held_claimOf (s := setChannel c true s) hr head ((shownState_setChannel true other).trans held) ne on at_
  rw [State.claimOf, State.claimsAt, h.claims]
  exact gone

/-- A section whose input is off, and which is held no more, shows CLEAR (R82). -/
theorem Entered.shown_clear (h : Entered c x n s t r v w z) (other : sectionChannel s.layout u ≠ c) (held : s.shownState u = .unproven)
    (proven : (t.section u).unproven = false) : t.shownState u = .clear := by
  obtain ⟨used, off, -⟩ := shownState_unproven_iff.mp held
  have layout : t.layout = s.layout := by rw [h.frame]; rfl
  have input : t.sectionInput u = s.sectionInput u := by
    unfold State.sectionInput State.channel
    rw [layout, h.frame]
    show (_ && (setChannel c true s).channel _) = _
    rw [channel_setChannel, if_neg other]
    rfl
  unfold State.shownState
  rw [layout, input, used, off, proven]
  rfl

end

/-- Settles O55: the losses, one by one, of `unheld`, and the entry `Entered` of a cut whose span is cut back (`creditEntry_held`). -/
theorem holdRunsOut : Obligations.HoldRunsOut := by
  constructor
  · intro s x l followed held explained timer past
    have only := provingExpires_only (s := s) (x := x)
    refine ⟨_, exec_provingTimerExpiry held timer past, (followUp_section s [] [] x).trans (unheld_section followed explained),
      fun n hn => provingExpires_lost followed hn, provingExpires_inTree followed, provingExpires_latched, ?_⟩
    exact congrArg (fun t : State => { t with
      humpPermit := (finish (provingExpires x s)).humpPermit, attentionLine := (finish (provingExpires x s)).attentionLine }) only
  · intro s c x u n r h1 h2 hs off sec who hr room head ne other held on
    obtain ⟨-, -, unproven⟩ := shownState_unproven_iff.mp held
    obtain ⟨v, w, z, e⟩ := entered_spec (c := c) (x := x) hr
    obtain ⟨headZ, -⟩ := e.fields
    obtain ⟨listed, -⟩ := e.list
    have section_ := fun {y : Nat} => e.section_of_held hr head other held (y := y)
    have own := section_ ne
    rw [if_pos (mem_spanBut on ne)] at own
    refine ⟨_, z, exec_entered h1 h2 hs off sec who room, e.record, ⟨headZ, e.tail_of_held hr head other held⟩, listed, fun y hy on => ?_,
      fun y p hy onY at_ => e.claimOf_of_held hr head other held hy onY at_, fun alone => ?_, fun ⟨m, hm, neM⟩ => ?_⟩
    · change n ∈ ((entered c x n s).section y).occupants at on
      rw [section_ hy] at on
      split at on
      · rw [SectionEntry.without_occupants] at on
        exact bne_iff_ne.mp (List.mem_filter.mp on).2 rfl
      · rename_i away
        exact away (mem_spanBut on hy)
    · have emptied : (s.section u).occupants.filter (fun m => m != n) = [] := by
        rw [alone]
        simp
      rw [SectionEntry.without_emptied emptied unproven] at own
      exact ⟨own, e.shown_clear other held (by rw [own])⟩
    · have others : (s.section u).occupants.filter (fun m => m != n) ≠ [] :=
        List.ne_nil_of_mem (List.mem_filter.mpr ⟨hm, bne_iff_ne.mpr neM⟩)
      rw [SectionEntry.without_kept (.inl others)] at own
      exact own

end Sys2Proof.Machine
end

section
/-! A stall deadline passes, and a stand timer runs out: each changes one record, and latches what the change shows (R33, R98, R104). -/

namespace Sys2Proof.Machine

section
variable {s : State} {n : Nat} {r : Record} {l : Instant}

/-! ### The flags of a change of a record (R33) -/

theorem changeRecord_flags_shown (hr : s.record n = some r) {f : Record → Record} (h : (f r).shown ≠ r.shown) :
    (changeRecord n f s).flags = s.flags ||| 0x001 := by
  have seen : s.records.any (fun q => q.number == n && decide ((f q).shown ≠ q.shown)) = true :=
    List.any_eq_true.mpr ⟨r, record_mem s hr, by simp [record_number s hr, h]⟩
  unfold changeRecord
  rw [seen]
  rfl

theorem changeRecord_flags_hidden {f : Record → Record} (h : ∀ q, (f q).shown = q.shown) : (changeRecord n f s).flags = s.flags := by
  have unseen : s.records.any (fun q => q.number == n && decide ((f q).shown ≠ q.shown)) = false := by simp [h]
  unfold changeRecord
  rw [unseen]
  rfl

/-- A change of a record latches CUT_CHANGED at most, so not again where it is latched. -/
theorem changeRecord_flags_latched (f : Record → Record) {b : BitVec 11} (h : s.flags = b ||| 0x001) :
    (changeRecord n f s).flags = b ||| 0x001 := by
  unfold changeRecord latchIf
  split
  · rw [latch_flags, h]
    exact (BitVec.or_assoc ..).trans (congrArg _ BitVec.or_self)
  · exact h

/-! ### The stall deadline (R98) -/

theorem exec_stallDeadlineExpiry (hr : s.record n = some r) (moving : r.state = .releasing ∨ r.state = .rolling)
    (deadline : r.stallDeadline = some l) (past : after l s.clock = false) :
    exec (.stallDeadlineExpiry n) s = .next (finish (stallPasses n r s)) := by
  have running : (r.state == .releasing || r.state == .rolling) = true := by simpa using moving
  show execStallDeadlineExpiry n s = _
  simp [execStallDeadlineExpiry, hr, stallDue, deadline, due, past, running]

theorem stallPasses_eq {h : Nat} (head : r.head = some h) :
    stallPasses n r s = latch .stall (addMarkIf (s.isLastSwitch n h) .foul n (changeRecord n Record.stall s)) := by
  unfold stallPasses
  rw [head]

/-- A stall is shown, so it sets the unseen mark and latches CUT_CHANGED. -/
theorem stall_shown (moving : r.state = .releasing ∨ r.state = .rolling) : r.stall.shown ≠ r.shown :=
  withState_shown fun e => by
    rw [← e] at moving
    rcases moving with e | e <;> cases e

theorem stallPasses_record {h : Nat} {t0 : Instant} (hr : s.record n = some r) (moving : r.state = .releasing ∨ r.state = .rolling)
    (head : r.head = some h) (entry : r.headEntry = some t0) :
    (stallPasses n r s).record n = some { r with
      state := .stalled, stallDeadline := none, timer := .suspended, standTimer := .running (later t0 0x7FFFFFFF), unseen := true
      marks := if s.isLastSwitch n h = true then r.marks ||| 0x020 else r.marks } := by
  have stalled : (changeRecord n Record.stall s).record n = some { r.stall with unseen := true } := by
    rw [record_changeRecord_same s n Record.stall fun _ => rfl, hr, Option.map_some, Record.changed_of_ne (stall_shown moving)]
  obtain ⟨v, hv, marked⟩ := addMarkIf_record (s.isLastSwitch n h) .foul stalled
  obtain ⟨w, hw, unseen⟩ := addMarkIf_unseen _ (s.isLastSwitch n h) .foul n n _ stalled rfl
  obtain rfl := Option.some.inj (hv.symm.trans hw)
  rw [stallPasses_eq head]
  refine hv.trans ?_
  rw [marked, unseen, Record.stall, entry]
  rfl

theorem stallPasses_other {h k : Nat} (head : r.head = some h) (other : k ≠ n) : (stallPasses n r s).record k = s.record k := by
  rw [stallPasses_eq head]
  exact (addMarkIf_other _ .foul other).trans (record_changeRecord_other s Record.stall (fun _ => rfl) other)

theorem stallPasses_flags {h : Nat} (hr : s.record n = some r) (moving : r.state = .releasing ∨ r.state = .rolling) (head : r.head = some h) :
    (stallPasses n r s).flags = s.flags ||| 0x011 := by
  have stalled := changeRecord_flags_shown hr (stall_shown moving)
  have marked : (addMarkIf (s.isLastSwitch n h) .foul n (changeRecord n Record.stall s)).flags = s.flags ||| 0x001 := by
    cases s.isLastSwitch n h with
    | false => exact stalled
    | true => exact changeRecord_flags_latched (withMark .foul) stalled
  rw [stallPasses_eq head, latch_flags, marked]
  exact BitVec.or_assoc ..

theorem stallPasses_only {h : Nat} (head : r.head = some h) : RecordsOnly s (stallPasses n r s) := by
  rw [stallPasses_eq head]
  exact ((changeRecord_only s n Record.stall).trans (addMarkIf_only _ _ .foul n)).trans rfl

/-! ### The stand timer (R104) -/

/-- A record whose stand timer has run out. -/
def Record.stood (r : Record) : Record := { r with standTimer := .ranOut }

theorem exec_standTimerExpiry (hr : s.record n = some r) (stalled : r.state = .stalled) (timer : r.standTimer = .running l)
    (past : after l s.clock = false) : exec (.standTimerExpiry n) s = .next (finish (changeRecord n Record.stood s)) := by
  show execStandTimerExpiry n s = _
  simp only [execStandTimerExpiry, hr, standDue, timer, stalled, due, past]
  rfl

theorem changed_stood (r : Record) : Record.changed Record.stood r = r.stood := if_pos rfl

end

/-- A change that touches records and flags, with the outputs taken afresh after it. -/
theorem RecordsOnly.finished {s t : State} (h : RecordsOnly s t) : finish t = { s with
    records := (finish t).records, flags := t.flags, humpPermit := (finish t).humpPermit, attentionLine := (finish t).attentionLine } :=
  congrArg (fun u : State => { u with humpPermit := (finish t).humpPermit, attentionLine := (finish t).attentionLine }) h

/-- Settles O56: the one record that each expiry changes, and the flags by what of it is shown. -/
theorem stallAndStandTimersRunOut : Obligations.StallAndStandTimersRunOut := by
  constructor
  · intro s n h r l t0 hr moving deadline past head entry
    refine ⟨_, exec_stallDeadlineExpiry hr moving deadline past, stallPasses_record hr moving head entry,
      fun k other => stallPasses_other head other, ?_⟩
    rw [← stallPasses_flags hr moving head]
    exact (stallPasses_only head).finished
  · intro s n r l hr stalled timer past
    have record : (changeRecord n Record.stood s).record n = some r.stood := by
      rw [record_changeRecord_same s n Record.stood fun _ => rfl, hr, Option.map_some, changed_stood]
    refine ⟨_, r.stood, exec_standTimerExpiry hr stalled timer past, record, rfl,
      fun k other => record_changeRecord_other s Record.stood (fun _ => rfl) other,
      fun h e timed head entry => entrySpeed_stood timed head entry rfl, ?_⟩
    have flags : (changeRecord n Record.stood s).flags = s.flags := changeRecord_flags_hidden fun _ => rfl
    have only := (changeRecord_only s n Record.stood).finished
    rwa [flags] at only

end Sys2Proof.Machine
end

section
/-! The tick on an empty queue: which expiries it puts there, and the expiries that are no events (R103; log 2). -/

namespace Sys2Proof.Machine

variable {s : State}

/-! ### The nine timers (R103) -/

theorem due_iff {l : Instant} : due s.clock l = true ↔ s.Reached l := by
  simp [due, State.Reached]

theorem separationDue_iff : separationDue s = true ↔ s.crest = .counting ∧ ∃ l, s.separation = some l ∧ s.Reached l := by
  unfold separationDue
  cases s.separation <;> simp [due_iff]

theorem provingDue_iff {x : Nat} :
    provingDue s x = true ↔ (s.section x).unproven = true ∧ ∃ l, (s.section x).proving = some l ∧ s.Reached l := by
  unfold provingDue
  cases (s.section x).proving <;> simp [due_iff]

theorem stallDue_iff {r : Record} :
    stallDue s r = true ↔ (r.state = .releasing ∨ r.state = .rolling) ∧ ∃ l, r.stallDeadline = some l ∧ s.Reached l := by
  unfold stallDue
  cases r.stallDeadline <;> simp [due_iff]

theorem standDue_iff {r : Record} : standDue s r = true ↔ r.state = .stalled ∧ ∃ l, r.standTimer = .running l ∧ s.Reached l := by
  unfold standDue
  cases r.standTimer <;> simp [due_iff]

theorem lastMomentDue_iff {r : Record} : lastMomentDue s r = true ↔ r.state.inTree = true ∧ ∃ l, r.timer = .running l ∧ s.Reached l := by
  unfold lastMomentDue
  cases r.timer <;> simp [due_iff]

theorem limitDue_iff {p : Nat} : limitDue s p = true ↔ ∃ l, (s.point p).throwLimit = some l ∧ s.Reached l := by
  unfold limitDue
  cases (s.point p).throwLimit <;> simp [due_iff]

theorem settleDue_iff {p : Nat} :
    settleDue s p = true ↔ (s.point p).state = .settling ∧ ∃ l, (s.point p).settleTimer = some l ∧ s.Reached l := by
  unfold settleDue
  cases (s.point p).settleTimer <;> simp [due_iff]

theorem idleDue_iff {p : Nat} : idleDue s p = true ↔ ∃ l, (s.point p).idleTimer = some l ∧ s.Reached l := by
  unfold idleDue
  cases (s.point p).idleTimer <;> simp [due_iff]

theorem commitDue_iff : commitDue s = true ↔ ∃ k, s.commit = some k ∧ s.Reached k.timer := by
  unfold commitDue
  cases s.commit <;> simp [due_iff]

/-! ### The expiries put on the queue -/

/-- A number whose entry is not the one an unlisted number reads as is listed. -/
theorem Table.listed_of_read_ne {α : Type} {d : α} {t : Table α} {k : Nat} (h : Table.read d t k ≠ d) : k ∈ t.map Prod.fst := by
  induction t with
  | nil => exact absurd rfl h
  | cons c t ih =>
    by_cases e : c.1 = k
    · exact e ▸ List.mem_cons_self ..
    · exact List.mem_cons_of_mem _ (ih (by simpa [Table.read, e] using h))

/-- A section whose proving timer has run out is listed: an unlisted one holds nothing. -/
theorem section_listed {x : Nat} (h : provingDue s x = true) : x ∈ s.sections.map Prod.fst := by
  obtain ⟨held, -⟩ := provingDue_iff.mp h
  refine Table.listed_of_read_ne (d := SectionEntry.initial) fun e => ?_
  rw [State.section, e] at held
  cases held

/-- A point with a timer is listed: an unlisted one has none. -/
theorem point_listed {p : Nat} (h : limitDue s p = true ∨ settleDue s p = true ∨ idleDue s p = true) : p ∈ s.points.map Prod.fst := by
  refine Table.listed_of_read_ne (d := PointEntry.initial) fun e => ?_
  have unlisted : s.point p = PointEntry.initial := e
  rw [limitDue_iff, settleDue_iff, idleDue_iff, unlisted] at h
  rcases h with ⟨_, running, -⟩ | ⟨-, _, running, -⟩ | ⟨_, running, -⟩ <;> cases running

/-- The expiries of the tables' entries, by number. -/
theorem mem_entryExpiries {f : Nat → Bool} {expiry : Nat → Instr} {keys : List Nat} (listed : ∀ k, f k = true → k ∈ keys) {c : Instr} :
    c ∈ (keys.filter f).map expiry ↔ ∃ k, f k = true ∧ expiry k = c := by
  simp only [List.mem_map, List.mem_filter]
  exact exists_congr fun k => and_congr_left fun _ => ⟨fun h => h.2, fun h => ⟨listed k h, h⟩⟩

theorem mem_recordExpiries {f : State → Record → Bool} {expiry : Nat → Instr} {c : Instr} :
    c ∈ recordExpiries s f expiry ↔ ∃ r ∈ s.records, f s r = true ∧ expiry r.number = c := by
  simp only [recordExpiries, List.mem_map, List.mem_filter, and_assoc]

/-- What the tick puts on the queue: the expiries of the timers that have run out (R103). -/
theorem mem_dueExpiries {c : Instr} : c ∈ dueExpiries s ↔
    separationDue s = true ∧ c = .separation
      ∨ (∃ x, provingDue s x = true ∧ .provingTimerExpiry x = c)
      ∨ (∃ r ∈ s.records, stallDue s r = true ∧ .stallDeadlineExpiry r.number = c)
      ∨ (∃ r ∈ s.records, standDue s r = true ∧ .standTimerExpiry r.number = c)
      ∨ (∃ r ∈ s.records, lastMomentDue s r = true ∧ .lastMomentExpiry r.number = c)
      ∨ (∃ p, limitDue s p = true ∧ .throwLimitExpiry p = c)
      ∨ (∃ p, settleDue s p = true ∧ .settleTimerExpiry p = c)
      ∨ (∃ p, idleDue s p = true ∧ .idleTimerExpiry p = c)
      ∨ commitDue s = true ∧ c = .commitTimerExpiry := by
  have single : ∀ (b : Bool) (d : Instr), c ∈ (if b then [d] else []) ↔ b = true ∧ c = d := fun b d => by cases b <;> simp
  simp only [dueExpiries, List.mem_append, single, mem_recordExpiries, mem_entryExpiries fun _ => section_listed,
    mem_entryExpiries (f := limitDue s) fun _ h => point_listed (.inl h),
    mem_entryExpiries (f := settleDue s) fun _ h => point_listed (.inr (.inl h)),
    mem_entryExpiries (f := idleDue s) fun _ h => point_listed (.inr (.inr h)), or_assoc]

/-- No other command is put there. -/
theorem kind_of_dueExpiry {c : Instr} (h : c ∈ dueExpiries s) : c = .separation ∨ c = .commitTimerExpiry
    ∨ ∃ n, c = .provingTimerExpiry n ∨ c = .stallDeadlineExpiry n ∨ c = .standTimerExpiry n ∨ c = .lastMomentExpiry n
        ∨ c = .throwLimitExpiry n ∨ c = .settleTimerExpiry n ∨ c = .idleTimerExpiry n := by
  rcases mem_dueExpiries.mp h with
    ⟨-, rfl⟩ | ⟨_, -, rfl⟩ | ⟨_, -, -, rfl⟩ | ⟨_, -, -, rfl⟩ | ⟨_, -, -, rfl⟩ | ⟨_, -, rfl⟩ | ⟨_, -, rfl⟩ | ⟨_, -, rfl⟩ | ⟨-, rfl⟩ <;> simp

/-! ### The tick (log 2) -/

theorem step_empty (h : s.pending = []) : step s = .next (tick s) := by
  unfold step
  rw [h]

theorem tick_of_none (h : dueExpiries s = []) : tick s = { s with clock := s.clock + 1 } := by
  unfold tick
  rw [h]

theorem tick_of_some (h : dueExpiries s ≠ []) : tick s = { s with pending := dueExpiries s } := by
  unfold tick
  split
  · exact absurd ‹_› h
  · rfl

/-! ### Expiries that are no events (log 2) -/

theorem not_reached {l : Instant} (h : after l s.clock = true) : ¬ s.Reached l := fun e => by
  unfold State.Reached at e
  rw [e] at h
  cases h

/-- An expiry that is taken under a condition that does not hold changes nothing. -/
theorem next_unless {b : Bool} {u : State} (h : ¬ b = true) :
    (if b then .next u else .next s : Host.Outcome State Fault Refusal) = .next s := if_neg h

/-- The expiry of a cut's timer changes nothing where the cut has no record, or one whose timer has not run out. -/
theorem next_unless_record {n : Nat} {f : Record → Bool} {g : Record → State} (h : ∀ r, s.record n = some r → ¬ f r = true) :
    (match s.record n with
      | none => .next s
      | some r => if f r then .next (g r) else .next s : Host.Outcome State Fault Refusal) = .next s := by
  cases hr : s.record n with
  | none => rfl
  | some r => exact if_neg (h r hr)

theorem exec_separation_early (h : ¬ separationDue s = true) : exec .separation s = .next s := by
  show execSeparation s = _
  unfold execSeparation
  cases hl : s.separation with
  | none => rfl
  | some l => exact if_neg fun ⟨counting, reached⟩ => h (separationDue_iff.mpr ⟨counting, l, hl, due_iff.mp reached⟩)

theorem exec_commitTimerExpiry_early (h : ¬ commitDue s = true) : exec .commitTimerExpiry s = .next s := by
  show execCommitTimerExpiry s = _
  unfold execCommitTimerExpiry
  cases hk : s.commit with
  | none => rfl
  | some k => exact if_neg fun reached => h (commitDue_iff.mpr ⟨k, hk, due_iff.mp reached⟩)

theorem exec_commitComplete_idle (b : Bool) (h : s.commit = none) : exec (.commitComplete b) s = .next s := by
  show execCommitComplete b s = _
  unfold execCommitComplete
  rw [h]

/-- Settles O2: the tick, then each timer's part of `mem_dueExpiries`, then the expiries whose timer has not run out. -/
theorem theYardClockAndItsTimers : Obligations.TheYardClockAndItsTimers := by
  refine ⟨fun s h => ⟨fun none_ => ?_, fun some_ => ?_⟩, fun s => ⟨?_, fun x => ?_, fun n => ?_, fun n => ?_, fun n => ?_, fun p => ?_,
    fun p => ?_, fun p => ?_, ?_, fun c => kind_of_dueExpiry⟩, fun s => ⟨fun p early => ?_, fun p early => ?_, fun p early => ?_, fun x early => ?_, fun n early => ?_,
    fun n early => ?_, fun n early => ?_, fun early => ?_, fun early => ?_, fun idle b => exec_commitComplete_idle b idle⟩⟩
  · rw [step_empty h, tick_of_none none_]
  · rw [step_empty h, tick_of_some some_]
  · simp [mem_dueExpiries, separationDue_iff]
  · simp [mem_dueExpiries, provingDue_iff]
  · simp [mem_dueExpiries, stallDue_iff, and_comm, and_left_comm]
  · simp [mem_dueExpiries, standDue_iff, and_comm, and_left_comm]
  · simp [mem_dueExpiries, lastMomentDue_iff, and_comm, and_left_comm]
  · simp [mem_dueExpiries, limitDue_iff]
  · simp [mem_dueExpiries, settleDue_iff]
  · simp [mem_dueExpiries, idleDue_iff]
  · simp [mem_dueExpiries, commitDue_iff]
  · exact next_unless fun h => by
      obtain ⟨l, running, reached⟩ := limitDue_iff.mp h
      exact not_reached (early l running) reached
  · exact next_unless fun h => by
      obtain ⟨-, l, running, reached⟩ := settleDue_iff.mp h
      exact not_reached (early l running) reached
  · exact next_unless fun h => by
      obtain ⟨l, running, reached⟩ := idleDue_iff.mp h
      exact not_reached (early l running) reached
  · exact next_unless fun h => by
      obtain ⟨-, l, running, reached⟩ := provingDue_iff.mp h
      exact not_reached (early l running) reached
  · exact next_unless_record fun r hr h => by
      obtain ⟨-, l, running, reached⟩ := stallDue_iff.mp h
      exact not_reached (early r l hr running) reached
  · exact next_unless_record fun r hr h => by
      obtain ⟨-, l, running, reached⟩ := lastMomentDue_iff.mp h
      exact not_reached (early r l hr running) reached
  · exact next_unless_record fun r hr h => by
      obtain ⟨-, l, running, reached⟩ := standDue_iff.mp h
      exact not_reached (early r l hr running) reached
  · refine exec_separation_early fun h => ?_
    obtain ⟨-, l, running, reached⟩ := separationDue_iff.mp h
    exact not_reached (early l running) reached
  · refine exec_commitTimerExpiry_early fun h => ?_
    obtain ⟨k, running, reached⟩ := commitDue_iff.mp h
    exact not_reached (early k running) reached

end Sys2Proof.Machine
end

section
/-! The events of one point: what each makes of the point, the throw decision that follows where it comes SET, and the watch points chosen afresh
(R108, R120, R122, R134, R137 to R142). -/

namespace Sys2Proof.Machine

/-! ### What follows the change of one point (R120, R122) -/

/-- From `s` to `m` only the entry of the point `p`, the detection inputs and the flags may differ. -/
structure PointMoved (p : Nat) (s m : State) : Prop where
  frame : m = { s with detections := m.detections, points := m.points, flags := m.flags }
  others : ∀ q, q ≠ p → m.point q = s.point q

section
variable {s t u : State} {p : Nat}

theorem PointMoved.refl (p : Nat) (s : State) : PointMoved p s s := ⟨rfl, fun _ _ => rfl⟩

theorem PointMoved.trans (h : PointMoved p s t) (k : PointMoved p t u) : PointMoved p s u :=
  ⟨by rw [k.frame, h.frame], fun q ne => (k.others q ne).trans (h.others q ne)⟩

theorem PointMoved.ite {c : Prop} [Decidable c] (h : PointMoved p s t) (k : PointMoved p s u) : PointMoved p s (if c then t else u) := by
  split <;> assumption

theorem latch_moved (c : Cause) (p : Nat) (s : State) : PointMoved p s (latch c s) := ⟨rfl, fun _ _ => rfl⟩

theorem setInput_moved (d : Nat) (i : Position) (on : Bool) (p : Nat) (s : State) : PointMoved p s (setInput d i on s) := ⟨rfl, fun _ _ => rfl⟩

theorem changePoint_moved (f : PointEntry → PointEntry) (p : Nat) (s : State) : PointMoved p s (changePoint p f s) :=
  ⟨rfl, fun q ne => (point_changePoint p f q).trans (if_neg ne)⟩

theorem becomeSet_moved (p : Nat) (s : State) : PointMoved p s (becomeSet p s) := changePoint_moved _ p s

theorem becomeFault_moved (p : Nat) (s : State) : PointMoved p s (becomeFault p s) := (changePoint_moved _ p s).trans (latch_moved _ p _)

theorem endFlight_moved (p : Nat) (s : State) : PointMoved p s (endFlight p s) := changePoint_moved _ p s

theorem startSettle_moved (p : Nat) (x : Position) (s : State) : PointMoved p s (startSettle p x s) :=
  .ite (becomeSet_moved p s) (changePoint_moved _ p s)

theorem point_becomeSet (p : Nat) (s : State) : (becomeSet p s).point p = s.setEntry p := (point_changePoint p _ p).trans (if_pos rfl)

/-- A point that has become FAULT (R137, R138, R140). -/
theorem point_becomeFault (p : Nat) (s : State) : (becomeFault p s).point p
    = { s.point p with state := .fault, target := none, drive := none, throwLimit := none, settleTimer := none } :=
  (point_changePoint p (fun e => { e with state := .fault, target := none, drive := none, throwLimit := none, settleTimer := none }) p).trans
    (if_pos rfl)

/-- The point at which a throw in flight has ended (R140, R141). -/
theorem point_endFlight (p : Nat) (s : State) : (endFlight p s).point p = { s.point p with target := none, drive := none, throwLimit := none } :=
  (point_changePoint p (fun e => { e with target := none, drive := none, throwLimit := none }) p).trans (if_pos rfl)

theorem latched_becomeFault (p : Nat) (s : State) : latched .pointFault (becomeFault p s) = true := (latched_latch _ _ _).trans (by simp)

/-- A change at one point calls for a throw decision there alone, and only where the point comes SET (R120). -/
theorem PointMoved.decisionDue (h : PointMoved p s t) (q : Nat) :
    decisionDue s t q = true ↔ q = p ∧ (s.point p).state ≠ .atRest ∧ (t.point p).state = .atRest := by
  have head : t.headClaim q = s.headClaim q := by rw [h.frame]; rfl
  have locked : t.locked q = s.locked q := by rw [h.frame]; rfl
  unfold Machine.decisionDue
  rw [head, locked]
  by_cases e : q = p
  · subst e
    simp
  · simp [h.others q e, e]

/-- A point for which no decision is called for stands. -/
theorem followUp_point_undue {old : State} {q : Nat} (cs : List Nat) (undue : decisionDue old s q = false) :
    (followUp old [] cs s).point q = s.point q := by
  have once : (pointNumbers.filter (fun p => List.contains [] p || decisionDue old s p)).Nodup := (List.nodup_range' ..).filter _
  unfold State.point
  rw [followUp_points]
  refine (throwDecisions_decided s once).2 fun h => ?_
  have called := (List.mem_filter.mp h).2
  simp [undue] at called

theorem PointMoved.followUp_others (h : PointMoved p s t) (cs : List Nat) {q : Nat} (ne : q ≠ p) :
    (followUp s [] cs t).point q = s.point q := by
  rw [followUp_point_undue cs (eq_false_of_ne_true fun due => ne ((h.decisionDue q).mp due).1), h.others q ne]

/-- The point itself stands as the event left it, unless it has come SET. -/
theorem PointMoved.followUp_own (h : PointMoved p s t) (cs : List Nat) (rest : (t.point p).state = .atRest → (s.point p).state = .atRest) :
    (followUp s [] cs t).point p = t.point p :=
  followUp_point_undue cs (eq_false_of_ne_true fun due => by
    obtain ⟨-, moved, set⟩ := (h.decisionDue p).mp due
    exact moved (rest set))

/-- A point that has come SET has its throw decision taken (R120, R139). -/
theorem PointMoved.followUp_set (h : PointMoved p s t) (cs : List Nat) (moved : (s.point p).state ≠ .atRest)
    (set : (t.point p).state = .atRest) : t.Decided p ((followUp s [] cs t).point p) :=
  followUp_decided [] cs ((h.decisionDue p).mpr ⟨rfl, moved, set⟩)

/-- What follows leaves the detection inputs as the event has left them. -/
theorem followUp_detections (old : State) (ps cs : List Nat) : (followUp old ps cs s).detections = s.detections := by
  obtain ⟨_, frame⟩ := followUp_watch s old ps cs
  rw [frame]

/-- What an event of a point and what follows it can touch. -/
theorem PointMoved.finished (h : PointMoved p s t) (cs : List Nat) : finish (followUp s [] cs t) = { s with
    pending := (finish (followUp s [] cs t)).pending, detections := t.detections, records := (finish (followUp s [] cs t)).records
    points := (finish (followUp s [] cs t)).points, flags := (finish (followUp s [] cs t)).flags
    humpPermit := (finish (followUp s [] cs t)).humpPermit, attentionLine := (finish (followUp s [] cs t)).attentionLine } := by
  have only : followUp s [] cs t = { s with
      pending := (followUp s [] cs t).pending, detections := t.detections, records := (followUp s [] cs t).records
      points := (followUp s [] cs t).points, flags := (followUp s [] cs t).flags } := by
    obtain ⟨l, frame⟩ := followUp_watch t s [] cs
    generalize followUp s [] cs t = u at *
    rw [frame, h.frame]
  exact congrArg (fun u : State => { u with
    humpPermit := permitCondition (followUp s [] cs t), attentionLine := attentionCondition (followUp s [] cs t) }) only

end

/-! ### The throw limit and settle timers (R138, R139, R141) -/

section
variable {s : State} {p : Nat} {l : Instant}

theorem exec_throwLimitExpiry (timer : (s.point p).throwLimit = some l) (past : after l s.clock = false) :
    exec (.throwLimitExpiry p) s = .next (finish (limitPasses p s)) := if_pos (limitDue_iff.mpr ⟨l, timer, past⟩)

theorem exec_settleTimerExpiry (settling : (s.point p).state = .settling) (timer : (s.point p).settleTimer = some l)
    (past : after l s.clock = false) : exec (.settleTimerExpiry p) s = .next (finish (followUp s [] [] (becomeSet p s))) :=
  if_pos (settleDue_iff.mpr ⟨settling, l, timer, past⟩)

theorem exec_idleTimerExpiry (timer : (s.point p).idleTimer = some l) (past : after l s.clock = false) :
    exec (.idleTimerExpiry p) s = .next (finish (idlePasses p s)) := if_pos (idleDue_iff.mpr ⟨l, timer, past⟩)

/-- A throw that has reached its limit (R138). -/
theorem exec_throwLimit_throwing (throwing : (s.point p).state = .throwing) (timer : (s.point p).throwLimit = some l)
    (past : after l s.clock = false) : exec (.throwLimitExpiry p) s = .next (finish (followUp s [] [] (becomeFault p s))) := by
  rw [exec_throwLimitExpiry timer past, limitPasses, if_pos throwing]

/-- A throw in flight at a FAULT point that has reached its limit (R141). -/
theorem exec_throwLimit_fault (fault : (s.point p).state = .fault) (timer : (s.point p).throwLimit = some l)
    (past : after l s.clock = false) : exec (.throwLimitExpiry p) s = .next (finish (endFlight p s)) := by
  rw [exec_throwLimitExpiry timer past, limitPasses, if_neg (by rw [fault]; nofun)]

/-! ### The idle timer (R108) -/

/-- The entry of a point whose idle timer has run out. -/
def PointEntry.idled (e : PointEntry) : PointEntry := { e with idleTimer := none, stood := true }

theorem idlePasses_eq : idlePasses p s = followUp s [] (s.watchers p) (changePoint p PointEntry.idled s) := rfl

/-- The point has stood, and no throw decision follows. -/
theorem point_idlePasses : (idlePasses p s).point p = (s.point p).idled := by
  have own : (changePoint p PointEntry.idled s).point p = (s.point p).idled := (point_changePoint p _ p).trans (if_pos rfl)
  rw [idlePasses_eq, (changePoint_moved PointEntry.idled p s).followUp_own _ (by rw [own]; exact id), own]

end

/-- Settles O37: each expiry moves its own point, and a throw decision follows where the point has come SET. -/
theorem pointTimersRunOut : Obligations.PointTimersRunOut := by
  refine ⟨fun s p l timer past => ⟨fun throwing => ?_, fun fault => ?_⟩, fun s p l settling timer past => ?_, fun s p l timer past => ?_⟩
  · have moved := becomeFault_moved p s
    have own := point_becomeFault p s
    refine ⟨_, exec_throwLimit_throwing throwing timer past, ?_, ?_, fun q => moved.followUp_others [],
      moved.finished []⟩
    · exact (moved.followUp_own [] (by rw [own]; nofun)).trans own
    · exact followUp_flagsStay s [] [] _ (latched_becomeFault p s)
  · exact ⟨_, exec_throwLimit_fault fault timer past, point_endFlight p s, (endFlight_moved p s).others, rfl⟩
  · have moved := becomeSet_moved p s
    exact ⟨_, exec_settleTimerExpiry settling timer past, moved.followUp_set [] (by rw [settling]; nofun) (by rw [point_becomeSet]; rfl),
      fun q => moved.followUp_others [], moved.finished []⟩
  · have moved := changePoint_moved PointEntry.idled p s
    have own : (finish (idlePasses p s)).point p = (s.point p).idled := point_idlePasses
    have frame := moved.finished (s.watchers p)
    have layout : (finish (idlePasses p s)).layout = s.layout := by unfold State.layout; rw [idlePasses_eq, frame]
    refine ⟨_, exec_idleTimerExpiry timer past, own, fun cold => ?_, fun warm => ?_, fun q => moved.followUp_others _, frame⟩
    · rw [budget_eq, layout, own, if_pos ⟨cold, rfl⟩]
    · rw [budget_eq, layout, own, if_neg fun h => h.1 warm]

end Sys2Proof.Machine
end

section
/-! The change of a detection input, by the state of the point that names the pair (R134, R137, R139, R140), and the watch points chosen afresh where
the point has changed state or detected position (R122). -/

namespace Sys2Proof.Machine

/-! ### What a point makes of a detected position (R137, R139, R140) -/

section
variable {s : State} {p : Nat} {x : Position}

/-- A point does one of four things at a new detected position: it stands, settles in its target, becomes FAULT, or ends the throw in flight. -/
theorem detectionTaken_moved (p : Nat) (s : State) : PointMoved p s (detectionTaken p s) := by
  unfold detectionTaken
  split
  · split
    · exact .ite (startSettle_moved p _ s) (.ite (becomeFault_moved p s) (.refl p s))
    · exact .refl p s
  · exact .ite (.refl p s) (becomeFault_moved p s)
  · exact .ite (.refl p s) (becomeFault_moved p s)
  · exact .ite (endFlight_moved p s) (.refl p s)
  · exact .refl p s

/-- The detection inputs stand, whatever a point makes of them. -/
theorem detectionTaken_detections (p : Nat) (s : State) : (detectionTaken p s).detections = s.detections := by
  unfold detectionTaken startSettle
  split
  · split
    · split
      · split <;> rfl
      · split <;> rfl
    · rfl
  · split <;> rfl
  · split <;> rfl
  · split <;> rfl
  · rfl

theorem home_iff : s.home p = true ↔ ∃ x, (s.point p).target = some x ∧ s.detected p = .at x := by
  unfold State.home
  cases (s.point p).target <;> simp

theorem detectionTaken_home (throwing : (s.point p).state = .throwing) (target : (s.point p).target = some x) (lies : s.detected p = .at x) :
    detectionTaken p s = startSettle p x s := by
  simp [detectionTaken, throwing, target, lies]

/-- The three ways to FAULT at a detected position (R137, R139, R140). -/
theorem detectionTaken_fault (h : (s.point p).state = .throwing ∧ (s.point p).target ≠ none ∧ s.detected p = .both
      ∨ (s.point p).state = .settling ∧ (∀ x, (s.point p).target = some x → s.detected p ≠ .at x)
      ∨ (s.point p).state = .atRest ∧ (s.detected p = .none ∨ s.detected p = .both)) : detectionTaken p s = becomeFault p s := by
  rcases h with ⟨throwing, aimed, lies⟩ | ⟨settling, away⟩ | ⟨set, lies⟩
  · obtain ⟨x, target⟩ := Option.ne_none_iff_exists'.mp aimed
    simp [detectionTaken, throwing, target, lies]
  · have astray : s.home p = false := eq_false_of_ne_true fun h => by
      obtain ⟨x, target, lies⟩ := home_iff.mp h
      exact away x target lies
    simp [detectionTaken, settling, astray]
  · simp [detectionTaken, set, detection_unknown lies]

/-- A throw in flight at a FAULT point ends at its target, or where both positions are detected (R140). -/
theorem detectionTaken_inFlight (fault : (s.point p).state = .fault) (driven : (s.point p).drive ≠ none)
    (target : (s.point p).target = some x) (lies : s.detected p = .at x ∨ s.detected p = .both) : detectionTaken p s = endFlight p s := by
  have ends : (s.home p || s.detected p == .both) = true := by
    rcases lies with lies | lies
    · rw [home_iff.mpr ⟨x, target, lies⟩, Bool.true_or]
    · rw [lies]
      exact Bool.or_true _
  simp [detectionTaken, fault, Option.isSome_iff_ne_none.mpr driven, ends]

/-- A throw goes on while no position, or the other one, is detected (R137). -/
theorem detectionTaken_underWay (throwing : (s.point p).state = .throwing) (target : (s.point p).target = some x)
    (lies : s.detected p = .none ∨ s.detected p = .at (otherPosition x)) : detectionTaken p s = s := by
  rcases lies with lies | lies
  · simp [detectionTaken, throwing, target, lies]
  · cases x <;> simp [detectionTaken, throwing, target, lies, otherPosition]

/-- A point in its target that has a settle time settles (R137). -/
theorem point_startSettle (target : (s.point p).target = some x) (h : settleTime s.layout ≠ 0) : (startSettle p x s).point p
    = { s.point p with
      state := .settling, drive := none, throwLimit := none, settleTimer := some (later s.clock (settleTime s.layout)) } := by
  have own := point_changePoint (s := s) p (fun e => { e with
    state := .settling, target := some x, drive := none, throwLimit := none
    settleTimer := some (later s.clock (settleTime s.layout)) }) p
  rw [if_pos rfl, ← target] at own
  rw [startSettle, if_neg h, ← target]
  exact own

theorem startSettle_atOnce (h : settleTime s.layout = 0) : startSettle p x s = becomeSet p s := if_pos h

end

/-! ### The watch points of the cuts with a claim at the point (R122) -/

section
variable {s : State} {n : Nat} {r : Record}

/-- Where a change calls for a cut's watch point, it is chosen as R122 says. -/
theorem followUp_chosen {old : State} (ps cs : List Nat) (due : watchDue old (takeDecisions old ps s) n = true)
    (hr : (followUp old ps cs s).record n = some r) (moving : r.state = .releasing ∨ r.state = .rolling) :
    (followUp old ps cs s).WatchChosen r := by
  rcases followUp_recordsButWatch (s := s) old ps cs n with ⟨-, none_⟩ | ⟨q, w, hq, hw, agrees⟩
  · rw [none_] at hr
    cases hr
  · obtain rfl := Option.some.inj (hr.symm.trans hw)
    have hd : (takeDecisions old ps s).record n = some q := (record_congr (takeDecisions_records s old ps).1 n).trans hq
    have listed : n ∈ (((takeDecisions old ps s).records.map Record.number).filter
        (fun k => cs.contains k || watchDue old (takeDecisions old ps s) k)) :=
      List.mem_filter.mpr ⟨List.mem_map.mpr ⟨q, record_mem _ hd, record_number _ hd⟩, by rw [due, Bool.or_true]⟩
    obtain ⟨v, hv, -, chosen⟩ := chooseWatches_record (takeDecisions old ps s) _ hd
    obtain rfl := Option.some.inj (hr.symm.trans hv)
    have state : r.state = q.state := by rw [agrees]
    exact chosen (.inl listed) (state ▸ moving)

/-- A point that changes state or detected position calls for the watch point of each cut with a claim there (R122). -/
theorem watchDue_at {old : State} {p : Nat} (held : s.claimOf p n ≠ none)
    (changed : (s.point p).state ≠ (old.point p).state ∨ s.detected p ≠ old.detected p) : watchDue old s n = true := by
  obtain ⟨c, claim⟩ := Option.ne_none_iff_exists'.mp held
  unfold watchDue
  refine Bool.or_eq_true_iff.mpr (.inl (List.any_eq_true.mpr ⟨p, mem_claimedPoints s claim, ?_⟩))
  rcases changed with h | h
  · simp [h.symm]
  · simp [h.symm]

/-- The throw decisions of a change leave the claims and the ground that the watch choices read, and the points as they are at its end. -/
theorem takeDecisions_reads (old : State) (ps cs : List Nat) (p n : Nat) :
    (takeDecisions old ps s).claimOf p n = (followUp old ps cs s).claimOf p n
      ∧ (takeDecisions old ps s).point p = (followUp old ps cs s).point p
      ∧ (takeDecisions old ps s).detected p = (followUp old ps cs s).detected p := by
  have decisions : WatchFrame s (takeDecisions old ps s) := WatchFrame.foldl _ (fun s p => throwDecision_watch s p) _ _
  obtain ⟨_, first⟩ := decisions
  obtain ⟨_, all⟩ := followUp_watch s old ps cs
  have points := followUp_points (s := s) old ps cs
  generalize takeDecisions old ps s = u at *
  generalize followUp old ps cs s = v at *
  refine ⟨?_, ?_, ?_⟩
  · rw [first, all]; rfl
  · unfold State.point; rw [points]
  · rw [first, all]; rfl

theorem followUp_chosen_at {old : State} {p : Nat} (hr : (followUp old [] [] s).record n = some r)
    (moving : r.state = .releasing ∨ r.state = .rolling) (held : (followUp old [] [] s).claimOf p n ≠ none)
    (changed : ((followUp old [] [] s).point p).state ≠ (old.point p).state ∨ (followUp old [] [] s).detected p ≠ old.detected p) :
    (followUp old [] [] s).WatchChosen r := by
  obtain ⟨claims, point, detected⟩ := takeDecisions_reads (s := s) old [] [] p n
  rw [← claims] at held
  rw [← point, ← detected] at changed
  exact followUp_chosen [] [] (watchDue_at held changed) hr moving

end

/-! ### The change of an input (R134) -/

section
variable {s : State} {d p : Nat} {i : Position} {on : Bool}

theorem exec_detectionChange_taken (h1 : 1 ≤ d) (h2 : d ≤ 64) (level : (s.pair d).level i ≠ on) (hs : s.runState ≠ .halted)
    (at_ : pointOfPair s.layout d = some p) :
    exec (.detectionChange d i on) s = .next (finish (followUp s [] [] (detectionTaken p (setInput d i on s)))) := by
  rw [exec_detectionChange s i on (pairNumber_iff.mpr ⟨h1, h2⟩), if_neg level]
  unfold detectionChanges
  simp only [at_, supervised_of_ne hs, if_true]

/-- The inputs and the detected position after it are those with the input at its new level. -/
theorem detected_taken (e : Nat) :
    (finish (followUp s [] [] (detectionTaken p (setInput d i on s)))).pair e = (setInput d i on s).pair e
      ∧ (finish (followUp s [] [] (detectionTaken p (setInput d i on s)))).detected e = (setInput d i on s).detected e := by
  have moved := (setInput_moved d i on p s).trans (detectionTaken_moved p (setInput d i on s))
  have detections := detectionTaken_detections p (setInput d i on s)
  have frame := moved.finished []
  rw [detections] at frame
  rw [frame]
  exact ⟨rfl, rfl⟩

/-- What follows the change leaves the point as it took the detected position, unless that made it SET. -/
theorem point_taken {e : PointEntry} (taken : (detectionTaken p (setInput d i on s)).point p = e)
    (rest : e.state = .atRest → (s.point p).state = .atRest) :
    (finish (followUp s [] [] (detectionTaken p (setInput d i on s)))).point p = e := by
  subst taken
  exact ((setInput_moved d i on p s).trans (detectionTaken_moved p _)).followUp_own [] rest

end

/-- Settles O36: `detectionTaken` by the state of the point, and what follows it by `PointMoved`. (The model's own function has the name
`detectionChanges`.) -/
theorem detectionChanges_holds : Obligations.DetectionChanges := by
  intro s d i on p h1 h2 level hs at_
  have moved := (setInput_moved d i on p s).trans (detectionTaken_moved p (setInput d i on s))
  have frame := moved.finished []
  have inputs : (finish (followUp s [] [] (detectionTaken p (setInput d i on s)))).detections = (detectionTaken p (setInput d i on s)).detections :=
    followUp_detections s [] []
  have lies := fun e => (detected_taken (s := s) (d := d) (i := i) (on := on) (p := p) e).2
  have pairs := fun e => (detected_taken (s := s) (d := d) (i := i) (on := on) (p := p) e).1
  have pair : (setInput d i on s).pair d = (s.pair d).set i on := (pair_setInput s d i on d).trans (if_pos rfl)
  obtain ⟨new, other⟩ := DetectionPair.level_set (s.pair d) i on
  refine ⟨_, exec_detectionChange_taken h1 h2 level hs at_, by rw [pairs, pair, new], by rw [pairs, pair, other],
    fun e ne => by rw [pairs, pair_setInput s d i on e, if_neg ne], fun x throwing target home settle => ?_, fun faulty => ?_,
    fun x fault driven target ends => ?_, fun x throwing target away => ?_, fun x throwing target home atOnce => ?_,
    fun n r hr moving held changed => followUp_chosen_at hr moving held changed, ?_⟩
  · rw [lies] at home
    have taken := detectionTaken_home (s := setInput d i on s) throwing target home
    exact point_taken ((congrArg (State.point · p) taken).trans (point_startSettle target settle)) nofun
  · rw [lies] at faulty
    have taken := detectionTaken_fault (s := setInput d i on s) faulty
    exact ⟨point_taken ((congrArg (State.point · p) taken).trans (point_becomeFault p _)) nofun,
      followUp_flagsStay s [] [] _ (taken ▸ latched_becomeFault p _)⟩
  · rw [lies] at ends
    have taken := detectionTaken_inFlight (s := setInput d i on s) fault driven target ends
    exact point_taken ((congrArg (State.point · p) taken).trans (point_endFlight p _)) id
  · rw [lies] at away
    have taken := detectionTaken_underWay (s := setInput d i on s) throwing target away
    exact point_taken ((congrArg (State.point · p) taken).trans rfl) id
  · rw [lies] at home
    have taken : detectionTaken p (setInput d i on s) = becomeSet p (setInput d i on s) :=
      (detectionTaken_home (s := setInput d i on s) throwing target home).trans (startSettle_atOnce atOnce)
    have decided := moved.followUp_set [] (by rw [throwing]; nofun) (by rw [taken, point_becomeSet]; rfl)
    rw [inputs]
    rw [taken] at decided ⊢
    exact decided
  · rw [inputs]
    exact frame

end Sys2Proof.Machine
end

section
/-! What the board's shared operations leave of the queue of commands and of the last-moment timers: none of them puts a command on the queue or
sets a timer, but the choice of a watch point (R103, R115, R122). -/

namespace Sys2Proof.Machine

/-! ### Timers that stand (R115) -/

/-- From `s` to `t` no command is put on the queue and no last-moment timer is set: one that runs in `t` ran so in `s`. -/
structure TimersStand (s t : State) : Prop where
  pending : t.pending = s.pending
  timers : ∀ n r e, t.record n = some r → r.timer = .running e → ∃ q, s.record n = some q ∧ q.timer = .running e

/-- A change of a record that keeps its number and sets no last-moment timer. -/
structure Record.SetsNoTimer (f : Record → Record) : Prop where
  number : ∀ r, (f r).number = r.number
  timer : ∀ r e, (f r).timer = .running e → r.timer = .running e

section
variable {s t u : State}

theorem TimersStand.of_records (pending : t.pending = s.pending) (records : t.records = s.records) : TimersStand s t :=
  ⟨pending, fun n r _ hr h => ⟨r, (record_congr records n).symm.trans hr, h⟩⟩

theorem TimersStand.refl (s : State) : TimersStand s s := .of_records rfl rfl

theorem TimersStand.trans (h : TimersStand s t) (k : TimersStand t u) : TimersStand s u where
  pending := k.pending.trans h.pending
  timers n r e hr he := by
    obtain ⟨q, hq, hqe⟩ := k.timers n r e hr he
    exact h.timers n q e hq hqe

theorem TimersStand.foldl {β : Type} (f : State → β → State) (h : ∀ s b, TimersStand s (f s b)) (l : List β) (s : State) :
    TimersStand s (l.foldl f s) := by
  induction l generalizing s with
  | nil => exact .refl s
  | cons b l ih => exact (h s b).trans (ih _)

theorem TimersStand.ite {c : Prop} [Decidable c] (h : TimersStand s t) (k : TimersStand s u) : TimersStand s (if c then t else u) := by
  split <;> assumption

/-- Every record is changed by a function that sets no timer. -/
theorem TimersStand.of_map {g : Record → Record} (pending : t.pending = s.pending) (records : t.records = s.records.map g)
    (hg : Record.SetsNoTimer g) : TimersStand s t where
  pending := pending
  timers n r e hr he := by
    unfold State.record at hr
    rw [records, find_map_number hg.number] at hr
    obtain ⟨q, hq, rfl⟩ := Option.map_eq_some_iff.mp hr
    exact ⟨q, hq, hg.timer q e he⟩

end

/-! ### Records (R21 to R33) -/

theorem Record.SetsNoTimer.changed {f : Record → Record} (h : Record.SetsNoTimer f) : Record.SetsNoTimer (Record.changed f) where
  number := Record.changed_number f h.number
  timer r e he := h.timer r e (by rwa [Record.changed_eq] at he)

/-- The records of one cut are changed. -/
theorem Record.SetsNoTimer.only {f : Record → Record} (h : Record.SetsNoTimer f) (n : Nat) :
    Record.SetsNoTimer (fun r => if r.number = n then f r else r) where
  number r := by
    split
    · exact h.number r
    · rfl
  timer r e he := by
    split at he
    · exact h.timer r e he
    · exact he

theorem withDiversion_setsNoTimer (p : Nat) (w : DivertReason) : Record.SetsNoTimer (withDiversion p w) where
  number := withDiversion_number w
  timer r e he := by
    unfold withDiversion at he
    split at he <;> exact he

/-- A record that leaves the tree has its timer stopped (R115). -/
theorem lose_setsNoTimer (why : LostReason) : Record.SetsNoTimer (Record.lose why) := ⟨fun _ => rfl, fun _ _ => nofun⟩

theorem settle_setsNoTimer (x : Nat) : Record.SetsNoTimer (Record.settle x) := ⟨fun _ => rfl, fun _ _ => nofun⟩

theorem credit_setsNoTimer (s : State) (x tail : Nat) (v : Record → Option Nat) (timed : Bool) :
    Record.SetsNoTimer (fun r => Record.credit s x tail (v r) timed r) := ⟨fun _ => rfl, fun _ _ => id⟩

section
variable (s : State)

theorem latch_stands (c : Cause) : TimersStand s (latch c s) := .of_records rfl rfl

theorem latchIf_stands (b : Bool) (c : Cause) : TimersStand s (latchIf b c s) := .of_records (latchIf_pending ..) (latchIf_records ..)

theorem changeRecord_stands (n : Nat) {f : Record → Record} (h : Record.SetsNoTimer f) : TimersStand s (changeRecord n f s) :=
  .of_map (changeRecord_pending ..) (changeRecord_records ..) (h.changed.only n)

theorem changeRecords_stands (l : List Nat) {f : Record → Record} (h : Record.SetsNoTimer f) : TimersStand s (changeRecords l f s) :=
  .foldl _ (fun s n => changeRecord_stands s n h) l s

/-- A record comes with its timer stopped. -/
theorem addRecord_stands {r : Record} (stopped : r.timer = .stopped) : TimersStand s (addRecord r s) where
  pending := rfl
  timers n q e hq he := by
    rw [record_addRecord] at hq
    cases held : s.record n with
    | some v =>
      rw [held] at hq
      obtain rfl : v = q := Option.some.inj hq
      exact ⟨v, rfl, he⟩
    | none =>
      rw [held, Option.none_or] at hq
      split at hq
      · obtain rfl := Option.some.inj hq
        have running : LastMomentTimer.stopped = .running e := stopped.symm.trans he
        cases running
      · cases hq

theorem freeRecord_stands (n : Nat) : TimersStand s (freeRecord n s) where
  pending := rfl
  timers k r e hr he := by
    rw [record_freeRecord] at hr
    split at hr
    · cases hr
    · exact ⟨r, hr, he⟩

theorem addMark_stands (m : Mark) (n : Nat) : TimersStand s (addMark m n s) := changeRecord_stands s n ⟨fun _ => rfl, fun _ _ => id⟩

theorem addMarkIf_stands (b : Bool) (m : Mark) (n : Nat) : TimersStand s (addMarkIf b m n s) := .ite (addMark_stands s m n) (.refl s)

theorem addMisroute_stands (p : Nat) (w : DivertReason) (n : Nat) : TimersStand s (addMisroute p w n s) :=
  (addMark_stands s .misroute n).trans (changeRecord_stands _ n (withDiversion_setsNoTimer p w))

/-! ### Tracks, sections and claims (R66, R82, R114) -/

theorem changeTrack_stands (x : Nat) (f : TrackEntry → TrackEntry) : TimersStand s (changeTrack x f s) :=
  .of_records (changeTrack_pending ..) (changeTrack_records ..)

theorem changeSection_stands (x : Nat) (f : SectionEntry → SectionEntry) : TimersStand s (changeSection x f s) := .of_records rfl rfl

theorem changePoint_stands (p : Nat) (f : PointEntry → PointEntry) : TimersStand s (changePoint p f s) := .of_records rfl rfl

theorem setClaims_stands (p : Nat) (l : List Claim) : TimersStand s (setClaims p l s) := .of_records rfl rfl

theorem commitLength_stands (x len : Nat) : TimersStand s (commitLength x len s) := changeTrack_stands s x _

theorem releaseFrom_stands (x : Option Nat) (len : Nat) : TimersStand s (releaseFrom x len s) := by
  cases x with
  | none => exact .refl s
  | some x => exact changeTrack_stands s x fun e => { e with committed := e.committed - len }

theorem settleLength_stands (a : Option Nat) (x len : Nat) : TimersStand s (settleLength a x len s) :=
  .ite (changeTrack_stands s x _) ((releaseFrom_stands s a len).trans (changeTrack_stands _ x _))

theorem setAssignment_stands (n : Nat) (a : Assignment) : TimersStand s (setAssignment n a s) :=
  changeRecords_stands s _ ⟨fun _ => rfl, fun _ _ => id⟩

theorem assignTrack_stands (n x : Nat) (w : AssignReason) : TimersStand s (assignTrack n x w s) :=
  ((setAssignment_stands s n _).trans (commitLength_stands _ x _)).trans (addMarkIf_stands _ _ .overfill n)

theorem reassign_stands (n x : Nat) (w : AssignReason) : TimersStand s (reassign n x w s) :=
  .ite (setAssignment_stands s n _)
    ((((setAssignment_stands s n _).trans (releaseFrom_stands _ _ _)).trans (commitLength_stands _ x _)).trans (addMarkIf_stands _ _ .overfill n))

theorem withdrawAt_stands (l : List Nat) (n : Nat) : TimersStand s (withdrawAt l n s) := .foldl _ (fun s _ => setClaims_stands s _ _) l s

theorem rewriteClaim_stands (p n : Nat) (f : Claim → Claim) : TimersStand s (rewriteClaim p n f s) := setClaims_stands s p _

theorem claimOnRoute_stands (n : Nat) (r : Record) (pb : Nat × Position) : TimersStand s (claimOnRoute n r s pb) :=
  .ite (rewriteClaim_stands s _ n _) (.ite (setClaims_stands s _ _) (.refl s))

theorem redoClaims_stands (n : Nat) : TimersStand s (redoClaims n s) := by
  unfold redoClaims
  split
  · exact .refl s
  · split
    · exact .refl s
    · exact ((withdrawAt_stands s _ n).trans
        (changeRecord_stands _ n (f := fun r => { r with unplannedBelow := none }) ⟨fun _ => rfl, fun _ _ => id⟩)).trans
        (.foldl _ (fun s pb => claimOnRoute_stands s n _ pb) _ _)

theorem replan_stands (n p : Nat) (b : Position) : TimersStand s (replan n p b s) := by
  unfold replan
  split
  · exact redoClaims_stands s n
  · exact (reassign_stands s n _ _).trans (redoClaims_stands _ n)

theorem noteDiversion_stands (n p : Nat) : TimersStand s (noteDiversion n p s) :=
  (changeRecord_stands s n (withDiversion_setsNoTimer p _)).trans (latch_stands _ .diverted)

theorem divertTo_stands (n p : Nat) (x : Position) : TimersStand s (divertTo n p x s) :=
  ((noteDiversion_stands s n p).trans (rewriteClaim_stands _ p n _)).trans (replan_stands _ n p x)

theorem divertUnknown_stands (n p : Nat) : TimersStand s (divertUnknown n p s) :=
  (((noteDiversion_stands s n p).trans (rewriteClaim_stands _ p n _)).trans (withdrawAt_stands _ _ n)).trans
    (changeRecord_stands _ n ⟨fun _ => rfl, fun _ _ => id⟩)

theorem leaveSections_stands (l : List Nat) (n : Nat) : TimersStand s (leaveSections l n s) := .foldl _ (fun s _ => changeSection_stands s _ _) l s

theorem enterSection_stands (x n : Nat) : TimersStand s (enterSection x n s) := changeSection_stands s x _

/-! ### Cuts that leave the tree (R28, R30) -/

theorem leaveTree_stands : TimersStand s (leaveTree s) := .of_records rfl rfl

/-- The claims and the lists of a cut that leaves the tree. -/
theorem leftLists_stands (n : Nat) : TimersStand s (leaveSections (s.spanOf n) n (withdrawAll n s)) :=
  (withdrawAt_stands s _ n).trans (leaveSections_stands _ _ n)

theorem loseCut_stands (w : LostReason) (n : Nat) : TimersStand s (loseCut w n s) :=
  .ite ((((((changeRecord_stands s n (lose_setsNoTimer w)).trans (leaveTree_stands _)).trans (latch_stands _ .lost)).trans
    (changeRecords_stands _ _ (lose_setsNoTimer _))).trans (leftLists_stands _ n)).trans (releaseFrom_stands _ _ _)) (.refl s)

theorem loseCuts_stands (w : LostReason) (l : List Nat) : TimersStand s (loseCuts w l s) := .foldl _ (fun s n => loseCut_stands s w n) l s

theorem settleCut_stands (p x n : Nat) : TimersStand s (settleCut p x n s) :=
  .ite ((TimersStand.ite (addMisroute_stands s p _ n) (.refl s)).trans
    (((((changeRecord_stands _ n (settle_setsNoTimer x)).trans (leaveTree_stands _)).trans
      (changeRecords_stands _ _ (settle_setsNoTimer x))).trans (leftLists_stands _ n)).trans (settleLength_stands _ _ _ _))) (.refl s)

/-! ### Head credits and closing up (R85 to R97) -/

theorem endHold_stands (x : Nat) : TimersStand s (endHold x s) := changeSection_stands s x _

theorem checkBranch_stands (n u x : Nat) : TimersStand s (checkBranch n u x s) := by
  unfold checkBranch
  split
  · exact .refl s
  · split
    · exact .refl s
    · have noted : ∀ (c : Prop) [Decidable c] (p : Nat) (w : DivertReason), TimersStand s (if c then addMisroute p w n s else s) :=
        fun _ _ p w => .ite (addMisroute_stands s p w n) (.refl s)
      exact .ite ((noted _ _ _).trans (replan_stands _ n _ _)) (noted _ _ _)

theorem creditHead_stands (n x : Nat) (held : Bool) (r : Record) : TimersStand s (creditHead n x held r s) :=
  (((enterSection_stands s x n).trans (leaveSections_stands _ _ n)).trans
    (changeRecord_stands _ n (credit_setsNoTimer s x _ (fun _ => _) true))).trans (addMarkIf_stands _ _ .speedClamped n)

theorem creditEntry_stands (n x : Nat) : TimersStand s (creditEntry n x s) := by
  unfold creditEntry
  split
  · exact .refl s
  · split
    · exact (creditHead_stands s n x _ _).trans (endHold_stands _ x)
    · exact (((creditHead_stands s n x _ _).trans (endHold_stands _ x)).trans (checkBranch_stands _ n _ x)).trans (withdrawAt_stands _ _ n)

theorem tellDrivers_stands (x : Nat) (e : Option Nat) : TimersStand s (tellDrivers x e s) := by
  unfold tellDrivers
  split
  · unfold wheelsOnPoint
    split
    · cases e with
      | none => exact (changePoint_stands s _ _).trans (latch_stands _ .pointFault)
      | some n => exact ((changePoint_stands s _ _).trans (latch_stands _ .pointFault)).trans (addMark_stands _ .movingPoint n)
    · cases e with
      | none => exact changePoint_stands s _ _
      | some n => exact (TimersStand.trans (t := becomeSet _ s) (changePoint_stands s _ _) (addMark_stands _ .lateSettle n))
    all_goals exact .refl s
  · exact .refl s

theorem unexplainedEntry_stands (x : Nat) : TimersStand s (unexplainedEntry x s) :=
  .ite (endHold_stands s x) ((changeSection_stands s x _).trans (latch_stands _ .sectionCause))

theorem drawOut_stands (u n : Nat) : TimersStand s (drawOut u s n) :=
  ((leaveSections_stands s _ n).trans (changeRecord_stands _ n (f := Record.tailed (s.nextOfSpan n u)) ⟨fun _ => rfl, fun _ _ => id⟩)).trans
    (withdrawAt_stands _ _ n)

theorem closeUp_stands (u d n : Nat) : TimersStand s (closeUp u d s n) := by
  refine .ite (loseCut_stands s .overcrowded n) ?_
  have credited : ∀ l q : List Nat, TimersStand s (withdrawAt q n (addMark .closedUp n
      (changeRecord n (fun r => Record.credit s d d r.speed false r) (leaveSections l n (enterSection d n s))))) := fun l q =>
    ((((enterSection_stands s d n).trans (leaveSections_stands _ l n)).trans
      (changeRecord_stands _ n (credit_setsNoTimer s d d Record.speed false))).trans (addMark_stands _ .closedUp n)).trans (withdrawAt_stands _ q n)
  dsimp only
  split
  · have noted : ∀ (c : Prop) [Decidable c] (p : Nat) (v : State), TimersStand v (if c then addMisroute p .misroute n v else v) :=
      fun _ _ p v => .ite (addMisroute_stands v p _ n) (.refl v)
    exact (credited _ _).trans (.ite ((noted _ _ _).trans (replan_stands _ n _ _)) (noted _ _ _))
  · exact credited _ _

theorem dealWithHeld_stands (u : Nat) (l : List Nat) : TimersStand s (dealWithHeld u l s) := by
  have held : TimersStand s (holdUnproven u s) := changeSection_stands s u _
  unfold dealWithHeld
  split
  · exact .ite (.foldl _ (fun s n => closeUp_stands s u _ n) l s) held
  · exact .foldl _ (fun s n => settleCut_stands s _ _ n) l s
  · split
    · exact .ite (loseCuts_stands s _ l) held
    · exact held

end

end Sys2Proof.Machine
end

section
/-! What the choice of watch points puts on the queue of commands: the expiries of the last-moment timers it sets to an instant already come
(R103, R122; logs 1 and 2). -/

namespace Sys2Proof.Machine

/-! ### A queue left by a command -/

/-- The commands that wait stay behind what a change from `s` to `t` puts in front of them: last-moment expiries of timers that have run out in
`t`, one of each cut whose timer the change has set to an instant already come. -/
def QueueKept (s t : State) : Prop :=
  ∃ l : List Nat, t.pending = l.map Instr.lastMomentExpiry ++ s.pending
    ∧ (∀ n ∈ l, ∃ r e, t.record n = some r ∧ r.timer = .running e ∧ after e t.clock = false)
    ∧ (∀ n r e, t.record n = some r → r.state.inTree = true → r.timer = .running e → after e t.clock = false →
        n ∈ l ∨ ∃ q, s.record n = some q ∧ q.timer = r.timer)

section
variable {s t u : State}

theorem TimersStand.kept (h : TimersStand s t) : QueueKept s t :=
  ⟨[], h.pending, nofun, fun n r e hr _ he _ => .inr (by rw [he]; exact h.timers n r e hr he)⟩

theorem TimersStand.trans_kept (h : TimersStand s t) (k : QueueKept t u) : QueueKept s u := by
  obtain ⟨l, pending, overdue, timers⟩ := k
  refine ⟨l, by rw [pending, h.pending], overdue, fun n r e hr inTree he past => (timers n r e hr inTree he past).imp_right ?_⟩
  rintro ⟨q, hq, same⟩
  rw [he] at same ⊢
  exact h.timers n q e hq same

/-- What comes after may change anything but the queue, the records and the clock. -/
theorem QueueKept.congr (h : QueueKept s t) (pending : u.pending = t.pending) (records : u.records = t.records) (clock : u.clock = t.clock) :
    QueueKept s u := by
  obtain ⟨l, front, overdue, timers⟩ := h
  refine ⟨l, pending.trans front, ?_, ?_⟩
  all_goals simp only [record_congr records, clock]
  · exact overdue
  · exact timers

theorem QueueKept.ite {c : Prop} [Decidable c] (h : QueueKept s t) (k : QueueKept s u) : QueueKept s (if c then t else u) := by
  split <;> assumption

end

/-! ### One choice of a watch point (R109, R122) -/

/-- The last-moment timer that the choice of its watch point gives a cut (R122). -/
def State.chosenTimer (s : State) (r : Record) : LastMomentTimer := (Record.watching s (s.watchPoint r) r).timer

theorem WatchOnly.chosenTimer {s t : State} (h : WatchOnly s t) {r w : Record} (agrees : w.AgreesButWatch r) :
    t.chosenTimer w = s.chosenTimer r := by
  have same : s.chosenTimer w = s.chosenTimer r := by
    unfold Record.AgreesButWatch at agrees
    rw [agrees]
    show (Record.watching s (s.watchPoint r) _).timer = (Record.watching s (s.watchPoint r) r).timer
    cases s.watchPoint r <;> rfl
  rw [← same, h]
  rfl

section
variable {s u : State} {k : Nat} {r : Record}

/-- Two records with the same state and timer are due together. -/
theorem lastMomentDue_congr {v : State} (clock : v.clock = u.clock) {w : Record} (state : w.state = r.state) (timer : w.timer = r.timer) :
    lastMomentDue v w = lastMomentDue u r := by
  unfold lastMomentDue
  rw [timer, state, clock]

/-- A timer that has run out puts its expiry in front of the queue (R103). -/
theorem expireAtOnce_pending (hr : u.record k = some r) :
    (expireAtOnce k u).pending = if lastMomentDue u r then .lastMomentExpiry k :: u.pending else u.pending := by
  simp only [expireAtOnce, hr]
  split <;> rfl

/-- A cut on its way is set to its watch point, and its expiry is put on the queue where its timer has then run out. -/
theorem chooseWatch_moving (hr : u.record k = some r) (moving : r.state = .releasing ∨ r.state = .rolling) : ∃ w,
    w.AgreesButWatch r ∧ w.timer = u.chosenTimer r ∧ (chooseWatch k u).record k = some w
      ∧ (∀ n, n ≠ k → (chooseWatch k u).record n = u.record n)
      ∧ (chooseWatch k u).pending = if lastMomentDue (chooseWatch k u) w then .lastMomentExpiry k :: u.pending else u.pending := by
  have number : ∀ q, (Record.watching u (u.watchPoint r) q).number = q.number := fun q => by cases u.watchPoint r <;> rfl
  have own := record_changeRecord_same u k (Record.watching u (u.watchPoint r)) number
  rw [hr, Option.map_some] at own
  have chosen : chooseWatch k u = expireAtOnce k (changeRecord k (Record.watching u (u.watchPoint r)) u) := by
    simp only [chooseWatch, hr, if_pos moving]
  have clock : (chooseWatch k u).clock = u.clock := by rw [chooseWatch_watchOnly u k]
  refine ⟨Record.changed (Record.watching u (u.watchPoint r)) r, Record.changed_watching u _ r, ?_, ?_, fun n ne => ?_, ?_⟩
  · rw [Record.changed_eq]
    rfl
  · rw [chosen, record_congr (expireAtOnce_records _ k), own]
  · rw [chosen, record_congr (expireAtOnce_records _ k), record_changeRecord_other u _ number ne]
  · rw [lastMomentDue_congr (clock.trans (changeRecord_clock u k (Record.watching u (u.watchPoint r))).symm) rfl rfl, chosen,
      expireAtOnce_pending own, changeRecord_pending]

theorem chooseWatch_unmoved (h : ∀ r, u.record k = some r → ¬ (r.state = .releasing ∨ r.state = .rolling)) : chooseWatch k u = u := by
  unfold chooseWatch
  split
  · rfl
  · rename_i r hr
    exact if_neg (h r hr)

/-- The watch points chosen so far from `s` have put the expiries of `l` on the queue: each of a timer that has run out and that a further choice
would set again, and of every timer set since that has run out. -/
structure WatchesQueued (s u : State) (l : List Nat) : Prop where
  pending : u.pending = l.map Instr.lastMomentExpiry ++ s.pending
  overdue : ∀ n ∈ l, ∃ r, u.record n = some r ∧ lastMomentDue u r = true ∧ r.timer = u.chosenTimer r
  timers : ∀ n r, u.record n = some r → lastMomentDue u r = true → n ∈ l ∨ ∃ q, s.record n = some q ∧ q.timer = r.timer

theorem WatchesQueued.refl (s : State) : WatchesQueued s s [] := ⟨rfl, nofun, fun _ r hr _ => .inr ⟨r, hr, rfl⟩⟩

theorem WatchesQueued.step {l : List Nat} (h : WatchesQueued s u l) (k : Nat) : ∃ l', WatchesQueued s (chooseWatch k u) l' := by
  have only := chooseWatch_watchOnly u k
  have clock : (chooseWatch k u).clock = u.clock := by rw [only]
  by_cases still : ∀ r, u.record k = some r → ¬ (r.state = .releasing ∨ r.state = .rolling)
  · exact ⟨l, by rwa [chooseWatch_unmoved still]⟩
  · push Not at still
    obtain ⟨r, hr, moving⟩ := still
    obtain ⟨w, agrees, timer, own, others, pending⟩ := chooseWatch_moving hr moving
    have state : w.state = r.state := by rw [agrees]
    -- The expiries put so far: the cut's own timer is set as it was, and no other cut's is touched.
    have before : ∀ n ∈ l, ∃ q, (chooseWatch k u).record n = some q ∧ lastMomentDue (chooseWatch k u) q = true
        ∧ q.timer = (chooseWatch k u).chosenTimer q := fun n hn => by
      obtain ⟨q, hq, due_, same⟩ := h.overdue n hn
      by_cases e : n = k
      · subst e
        obtain rfl := Option.some.inj (hr.symm.trans hq)
        exact ⟨w, own, (lastMomentDue_congr clock state (timer.trans same.symm)).trans due_, timer.trans (only.chosenTimer agrees).symm⟩
      · have again : (chooseWatch k u).chosenTimer q = u.chosenTimer q := only.chosenTimer (show q.AgreesButWatch q from rfl)
        exact ⟨q, (others n e).trans hq, (lastMomentDue_congr clock rfl rfl).trans due_, same.trans again.symm⟩
    have elsewhere : ∀ n q, n ≠ k → (chooseWatch k u).record n = some q → lastMomentDue (chooseWatch k u) q = true →
        n ∈ l ∨ ∃ v, s.record n = some v ∧ v.timer = q.timer := fun n q ne hq due_ =>
      h.timers n q ((others n ne).symm.trans hq) ((lastMomentDue_congr clock rfl rfl).symm.trans due_)
    by_cases due_ : lastMomentDue (chooseWatch k u) w = true
    · rw [if_pos due_] at pending
      refine ⟨k :: l, by rw [pending, h.pending]; rfl, fun n hn => ?_, fun n q hq past => ?_⟩
      · rcases List.mem_cons.mp hn with rfl | hn
        · exact ⟨w, own, due_, timer.trans (only.chosenTimer agrees).symm⟩
        · exact before n hn
      · by_cases e : n = k
        · exact .inl (e ▸ List.mem_cons_self ..)
        · exact (elsewhere n q e hq past).imp_left (List.mem_cons_of_mem k)
    · rw [if_neg due_] at pending
      refine ⟨l, pending.trans h.pending, before, fun n q hq past => ?_⟩
      by_cases e : n = k
      · subst e
        exact absurd past (Option.some.inj (own.symm.trans hq) ▸ due_)
      · exact elsewhere n q e hq past

theorem WatchesQueued.foldl {l : List Nat} (h : WatchesQueued s u l) (cuts : List Nat) :
    ∃ l', WatchesQueued s (cuts.foldl (fun s n => chooseWatch n s) u) l' := by
  induction cuts generalizing u l with
  | nil => exact ⟨l, h⟩
  | cons k cuts ih =>
    obtain ⟨_, h⟩ := h.step k
    exact ih h

theorem WatchesQueued.kept {l : List Nat} (h : WatchesQueued s u l) : QueueKept s u := by
  refine ⟨l, h.pending, fun n hn => ?_, fun n r e hr inTree running past =>
    h.timers n r hr (lastMomentDue_iff.mpr ⟨inTree, e, running, past⟩)⟩
  obtain ⟨r, hr, due_, -⟩ := h.overdue n hn
  obtain ⟨-, e, running, past⟩ := lastMomentDue_iff.mp due_
  exact ⟨r, e, hr, running, past⟩

end

/-! ### What follows a change (R120, R122) -/

section
variable (s : State)

theorem throwDecision_stands (p : Nat) : TimersStand s (throwDecision p s) := by
  unfold throwDecision
  split
  · exact changePoint_stands s p _
  · exact .refl s

/-- Throw decisions set no timer, and the watch choices after them put on the queue what they set to an instant already come. -/
theorem followUp_queueKept (old : State) (ps cs : List Nat) : QueueKept s (followUp old ps cs s) := by
  have decisions : TimersStand s (takeDecisions old ps s) := .foldl _ (fun s p => throwDecision_stands s p) _ _
  obtain ⟨_, watches⟩ := (WatchesQueued.refl (takeDecisions old ps s)).foldl _
  exact decisions.trans_kept watches.kept

theorem followCut_queueKept (old : State) (n : Nat) : QueueKept s (followCut old n s) := followUp_queueKept s old _ _

end

end Sys2Proof.Machine
end

section
/-! Every event leaves the commands that wait behind the expiries it calls for (R103, R122): the ladder, the crest, the points and the halt. -/

namespace Sys2Proof.Machine

section
variable (s : State)

/-! ### Sections (R84 to R98) -/

theorem sectionEntered_queueKept (old : State) (x : Nat) : QueueKept s (sectionEntered old x s) := by
  unfold sectionEntered
  split
  · exact ((unexplainedEntry_stands s x).trans (tellDrivers_stands _ x none)).trans_kept (followUp_queueKept _ old [] [])
  · exact .ite
      (((loseCut_stands s .overcrowded _).trans ((endHold_stands _ x).trans (tellDrivers_stands _ x none))).trans_kept
        (followUp_queueKept _ old [] []))
      (((creditEntry_stands s _ x).trans (tellDrivers_stands _ x _)).trans_kept (followCut_queueKept _ old _))

theorem sectionLeft_queueKept (old : State) (u : Nat) : QueueKept s (sectionLeft old u s) := by
  have drawn : TimersStand s (((s.section u).occupants.filter fun n => !s.headIn u n).foldl (drawOut u)
      (changeSection u (fun e => { e with unexplained := false }) s)) :=
    (changeSection_stands s u _).trans (.foldl _ (fun s n => drawOut_stands s u n) _ _)
  exact (TimersStand.ite drawn (drawn.trans (dealWithHeld_stands _ u _))).trans_kept (followUp_queueKept _ old _ _)

theorem inputChanges_queueKept (c : Nat) (b : Bool) : QueueKept s (inputChanges c b s) := by
  have set : TimersStand s (setChannel c b s) := .of_records rfl rfl
  unfold inputChanges
  dsimp only
  split
  · exact .ite (.ite (set.trans_kept (sectionEntered_queueKept _ s _)) (set.trans_kept (sectionLeft_queueKept _ s _))) set.kept
  · exact set.kept

theorem provingExpires_queueKept (x : Nat) : QueueKept s (provingExpires x s) :=
  ((loseCuts_stands s .unproven (s.section x).occupants).trans ((changeSection_stands _ x _).trans (latch_stands _ .sectionCause))).trans_kept
    (followUp_queueKept _ s [] [])

/-- A stall suspends the timer of the cut (R123). -/
theorem stallPasses_queueKept (n : Nat) (r : Record) : QueueKept s (stallPasses n r s) :=
  ((changeRecord_stands s n (f := Record.stall) ⟨fun _ => rfl, fun _ _ => nofun⟩).trans
    ((addMarkIf_stands _ _ .foul n).trans (latch_stands _ .stall))).kept

theorem standPasses_queueKept (n : Nat) : QueueKept s (standPasses n s) :=
  (changeRecord_stands s n (f := Record.stood) ⟨fun _ => rfl, fun _ _ => id⟩).kept

/-! ### Last moments (R124 to R130) -/

theorem lastMomentExpires_queueKept (n : Nat) (r : Record) : QueueKept s (lastMomentExpires n r s) := by
  unfold lastMomentExpires
  split
  · exact ((assignTrack_stands s n _ _).trans (redoClaims_stands _ n)).trans_kept (followCut_queueKept _ s n)
  · unfold expireAt
    split
    · exact followUp_queueKept s s [] [n]
    · split
      · exact .ite ((rewriteClaim_stands s _ n _).trans_kept (followUp_queueKept _ s [] [n]))
          ((divertTo_stands s n _ _).trans_kept (followCut_queueKept _ s n))
      · exact (divertUnknown_stands s n _).trans_kept (followUp_queueKept _ s [] [n])
  · exact followUp_queueKept s s [] [n]

/-! ### Points (R108, R134 to R142) -/

theorem PointMoved.stands {s m : State} {p : Nat} (h : PointMoved p s m) : TimersStand s m := by
  rw [h.frame]
  exact .of_records rfl rfl

theorem detectionChanges_queueKept (d : Nat) (i : Position) (on : Bool) : QueueKept s (detectionChanges d i on s) := by
  have set : TimersStand s (setInput d i on s) := (setInput_moved d i on 0 s).stands
  unfold detectionChanges
  dsimp only
  split
  · exact .ite ((set.trans (detectionTaken_moved _ _).stands).trans_kept (followUp_queueKept _ s [] [])) set.kept
  · exact set.kept

theorem limitPasses_queueKept (p : Nat) : QueueKept s (limitPasses p s) :=
  .ite ((becomeFault_moved p s).stands.trans_kept (followUp_queueKept _ s [] [])) (endFlight_moved p s).stands.kept

theorem idlePasses_queueKept (p : Nat) : QueueKept s (idlePasses p s) := (changePoint_stands s p _).trans_kept (followUp_queueKept _ s [] _)

/-! ### The crest (R48 to R60) -/

theorem nextSequence_stands : TimersStand s (nextSequence s) := .of_records rfl rfl

theorem startGroup_queueKept {t : State} (h : QueueKept s t) (n : Option Nat) : QueueKept s (startGroup n t) := h.congr rfl rfl rfl

theorem assignAtRelease_stands (n : Nat) (r : Record) : TimersStand s (assignAtRelease n r s) := by
  unfold assignAtRelease
  split
  · split
    · exact assignTrack_stands s n _ _
    · exact latch_stands s .needsTrack
  all_goals exact assignTrack_stands s n _ _

theorem releaseCut_queueKept (old : State) (n : Nat) : QueueKept s (releaseCut old n s) := by
  have advanced : ∀ f : Record → Record, Record.SetsNoTimer f → TimersStand s (nextSequence (changeRecord n f s)) := fun _ h =>
    (changeRecord_stands s n h).trans (nextSequence_stands _)
  unfold releaseCut
  split
  · exact (TimersStand.refl s).kept
  · have joined : ∀ t, TimersStand t (joinTree t) := fun _ => .of_records rfl rfl
    have released := (advanced (Record.released s) ⟨fun _ => rfl, fun _ _ => id⟩).trans (joined _)
    exact .ite (((released.trans (assignAtRelease_stands _ n _)).trans (redoClaims_stands _ n)).trans_kept (followCut_queueKept _ old n))
      ((advanced (Record.overloaded s) ⟨fun _ => rfl, fun _ _ => id⟩).trans (latch_stands _ .lost)).kept

theorem releaseUnlisted_queueKept (old : State) (o : Origin) : QueueKept s (releaseUnlisted old o s) := by
  have numbered : TimersStand s { s with unlistedCounter := afterUnlisted s.nextUnlisted } := .of_records rfl rfl
  have came := numbered.trans (addRecord_stands _ (r := unlistedRecord s.nextUnlisted o s) rfl)
  exact .ite (startGroup_queueKept s (latch_stands s .crest).kept none) (startGroup_queueKept s (came.trans_kept (releaseCut_queueKept _ old _)) _)

theorem firstAxle_queueKept : QueueKept s (firstAxle s) := by
  have latched : TimersStand s (latchIf (s.runState == .standby) .run s) := latchIf_stands s _ .run
  unfold firstAxle
  generalize latchIf (s.runState == .standby) .run s = u at latched
  refine latched.trans_kept ?_
  dsimp only
  split
  · exact TimersStand.trans_kept (t := { u with remnantDue := none }) (.of_records rfl rfl) (releaseUnlisted_queueKept _ s _)
  · refine .ite (releaseUnlisted_queueKept u s _) ?_
    split
    · exact releaseUnlisted_queueKept u s _
    · rename_i n rest _
      exact startGroup_queueKept u (TimersStand.trans_kept (t := { u with queue := rest }) (.of_records rfl rfl) (releaseCut_queueKept _ s n)) _

theorem countAxle_stands (n : Nat) : TimersStand s (countAxle n s) :=
  changeRecord_stands s n (f := fun r => { r with measuredAxles := min 255 (r.measuredAxles + 1) }) ⟨fun _ => rfl, fun _ _ => id⟩

theorem commitFollower_stands (c n x : Nat) : TimersStand s (commitFollower c n x s) :=
  (commitLength_stands s x _).trans (addMarkIf_stands _ _ .overfill c)

theorem rehumpGroup_stands (c n x : Nat) : TimersStand s (rehumpGroup c n x s) :=
  have sent := setAssignment_stands s c { track := defaultTrack s.layout, reason := .defaultJoin }
  .ite (sent.trans (commitFollower_stands _ c n _))
    (((sent.trans (changeTrack_stands _ x _)).trans (commitLength_stands _ _ _)).trans (addMarkIf_stands _ _ .overfill c))

theorem joinPolicyTrack_queueKept (old : State) (c n : Nat) : QueueKept s (joinPolicyTrack old c n s) := by
  unfold joinPolicyTrack
  split
  · exact (TimersStand.refl s).kept
  · refine .ite ?_ ?_
    · split
      · exact ((assignTrack_stands s c _ _).trans (redoClaims_stands _ c)).trans_kept (followCut_queueKept _ old c)
      · exact .ite (((rehumpGroup_stands s c n _).trans (redoClaims_stands _ c)).trans_kept (followCut_queueKept _ old c))
          (commitFollower_stands s c n _).kept
    · split
      · exact (TimersStand.refl s).kept
      · exact (commitFollower_stands s c n _).kept

theorem joinOutcome_stands (c n : Nat) : TimersStand s (joinOutcome c n s) := by
  unfold joinOutcome
  split
  · exact .refl s
  · split
    · exact (changeRecord_stands s n (lose_setsNoTimer _)).trans (latch_stands _ .lost)
    · exact changeRecord_stands s n (settle_setsNoTimer _)
    all_goals exact .refl s

theorem joinCut_queueKept (c n : Nat) : QueueKept s (joinCut c n s) := by
  have taken : TimersStand s { s with queue := s.queue.drop 1, target := some n } := .of_records rfl rfl
  have follower := taken.trans (changeRecord_stands _ n (f := Record.joinedTo s c) ⟨fun _ => rfl, fun _ _ => id⟩)
  have leader := (follower.trans (nextSequence_stands _)).trans
    (changeRecord_stands _ c (f := Record.withFollower n) ⟨fun _ => rfl, fun _ _ => id⟩)
  have noted := leader.trans (latch_stands _ .crest)
  exact .ite (noted.trans_kept (joinPolicyTrack_queueKept _ s c n)) (noted.trans (joinOutcome_stands _ c n)).kept

theorem countPulse_queueKept : QueueKept s (countPulse s) := by
  unfold countPulse
  split
  · exact (TimersStand.refl s).kept
  · rename_i m _
    have counted := countAxle_stands s m
    split
    · exact (TimersStand.refl s).kept
    · split
      · exact counted.kept
      · refine .ite counted.kept ?_
        split
        · exact joinCut_queueKept s _ _
        · exact (counted.trans (addMark_stands _ .overcount m)).kept

theorem takePulse_queueKept : QueueKept s (takePulse s) := by
  have timed : TimersStand s { s with separation := some (later s.clock (separationGap s.layout)) } := .of_records rfl rfl
  unfold takePulse
  dsimp only
  split
  · exact timed.trans_kept (firstAxle_queueKept _)
  · exact timed.trans_kept (countPulse_queueKept _)

theorem shortTest_stands : TimersStand s (shortTest s) := by
  unfold shortTest
  split
  · rename_i n _
    have due_ : TimersStand s { s with remnantDue := some n } := .of_records rfl rfl
    exact (due_.trans (addMark_stands _ .short n)).trans (latch_stands _ .crest)
  · exact .refl s

theorem letGo_stands : TimersStand s (letGo s) := by
  unfold letGo
  split
  · refine changeRecord_stands s _ (f := Record.letGo) ⟨letGo_number, fun r e he => ?_⟩
    unfold Record.letGo at he
    split at he <;> exact he
  · exact .refl s

theorem separate_queueKept : QueueKept s (separate s) := ((shortTest_stands s).trans (letGo_stands _)).kept.congr rfl rfl rfl

/-! ### Power and the halt (R152 to R154) -/

theorem halt_stands : TimersStand s (halt s) := (loseCuts_stands s .halted s.inTreeCuts).trans (.of_records rfl rfl)

/-- A board with no record has no timer. -/
theorem TimersStand.of_none {s t : State} (pending : t.pending = s.pending) (none_ : t.records = []) : TimersStand s t :=
  ⟨pending, fun n r e hr => by rw [State.record, none_] at hr; cases hr⟩

theorem restarted_queueKept : QueueKept s (restarted s) := (TimersStand.of_none (s := s) (t := restarted s) rfl rfl).kept

theorem enterStandby_stands : TimersStand s (enterStandby s) := by
  have awake : TimersStand s { s with tree := deriveTree s.layout, runState := .standby } := .of_records rfl rfl
  exact (((awake.trans (.foldl _ (fun s x => changeSection_stands s x _) _ _)).trans (latchIf_stands _ _ .sectionCause)).trans
    (.foldl _ (fun s p => changePoint_stands s p _) _ _)).trans (latchIf_stands _ _ .pointFault)

end

end Sys2Proof.Machine
end

section
/-! Every command leaves the commands that wait behind the expiries it calls for (R103, R122): the requests, the receiver, and the obligation. -/

namespace Sys2Proof.Machine

section
variable (s : State)

/-! ### The requests (R36 to R47, R79, R144 to R146, R149, R154) -/

variable {s} in
/-- The board after a request, where one of two owners answers it. -/
theorem QueueKept.owned_ite {c : Prop} [Decidable c] {o p : Owned} (h : QueueKept s o.1) (k : QueueKept s p.1) :
    QueueKept s (if c then o else p).1 := by split <;> assumption

/-- A refusal, or an answer that changes nothing. -/
theorem unchanged_queueKept : QueueKept s s := (TimersStand.refl s).kept

theorem enterRequest_queueKept (q : EnterBody) : QueueKept s (enterRequest q s).1 := by
  have refused := unchanged_queueKept s
  have queued : TimersStand s { s with queue := enterQueue q s.queue } := .of_records rfl rfl
  have listed : QueueKept s (enterAccepted q s) := (queued.trans (addRecord_stands _ (r := listedRecord q) rfl)).kept
  exact .owned_ite refused (.owned_ite refused (.owned_ite refused (.owned_ite refused (.owned_ite refused listed))))

theorem setRequested_stands (n x : Nat) : TimersStand s (setRequested n x s) :=
  changeRecord_stands s n (f := fun r => { r with requested := some x }) ⟨fun _ => rfl, fun _ _ => id⟩

theorem amendTrack_queueKept (n x : Nat) : QueueKept s (amendTrack n x s) :=
  (((setRequested_stands s n x).trans (reassign_stands _ n x .requested)).trans (redoClaims_stands _ n)).trans_kept (followCut_queueKept _ s n)

theorem amendWaiting_queueKept (n x : Nat) : QueueKept s (amendWaiting n x s) :=
  (((setRequested_stands s n x).trans (assignTrack_stands _ n _ _)).trans (redoClaims_stands _ n)).trans_kept (followCut_queueKept _ s n)

theorem amendInTree_queueKept (q : AmendBody) (r : Record) : QueueKept s (amendInTree q r s).1 := by
  have refused := unchanged_queueKept s
  refine .owned_ite refused ?_
  split
  · exact amendWaiting_queueKept s q.cut q.track
  · exact .owned_ite (setRequested_stands s q.cut q.track).kept (.owned_ite refused (.owned_ite refused (amendTrack_queueKept s q.cut q.track)))

theorem amendRequest_queueKept (q : AmendBody) : QueueKept s (amendRequest q s).1 := by
  have refused := unchanged_queueKept s
  refine .owned_ite refused (.owned_ite refused ?_)
  split
  · exact refused
  · split
    · exact (changeRecord_stands s q.cut (f := Record.amended q) ⟨fun _ => rfl, fun _ _ => id⟩).kept
    · exact amendInTree_queueKept s q _
    · exact amendInTree_queueKept s q _
    · exact amendInTree_queueKept s q _
    all_goals exact refused

theorem withdrawRequest_queueKept (n : Nat) : QueueKept s (withdrawRequest n s).1 := by
  have refused := unchanged_queueKept s
  have unlisted : TimersStand s { s with queue := s.queue.filter (fun m => m != n) } := .of_records rfl rfl
  have gone : QueueKept s (withdrawn n s) := (unlisted.trans (freeRecord_stands _ n)).kept
  exact .owned_ite refused (.owned_ite refused (.owned_ite refused gone))

theorem clearUnseen_stands (n : Nat) : TimersStand s (clearUnseen n s) :=
  .of_map rfl rfl (Record.SetsNoTimer.only (f := fun r => { r with unseen := false }) ⟨fun _ => rfl, fun _ _ => id⟩ n)

theorem queryRequest_queueKept (n : Nat) : QueueKept s (queryRequest n s).1 :=
  .owned_ite (unchanged_queueKept s) (.owned_ite (unchanged_queueKept s) (clearUnseen_stands s n).kept)

theorem listRequest_queueKept (q : ListBody) : QueueKept s (listRequest q s).1 := .owned_ite (unchanged_queueKept s) (unchanged_queueKept s)

theorem collectRequest_queueKept (n : Nat) : QueueKept s (collectRequest n s).1 := by
  have refused := unchanged_queueKept s
  have gone : QueueKept s (collected n s) := (freeRecord_stands s n).kept.congr rfl rfl rfl
  exact .owned_ite refused (.owned_ite refused (.owned_ite refused gone))

theorem abandonRequest_queueKept (n : Nat) : QueueKept s (abandonRequest n s).1 := by
  have refused := unchanged_queueKept s
  have lost : QueueKept s (abandoned n s) := (loseCut_stands s .abandoned n).trans_kept (followUp_queueKept _ s [] [])
  exact .owned_ite refused (.owned_ite refused (.owned_ite refused lost))

theorem trackSetRequest_queueKept (q : TrackSetBody) : QueueKept s (trackSetRequest q s).1 := by
  unfold trackSetRequest
  split
  · exact unchanged_queueKept s
  · rename_i x _
    have written : TimersStand s (trackWritten q.track q.fill x s) := changeTrack_stands s q.track _
    exact .owned_ite (unchanged_queueKept s) written.kept

theorem trackReadRequest_queueKept (x : Nat) : QueueKept s (trackReadRequest x s).1 :=
  .owned_ite (unchanged_queueKept s) (unchanged_queueKept s)

theorem sectionReadRequest_queueKept (x : Nat) : QueueKept s (sectionReadRequest x s).1 :=
  .owned_ite (unchanged_queueKept s) (unchanged_queueKept s)

theorem pointReadRequest_queueKept (p : Nat) : QueueKept s (pointReadRequest p s).1 :=
  .owned_ite (unchanged_queueKept s) (unchanged_queueKept s)

theorem pointModeRequest_queueKept (q : ItemValue) : QueueKept s (pointModeRequest q s).1 := by
  refine .owned_ite (unchanged_queueKept s) ?_
  split
  · exact unchanged_queueKept s
  · rename_i m _
    have set : TimersStand s (changePoint q.item (fun e => { e with mode := m }) s) := changePoint_stands s q.item _
    exact .owned_ite (unchanged_queueKept s) (.ite (set.trans_kept (followUp_queueKept _ s [q.item] [])) set.kept)

theorem pointThrowRequest_queueKept (q : ItemValue) : QueueKept s (pointThrowRequest q s).1 := by
  refine .owned_ite (unchanged_queueKept s) ?_
  split
  · exact unchanged_queueKept s
  · rename_i x _
    have thrown : TimersStand s (startThrow q.item x s) := changePoint_stands s q.item _
    exact .owned_ite (unchanged_queueKept s) (.owned_ite (unchanged_queueKept s)
      (.ite (unchanged_queueKept s) (thrown.trans_kept (followUp_queueKept _ s [] []))))

theorem pointResetRequest_queueKept (p : Nat) : QueueKept s (pointResetRequest p s).1 := by
  refine .owned_ite (unchanged_queueKept s) (.owned_ite (unchanged_queueKept s) ?_)
  split
  · exact unchanged_queueKept s
  · exact .owned_ite (unchanged_queueKept s) ((startSettle_moved p _ s).stands.trans_kept (followUp_queueKept _ s [] []))

theorem runRequest_queueKept (q : ItemValue) : QueueKept s (runRequest q s).1 := by
  unfold runRequest
  split
  · exact unchanged_queueKept s
  · refine .owned_ite (unchanged_queueKept s) (.owned_ite (unchanged_queueKept s) ?_)
    split
    · exact unchanged_queueKept s
    · split
      · exact (latch_stands s .run).kept
      · exact (enterStandby_stands s).kept
    · exact .owned_ite (unchanged_queueKept s) (halt_stands s).kept
    · exact (unchanged_queueKept s).congr rfl rfl rfl

theorem resetRequest_queueKept (u : Unit) : QueueKept s (resetRequest u s).1 := by
  have emptied : TimersStand s (warmReset s) := .of_none (halt_stands s).pending rfl
  exact emptied.kept

theorem statusRequest_queueKept (u : Unit) : QueueKept s (statusRequest u s).1 := unchanged_queueKept s

theorem clearFlagsRequest_queueKept (m : Nat) : QueueKept s (clearFlagsRequest m s).1 :=
  .owned_ite (unchanged_queueKept s) ((unchanged_queueKept s).congr rfl rfl rfl)

theorem enableFlagsRequest_queueKept (m : Nat) : QueueKept s (enableFlagsRequest m s).1 :=
  .owned_ite (unchanged_queueKept s) ((unchanged_queueKept s).congr rfl rfl rfl)

/-! ### The layout requests (R156, R157, R159) -/

theorem layoutLoadRequest_queueKept (u : Unit) : QueueKept s (layoutLoadRequest u s).1 := by
  unfold layoutLoadRequest
  split
  · exact unchanged_queueKept s
  · exact (unchanged_queueKept s).congr rfl rfl rfl

theorem layoutWriteRequest_queueKept (q : WriteBody) : QueueKept s (layoutWriteRequest q s).1 :=
  .owned_ite (unchanged_queueKept s) (.owned_ite (unchanged_queueKept s) ((unchanged_queueKept s).congr rfl rfl rfl))

theorem layoutCommitRequest_queueKept (q : CommitBody) : QueueKept s (layoutCommitRequest q s).1 :=
  .owned_ite (unchanged_queueKept s) (.owned_ite (unchanged_queueKept s) ((unchanged_queueKept s).congr rfl rfl rfl))

theorem layoutSelectRequest_queueKept (x : Nat) : QueueKept s (layoutSelectRequest x s).1 := by
  refine .owned_ite (unchanged_queueKept s) (.owned_ite (unchanged_queueKept s) ?_)
  split
  · exact unchanged_queueKept s
  · exact .owned_ite (unchanged_queueKept s) ((unchanged_queueKept s).congr rfl rfl rfl)

theorem layoutReadRequest_queueKept (q : ReadBody) : QueueKept s (layoutReadRequest q s).1 := by
  refine .owned_ite (unchanged_queueKept s) (.owned_ite (unchanged_queueKept s) ?_)
  split <;> exact unchanged_queueKept s

/-! ### The receiver (R160 to R164) -/

theorem hunt_stands : TimersStand s (hunt s) := .of_records rfl rfl

variable {s} in
/-- Taking a frame leaves the queue as its owner does (R162, R163). -/
theorem takeRequest_queueKept {α : Type} {code : Byte} {body : Option α} {owner : α → State → Owned}
    (h : ∀ s q, QueueKept s (owner q s).1) : QueueKept s (takeRequest code body owner s) := by
  have hunted := (hunt_stands s).kept
  have answered : ∀ {u : State} (body : List Byte), QueueKept s u → QueueKept s (answering code body u) := fun _ k => k.congr rfl rfl rfl
  have held : QueueKept s (holdFrame code (hunt s)) := .ite hunted (hunted.congr rfl rfl rfl)
  refine .ite held (.ite (answered _ hunted) ?_)
  cases body with
  | none => exact answered _ hunted
  | some q => exact answered _ ((hunt_stands s).trans_kept (h _ q))

theorem serveFrame_queueKept (code : Byte) (body : List Byte) : QueueKept s (serveFrame code body s) := by
  refine .ite (takeRequest_queueKept enterRequest_queueKept) ?_
  refine .ite (takeRequest_queueKept amendRequest_queueKept) ?_
  refine .ite (takeRequest_queueKept withdrawRequest_queueKept) ?_
  refine .ite (takeRequest_queueKept queryRequest_queueKept) ?_
  refine .ite (takeRequest_queueKept listRequest_queueKept) ?_
  refine .ite (takeRequest_queueKept collectRequest_queueKept) ?_
  refine .ite (takeRequest_queueKept abandonRequest_queueKept) ?_
  refine .ite (takeRequest_queueKept trackSetRequest_queueKept) ?_
  refine .ite (takeRequest_queueKept trackReadRequest_queueKept) ?_
  refine .ite (takeRequest_queueKept sectionReadRequest_queueKept) ?_
  refine .ite (takeRequest_queueKept pointModeRequest_queueKept) ?_
  refine .ite (takeRequest_queueKept pointThrowRequest_queueKept) ?_
  refine .ite (takeRequest_queueKept pointResetRequest_queueKept) ?_
  refine .ite (takeRequest_queueKept pointReadRequest_queueKept) ?_
  refine .ite (takeRequest_queueKept runRequest_queueKept) ?_
  refine .ite (takeRequest_queueKept resetRequest_queueKept) ?_
  refine .ite (takeRequest_queueKept layoutLoadRequest_queueKept) ?_
  refine .ite (takeRequest_queueKept layoutWriteRequest_queueKept) ?_
  refine .ite (takeRequest_queueKept layoutCommitRequest_queueKept) ?_
  refine .ite (takeRequest_queueKept layoutSelectRequest_queueKept) ?_
  refine .ite (takeRequest_queueKept layoutReadRequest_queueKept) ?_
  refine .ite (takeRequest_queueKept statusRequest_queueKept) ?_
  refine .ite (takeRequest_queueKept clearFlagsRequest_queueKept) ?_
  refine .ite (takeRequest_queueKept enableFlagsRequest_queueKept) ?_
  exact takeRequest_queueKept fun s _ => unchanged_queueKept s

theorem byteArrives_queueKept (b : Byte) : QueueKept s (byteArrives b s) := by
  have start : TimersStand s (if s.gapPassed then hunt s else s) := .ite (hunt_stands s) (.refl s)
  refine start.trans_kept (t := if s.gapPassed then hunt s else s) ?_
  unfold byteArrives
  generalize (if s.gapPassed then hunt s else s) = u
  have hunted := (hunt_stands u).kept
  have collected : ∀ l, QueueKept u (collect l u) := fun l => (unchanged_queueKept u).congr rfl rfl rfl
  unfold receiveByte
  split
  · exact .ite (collected _) (unchanged_queueKept u)
  · exact hunted
  · exact .ite hunted (collected _)
  · refine .ite (collected _) ?_
    unfold completeFrame
    split
    · exact .ite ((hunt_stands u).trans_kept (serveFrame_queueKept _ _ _)) hunted
    · exact hunted

end

/-! ### Every command -/

/-- Whatever comes of a command, it leaves the queue so. -/
def LeavesQueue (s : State) (o : Host.Outcome State Fault Refusal) : Prop := ∀ t, o = .next t → QueueKept s t

section
variable {s t : State}

theorem LeavesQueue.next (h : QueueKept s t) : LeavesQueue s (.next t) := fun _ e => by
  injection e with e
  exact e ▸ h

theorem LeavesQueue.unchanged (s : State) : LeavesQueue s (.next s) := .next (unchanged_queueKept s)

theorem LeavesQueue.finished (h : QueueKept s t) : LeavesQueue s (.next (finish t)) := .next (h.congr rfl rfl rfl)

theorem LeavesQueue.fault (f : Fault) : LeavesQueue s (.fault f) := fun _ e => by cases e

theorem LeavesQueue.ite {c : Prop} [Decidable c] {o p : Host.Outcome State Fault Refusal} (h : LeavesQueue s o) (k : LeavesQueue s p) :
    LeavesQueue s (if c then o else p) := by split <;> assumption

/-- A command that takes effect under a condition, and otherwise leaves the board as it is. -/
theorem LeavesQueue.guarded {c : Prop} [Decidable c] (h : QueueKept s t) :
    LeavesQueue s (if c then .next (finish t) else .next s) := .ite (.finished h) (.unchanged s)

/-- The expiry of a cut's timer, for a cut with a record or without one. -/
theorem LeavesQueue.ofRecord (n : Nat) {f : Record → Host.Outcome State Fault Refusal} (h : ∀ r, LeavesQueue s (f r)) :
    LeavesQueue s (match s.record n with
      | none => .next s
      | some r => f r) := by
  split
  · exact .unchanged s
  · exact h _

end

section
variable (s : State)

theorem execSeparation_leavesQueue : LeavesQueue s (execSeparation s) := by
  unfold execSeparation
  split
  · exact .unchanged s
  · exact .guarded (separate_queueKept s)

theorem endCommit_queueKept (c : CommitResult) {t : State} (h : QueueKept s t) : QueueKept s (endCommit c t) := h.congr rfl rfl rfl

theorem execCommitComplete_leavesQueue (b : Bool) : LeavesQueue s (execCommitComplete b s) := by
  unfold execCommitComplete
  split
  · exact .unchanged s
  · rename_i k _
    have programmed : QueueKept s (setSlot k.slot (if b then some k.contents else none) s) := (unchanged_queueKept s).congr rfl rfl rfl
    exact .finished (endCommit_queueKept s _ programmed)

theorem execCommitTimerExpiry_leavesQueue : LeavesQueue s (execCommitTimerExpiry s) := by
  unfold execCommitTimerExpiry
  split
  · exact .unchanged s
  · exact .guarded (endCommit_queueKept s _ (unchanged_queueKept s))

theorem sent_queueKept : QueueKept s (sent s) := by
  unfold sent
  split
  · exact unchanged_queueKept s
  all_goals exact (unchanged_queueKept s).congr rfl rfl rfl

theorem exec_leavesQueue (c : Instr) : LeavesQueue s (exec c s) := by
  cases c with
  | enter => exact .finished (takeRequest_queueKept enterRequest_queueKept)
  | amend => exact .finished (takeRequest_queueKept amendRequest_queueKept)
  | withdraw => exact .finished (takeRequest_queueKept withdrawRequest_queueKept)
  | query => exact .finished (takeRequest_queueKept queryRequest_queueKept)
  | list => exact .finished (takeRequest_queueKept listRequest_queueKept)
  | collect => exact .finished (takeRequest_queueKept collectRequest_queueKept)
  | abandon => exact .finished (takeRequest_queueKept abandonRequest_queueKept)
  | trackSet => exact .finished (takeRequest_queueKept trackSetRequest_queueKept)
  | trackRead => exact .finished (takeRequest_queueKept trackReadRequest_queueKept)
  | sectionRead => exact .finished (takeRequest_queueKept sectionReadRequest_queueKept)
  | pointMode => exact .finished (takeRequest_queueKept pointModeRequest_queueKept)
  | pointThrow => exact .finished (takeRequest_queueKept pointThrowRequest_queueKept)
  | pointReset => exact .finished (takeRequest_queueKept pointResetRequest_queueKept)
  | pointRead => exact .finished (takeRequest_queueKept pointReadRequest_queueKept)
  | run => exact .finished (takeRequest_queueKept runRequest_queueKept)
  | warmReset => exact .finished (takeRequest_queueKept resetRequest_queueKept)
  | layoutLoad => exact .finished (takeRequest_queueKept layoutLoadRequest_queueKept)
  | layoutWrite => exact .finished (takeRequest_queueKept layoutWriteRequest_queueKept)
  | layoutCommit => exact .finished (takeRequest_queueKept layoutCommitRequest_queueKept)
  | layoutSelect => exact .finished (takeRequest_queueKept layoutSelectRequest_queueKept)
  | layoutRead => exact .finished (takeRequest_queueKept layoutReadRequest_queueKept)
  | status => exact .finished (takeRequest_queueKept statusRequest_queueKept)
  | clearFlags => exact .finished (takeRequest_queueKept clearFlagsRequest_queueKept)
  | enableFlags => exact .finished (takeRequest_queueKept enableFlagsRequest_queueKept)
  | unknownCode code body => exact .finished (serveFrame_queueKept s code body)
  | requestHeld code body => exact .finished (serveFrame_queueKept s code body)
  | interByteGap b => exact .finished (byteArrives_queueKept s b)
  | startByte b => exact .finished (byteArrives_queueKept s b)
  | badLengthByte b => exact .finished (byteArrives_queueKept s b)
  | frameBadCheck => exact .next (hunt_stands s).kept
  | badStopBit => exact .next (hunt_stands s).kept
  | answerSent => exact .next (sent_queueKept s)
  | powerOn => exact .finished (restarted_queueKept s)
  | resetLine => exact .finished (restarted_queueKept s)
  | axlePulse => exact .guarded (takePulse_queueKept s)
  | separation => exact execSeparation_leavesQueue s
  | sectionOccupied n => exact .ite (.fault _) (.ite (.unchanged s) (.finished (inputChanges_queueKept s n true)))
  | sectionClear n => exact .ite (.fault _) (.guarded (inputChanges_queueKept s n false))
  | provingTimerExpiry x => exact .guarded (provingExpires_queueKept s x)
  | stallDeadlineExpiry n => exact .ofRecord n fun r => .guarded (stallPasses_queueKept s n r)
  | standTimerExpiry n => exact .ofRecord n fun _ => .guarded (standPasses_queueKept s n)
  | lastMomentExpiry n => exact .ofRecord n fun r => .guarded (lastMomentExpires_queueKept s n r)
  | detectionChange d i on => exact .ite (.fault _) (.ite (.unchanged s) (.finished (detectionChanges_queueKept s d i on)))
  | throwLimitExpiry p => exact .guarded (limitPasses_queueKept s p)
  | settleTimerExpiry p => exact .guarded ((becomeSet_moved p s).stands.trans_kept (followUp_queueKept _ s [] []))
  | idleTimerExpiry p => exact .guarded (idlePasses_queueKept s p)
  | commitComplete b => exact execCommitComplete_leavesQueue s b
  | commitTimerExpiry => exact execCommitTimerExpiry_leavesQueue s

end

/-- Settles O3: no command puts anything on the queue but the watch choices at its end, and those put the expiries of the timers they set. -/
theorem commandsLeaveTheQueue : Obligations.CommandsLeaveTheQueue := fun c s t h => exec_leavesQueue s c t h

end Sys2Proof.Machine
end
